-- ==== Sys2Proof/Word.lean ====
section
/-! DEFINITION. Word types of the Borhus 9140 and their plainest arithmetic (R2, R90, R112, R114, R216). -/

namespace Sys2Proof

/-- One byte. -/
abbrev Byte := BitVec 8

/-- A 64-bit word: a scalar register, a tagged pointer, an instruction word, a descriptor word. -/
abbrev W64 := BitVec 64

/-- A vector register, 2,048 bytes (R112, R114). -/
abbrev VReg := Vector Byte 2048

/-- A mask register, one bit for each byte of a vector (R114). -/
abbrev MReg := Vector Bool 2048

/-- An accumulator tile: element C[i][j] is the W40 code at index 64i + j (R116, R216). -/
abbrev Tile := Vector (BitVec 40) 4096

/-- The zero vector register. -/
def VReg.zero : VReg := Vector.replicate 2048 0#8

/-- The mask with every bit one, the value of k0 (R113). -/
def MReg.ones : MReg := Vector.replicate 2048 true

/-- The mask with every bit zero. -/
def MReg.zero : MReg := Vector.replicate 2048 false

/-- The tile whose elements are all +0. -/
def Tile.zero : Tile := Vector.replicate 4096 0#40

/-- Byte j of a natural number read little-endian (R2). -/
def natByte (n j : Nat) : Byte := BitVec.ofNat 8 (n / 256 ^ j)

/-- The little-endian value of a list of bytes (R2). -/
def leValue : List Byte → Nat
  | [] => 0
  | b :: rest => b.toNat + 256 * leValue rest

/-- The n low bytes of a number, lowest first (R2). -/
def leBytes (n v : Nat) : List Byte := (List.range n).map (natByte v)

end Sys2Proof
end

