-- ==== Sys2Proof/Config.lean ====
section
/-! DEFINITION. What the spec leaves open and a run of the part fixes. Every constant here is opaque: it has no
body, so nothing can evaluate it and nothing can be proved of it. A field `serial` of the state, which each use
advances, makes every use a fresh one. -/

namespace Sys2Proof

/-- Kinds of delay that bind no run (R33, R50, R177, R181, R239): the argument of the free delay. -/
inductive DelayKind where
  | port | engine | chain | walk | slotWrite | bpost | remote | record | mailbox | distributor | stampRead
  | mapack | fetch | slew
deriving DecidableEq, Repr

/-- How many cycles something of kind k takes, at its n-th use. DESIGN CHOICE: log entry 6. -/
opaque Config.delay : DelayKind → Nat → Nat

/-- Element i of an accumulator slot that has just been bound (R116: undefined until the binding write).
DESIGN CHOICE: log entry 13. -/
opaque Config.boundTile : Nat → Nat → BitVec 40

/-- The payload words of a BROKEN slot (R83: undefined). DESIGN CHOICE: log entry 14. -/
opaque Config.brokenWord : Nat → Nat → W64

/-- Whether a map unit uses a cached leaf rather than walking again, for granule j of an access (R348). -/
opaque Config.useCached : Nat → Nat → Bool

/-- A byte read from another package through a link engine (R401). DESIGN CHOICE: log entry 16. -/
opaque Config.remoteByte : Nat → Nat → Byte

/-- How another package's walk of an offset ends (R347, R401). DESIGN CHOICE: log entry 16. -/
opaque Config.remoteWalk : Nat → Nat → Nat

/-- Whether the host completes an access with an error (R347, REASON 5). -/
opaque Config.hostError : Nat → Nat → Bool

/-- Whether the host's root complex serves system-wide atomics (R316). -/
opaque Config.hostAtomics : Nat → Bool

/-- A value the spec does not state, for the operands it is not stated for. -/
opaque Config.openValue : Nat → Nat → Nat

/-- Whether a valid authorisation block accompanies a command that has no argument for one (R328, R343). -/
opaque Config.authorised : Nat → Bool

/-- SHA-256 (R343). DESIGN CHOICE: log entry 19. -/
opaque Config.sha256 : List Byte → List Byte

/-- LMS verification by RFC 8554: public key, message, signature (R343). -/
opaque Config.lmsVerify : List Byte → List Byte → List Byte → Bool

/-- The LMS signature of the device attestation key with leaf q (R343, R345). -/
opaque Config.lmsSign : Nat → List Byte → List Byte

/-- The Ndorov root public key, whose hash the fuses hold (R343). DESIGN CHOICE: log entry 20. -/
opaque Config.rootKey : List Byte

/-- The device attestation public key, 56 bytes, and its root-signed certificate (R345). -/
opaque Config.deviceKey : List Byte
opaque Config.deviceCert : List Byte

/-- SHA-256 of the running base controller firmware and of the secure monitor (R345). -/
opaque Config.firmwareHash : List Byte
opaque Config.monitorHash : List Byte

/-- The fused rollback counter (R343). -/
opaque Config.rollback : Nat

/-- Whether boot verifies every stage (R343). -/
opaque Config.bootOk : Nat → Bool

/-- The part is a 9140-M, which carries its LPDDR memory whole; the memory of the other forms is its integrator's (R1).
DESIGN CHOICE: log entry 20. -/
opaque Config.isModule : Bool

/-- The LPDDR channels that the integrator of a 9140-D or 9140-P has populated (R407). DESIGN CHOICE: log entry 20. -/
opaque Config.populated : BitVec 48

/-- What boot's training finds: the LPDDR channels that train (R407). -/
opaque Config.trainedChannels : Nat → BitVec 48

/-- The resources that boot self-test degrades: RES and INDEX of R380 (R373). DESIGN CHOICE: log
entry 63. -/
opaque Config.bootFaults : Nat → List (Nat × Nat)

/-- The MAC address of the management port (R400). DESIGN CHOICE: log entry 20. -/
opaque Config.mac : BitVec 48

/-- Whether the secure monitor runs after boot (R326). -/
opaque Config.monitorRuns : Nat → Bool

/-- The stepping field of DEVID (R326). DESIGN CHOICE: log entry 20. -/
opaque Config.stepping : Byte

end Sys2Proof
end

