-- ==== Sys2Proof/Syntax.lean ====
section
/-! DEFINITION. The instructions and events of the Borhus 9140: one constructor for each row of
spec/opcode_table.json. The first 164 are instruction words (R136-R152); the others are the events of the
part, each whole and indivisible (spec/95_what_each_step_holds.md). -/

namespace Sys2Proof

/-- The four instruction streams, stream classes 0 to 3 (R136). -/
inductive Stream where
  | c | v | x | m
deriving DecidableEq, Repr

/-- The conditions of BR and XBR (R147). -/
inductive Cond where
  | eq | ne | lt | ge | ltn | gen | always
deriving DecidableEq, Repr

/-- Rounding modes, RM 0 to 3 (R95). -/
inductive RMode where
  | rn | rz | ru | rd
deriving DecidableEq, Repr

/-- Element types, TYPE codes 1 to 15 (R145). -/
inductive EType where
  | i8 | i16 | i32 | i64 | n8 | n16 | n32 | n64 | f32 | f16 | bf16 | e4m3 | e5m2 | e2m1 | log6
deriving DecidableEq, Repr

/-- MX element formats, FN 0 to 5 of VQMX and VDQMX and FMT of a segment (R62, R149). -/
inductive MxFmt where
  | e4m3 | e5m2 | e2m1 | int8 | int4 | log6
deriving DecidableEq, Repr

/-- The conditions of VCMP (R149, R193). -/
inductive VCond where
  | eq | ne | lt | le | gt | ge | unord
deriving DecidableEq, Repr

/-- The operations of VRED and VSCAN (R149, R207, R208). -/
inductive RedOp where
  | add | min | max | and | or | xor
deriving DecidableEq, Repr

/-- The operations of ATOM and RED, FN 0 to 9 (R152, R244). -/
inductive AtomOp where
  | add | min | max | minn | maxn | and | or | xor | xchg | cas
deriving DecidableEq, Repr

/-- FENCE kinds (R152, R247). -/
inductive FenceKind where
  | acquire | release | sc
deriving DecidableEq, Repr

/-- FENCE scopes (R152, R301). -/
inductive Scope where
  | core | die | package | system
deriving DecidableEq, Repr

/-- The count of a LOOP: an immediate (SRC = 0) or a scalar register (SRC = 1) (R144, R166). -/
inductive LoopCount where
  | imm (n : BitVec 24)
  | reg (sa : BitVec 6)
deriving DecidableEq, Repr

/-- The second operand of a binary VF row: a vector register, or a scalar with SC = 1 (R144). -/
inductive VSrc where
  | vec (vb : BitVec 9)
  | scal (sb : BitVec 6)
deriving DecidableEq, Repr

/-- The VAL operand of a VS row: an immediate (IMM = 1) or a scalar (IMM = 0) (R144). -/
inductive VsVal where
  | imm (val : BitVec 18)
  | reg (sb : BitVec 6)
deriving DecidableEq, Repr

/-- The engine operand of COPY and CSTAT (R242). -/
inductive EngSrc where
  | imm (eng : BitVec 7)
  | reg (sb : BitVec 6)
deriving DecidableEq, Repr

/-- The A operand of MMA and MMAC, ASRC 0 to 2 (R220). -/
inductive ASrc where
  | t0 (aa : BitVec 5)
  | vec (v9 : BitVec 9)
  | slot (hs : BitVec 4)
deriving DecidableEq, Repr

/-- How a capture names its slot: by index (KY = 0) or by a key register (KY = 1) (R152, R260). -/
inductive SlotName where
  | index (slot : BitVec 10)
  | key (sk : BitVec 6)
deriving DecidableEq, Repr

/-- Operands of a binary row of the vector arithmetic family (format VF, R188). -/
structure VBin where
  vd : BitVec 9
  va : BitVec 9
  src : VSrc
  k : BitVec 4
  ty : EType
  rm : RMode
  sat : Bool
deriving DecidableEq, Repr

/-- Operands of a unary row of the vector arithmetic family (format VF, R188). -/
structure VUn where
  vd : BitVec 9
  va : BitVec 9
  k : BitVec 4
  ty : EType
  rm : RMode
  sat : Bool
deriving DecidableEq, Repr

/-- Operands of a three-source row (format V3, R191, R192, R203, R209). -/
structure VTri where
  vd : BitVec 9
  va : BitVec 9
  vb : BitVec 9
  vc : BitVec 9
  k : BitVec 4
  ty : EType
  rm : RMode
deriving DecidableEq, Repr

/-- Operands of a two-source V3 row (R194, R205, R209); half is MOD[0] where the row names it. -/
structure VDuo where
  vd : BitVec 9
  va : BitVec 9
  vb : BitVec 9
  k : BitVec 4
  ty : EType
  rm : RMode
  half : Bool
deriving DecidableEq, Repr

/-- Operands of the payload captures QRD to QCAS (format QC, R152, R260); sa and sb are used by the rows
that name them. -/
structure QArgs where
  sd : BitVec 6
  trk : BitVec 3
  name : SlotName
  sa : BitVec 6
  sb : BitVec 6
  wd : BitVec 3
  arr : BitVec 11
deriving DecidableEq, Repr

/-- Why a word draws UNASSIGNED_OPCODE: test 1 of R141, or one of its tests 2 to 4. DEDUCED: log entry 60. -/
inductive DecodeFail where
  | wrongStream
  | illop
deriving DecidableEq, Repr

/-- What an uncorrectable error was consumed from, UNIT of R356. -/
inductive ErrUnit where
  | t0 | layer | lpddr | vregs | sregs | acc | landbuf
deriving DecidableEq, Repr

/-- REASON of a history entry (R380). -/
inductive HistReason where
  | bootTest | correctedRate | uncorrectable | sparesGone | linkTraining
deriving DecidableEq, Repr

/-- A management datagram of R400: its source, its sequence number and its body. -/
structure Datagram where
  source : Nat
  seq : BitVec 32
  magic : BitVec 16
  op : Byte
  status : Byte
  len : Nat
  resv : Nat
  body : List Byte
deriving DecidableEq, Repr

/-- What a Svamus flit asks for or brings (R401): bytes to write, a number of bytes to read, the bytes of a read's
answer, or the REASON for which a walk failed. DESIGN CHOICE: log entry 56. -/
inductive FlitKind where
  | write
  | read (n : Nat)
  | answer
  | failed (reason : Nat)
deriving DecidableEq, Repr

/-- What a Svamus flit carries (R398, R399, R401): the package it goes to and the one it comes from, what it asks or
brings, the context and world it acts for, and its bytes from an offset of that context on. DESIGN CHOICE: log entry 56. -/
structure Flit where
  dest : BitVec 12
  src : BitVec 12
  kind : FlitKind
  ctxid : BitVec 16
  world : Bool
  off : Nat
  bytes : List Byte
deriving DecidableEq, Repr

/-- An access of the host to a BAR that is not an aligned 8-byte access: the BAR, the offset, and whether it writes (R325,
R340). -/
structure BarAccess where
  bar : Nat
  offset : Nat
  write : Bool
deriving DecidableEq, Repr

/-- The instructions and events, one constructor a row of the opcode table; the rows without operands stand
last. -/
inductive Instr where
  -- every class (R139, R166)
  | idle (st : Stream) (count : BitVec 32)
  | loop (st : Stream) (lc : BitVec 2) (count : LoopCount) (tgt : BitVec 17)
  -- the C class: ALU family (R157, R158)
  | add (sd sa sb : BitVec 6)
  | sub (sd sa sb : BitVec 6)
  | mul (sd sa sb : BitVec 6)
  | mulh (sd sa sb : BitVec 6)
  | mulhn (sd sa sb : BitVec 6)
  | div (sd sa sb : BitVec 6)
  | divn (sd sa sb : BitVec 6)
  | rem (sd sa sb : BitVec 6)
  | remn (sd sa sb : BitVec 6)
  | and (sd sa sb : BitVec 6)
  | or (sd sa sb : BitVec 6)
  | xor (sd sa sb : BitVec 6)
  | andn (sd sa sb : BitVec 6)
  | shl (sd sa sb : BitVec 6)
  | shr (sd sa sb : BitVec 6)
  | sra (sd sa sb : BitVec 6)
  | rol (sd sa sb : BitVec 6)
  | min (sd sa sb : BitVec 6)
  | max (sd sa sb : BitVec 6)
  | minn (sd sa sb : BitVec 6)
  | maxn (sd sa sb : BitVec 6)
  | seq (sd sa sb : BitVec 6)
  | sne (sd sa sb : BitVec 6)
  | slt (sd sa sb : BitVec 6)
  | sltn (sd sa sb : BitVec 6)
  | sel (sd sa sb sc : BitVec 6)
  -- immediates (R159, R160)
  | addi (sd sa : BitVec 6) (imm : BitVec 34)
  | andi (sd sa : BitVec 6) (imm : BitVec 34)
  | ori (sd sa : BitVec 6) (imm : BitVec 34)
  | xori (sd sa : BitVec 6) (imm : BitVec 34)
  | slti (sd sa : BitVec 6) (imm : BitVec 34)
  | shli (sd sa : BitVec 6) (imm : BitVec 34)
  | shri (sd sa : BitVec 6) (imm : BitVec 34)
  | srai (sd sa : BitVec 6) (imm : BitVec 34)
  | li (sd : BitVec 6) (imm : BitVec 34)
  | lih (sd sa : BitVec 6) (imm : BitVec 34)
  -- bit fields (R161)
  | clz (sd sa : BitVec 6)
  | ctz (sd sa : BitVec 6)
  | popc (sd sa : BitVec 6)
  | bext (sd sa : BitVec 6) (pos : BitVec 6) (len : BitVec 7)
  | bins (sd sa sb : BitVec 6) (pos : BitVec 6) (len : BitVec 7)
  -- tagged pointers (R162-R164)
  | amk (ad : BitVec 5) (sa sb : BitVec 6) (spc : BitVec 5)
  | aadd (ad aa : BitVec 5) (sa : BitVec 6)
  | aaddi (ad aa : BitVec 5) (imm : BitVec 34)
  | amovAddr (ad aa : BitVec 5)
  | amovFromScalar (ad : BitVec 5) (sa : BitVec 6)
  | amovToScalar (sd : BitVec 6) (aa : BitVec 5)
  | afldSpace (sd : BitVec 6) (aa : BitVec 5)
  | afldRank (sd : BitVec 6) (aa : BitVec 5)
  | afldOffset (sd : BitVec 6) (aa : BitVec 5)
  -- flow, tasks and system (R165-R181)
  | br (cond : Cond) (sa sb : BitVec 6) (tgt : BitVec 17)
  | xbr (cond : Cond) (sa sb : BitVec 6) (soff : BitVec 24)
  | trap (code : BitVec 32)
  | taskq (sd : BitVec 6) (aa : BitVec 5) (sb : BitVec 6)
  | bpost (aa : BitVec 5) (sb : BitVec 6)
  | bread (sd : BitVec 6) (bar : BitVec 8)
  | fmt (sa : BitVec 6)
  | srd (sd : BitVec 6) (spr : BitVec 6)
  | swr (sa : BitVec 6) (spr : BitVec 6)
  -- the V class: arithmetic family (R188-R190)
  | vadd (x : VBin)
  | vsub (x : VBin)
  | vmul (x : VBin)
  | vmulh (x : VBin)
  | vmin (x : VBin)
  | vmax (x : VBin)
  | vabs (x : VUn)
  | vneg (x : VUn)
  | vand (x : VBin)
  | vor (x : VBin)
  | vxor (x : VBin)
  | vandn (x : VBin)
  | vshl (x : VBin)
  | vshr (x : VBin)
  | vsra (x : VBin)
  | vrol (x : VBin)
  | vclz (x : VUn)
  | vpopc (x : VUn)
  | vdiv (x : VBin)
  | vsqrt (x : VUn)
  | vrcp (x : VUn)
  | vrsq (x : VUn)
  | vexp2 (x : VUn)
  | vlog2 (x : VUn)
  | vrnd (x : VUn)
  -- fused, funnel, compare, select, convert (R191-R198)
  | vfma (x : VTri)
  | vfms (x : VTri)
  | vfnma (x : VTri)
  | vfshl (x : VTri)
  | vfshr (x : VTri)
  | vcmp (kd : BitVec 4) (va : BitVec 9) (src : VSrc) (k : BitVec 4) (ty : EType) (cond : VCond)
  | vsel (x : VDuo)
  | vcvt (vd va : BitVec 9) (k : BitVec 4) (src : EType) (rm : RMode) (dst : EType) (sat : Bool)
  | vqmx (vd vb va : BitVec 9) (k : BitVec 4) (rm : RMode) (fmt : MxFmt)
  | vdqmx (vd va vb : BitVec 9) (k : BitVec 4) (ty : EType) (rm : RMode) (fmt : MxFmt)
  -- moves and single elements (R199-R202)
  | vli (vd : BitVec 9) (val : BitVec 18) (k : BitVec 4) (ty : EType)
  | vbcast (vd : BitVec 9) (src : VsVal) (k : BitVec 4) (ty : EType)
  | vmov (vd va : BitVec 9) (k : BitVec 4)
  | vext (sd : BitVec 6) (va : BitVec 9) (idx : VsVal) (ty : EType)
  | vins (vd : BitVec 9) (sa : BitVec 6) (idx : VsVal) (ty : EType)
  | vidx (vd : BitVec 9) (start : VsVal) (k : BitVec 4) (ty : EType)
  -- permutes (R203-R206)
  | vperm (x : VTri)
  | vrot (vd va : BitVec 9) (cnt : VsVal) (k : BitVec 4) (ty : EType)
  | vshup (vd va : BitVec 9) (cnt : VsVal) (k : BitVec 4) (ty : EType)
  | vzip (x : VDuo)
  | vunzip (x : VDuo)
  | vtrn (x : VDuo)
  | vcomp (vd va : BitVec 9) (k : BitVec 4) (ty : EType)
  | vexpd (vd va : BitVec 9) (k : BitVec 4) (ty : EType)
  -- reductions, scans, complex arithmetic (R207-R209)
  | vred (vd va : BitVec 9) (k : BitVec 4) (ty : EType) (rm : RMode) (op : RedOp) (grp : BitVec 4)
  | vscan (vd va : BitVec 9) (k : BitVec 4) (ty : EType) (rm : RMode) (op : RedOp) (grp : BitVec 4)
  | vcmul (x : VDuo)
  | vcmac (x : VTri)
  -- masks (R210) and the known-answer compare (R211)
  | kand (kd ka kb : BitVec 4)
  | kor (kd ka kb : BitVec 4)
  | kxor (kd ka kb : BitVec 4)
  | knot (kd ka : BitVec 4)
  | kmov (kd ka : BitVec 4)
  | kpopc (sd : BitVec 6) (ka : BitVec 4)
  | kfirst (sd : BitVec 6) (ka : BitVec 4)
  | kfroms (kd : BitVec 4) (sa : BitVec 6)
  | kbytes (kd : BitVec 4) (sa sb : BitVec 6)
  | vkat (va : BitVec 9) (val : BitVec 18)
  -- the X class (R220-R233)
  | mma (hd : BitVec 4) (a : ASrc) (ab : BitVec 5) (acc : Bool)
  | mmac (hd : BitVec 4) (a : ASrc) (ab : BitVec 5) (acc : Bool)
  | acz (hd : BitVec 4)
  | acld (hd : BitVec 4) (aa : BitVec 5)
  | acst (hd : BitVec 4) (aa : BitVec 5) (rel : Bool)
  | acrel (hd : BitVec 4)
  | acadd (hd hs : BitVec 4)
  | accpy (hd hs : BitVec 4)
  | acrd (hd : BitVec 4) (vd : BitVec 9) (row : BitVec 6)
  | acsum (hd : BitVec 4) (vd : BitVec 9) (col : Bool)
  | acset (hd : BitVec 4) (vs : BitVec 9) (row col : BitVec 6)
  | acflip (hd : BitVec 4) (row col bit : BitVec 6)
  | xkat (hd : BitVec 4) (aa : BitVec 5)
  -- the M class: terrace 0 and landings (R237-R241)
  | tld (vd : BitVec 9) (aa : BitVec 5) (off : BitVec 28)
  | tlds (sd : BitVec 6) (aa : BitVec 5) (off : BitVec 28)
  | tldk (kd : BitVec 4) (aa : BitVec 5) (off : BitVec 28)
  | tst (vs : BitVec 9) (aa : BitVec 5) (k : BitVec 4) (off : BitVec 28)
  | tsts (ss : BitVec 6) (aa : BitVec 5) (off : BitVec 28)
  | land (vd : BitVec 9) (aa : BitVec 5) (off : BitVec 18) (arr : BitVec 10) (xf : BitVec 2)
  | lands (sd : BitVec 6) (aa : BitVec 5) (off : BitVec 18) (arr : BitVec 10)
  -- copy commands, atomics, stamps, fences (R242-R247)
  | copy (sd : BitVec 6) (aa : BitVec 5) (eng : EngSrc)
  | cstat (sd : BitVec 6) (aa : BitVec 5) (eng : EngSrc)
  | atom (sd : BitVec 6) (aa : BitVec 5) (sb sc : BitVec 6) (op : AtomOp) (wide : Bool) (arr : BitVec 10)
  | red (aa : BitVec 5) (sb : BitVec 6) (op : AtomOp) (wide : Bool)
  | stamp (aa : BitVec 5) (sb : BitVec 6)
  | fence (scope : Scope) (kind : FenceKind)
  -- captures (R260-R267)
  | qrd (x : QArgs)
  | qwr (x : QArgs)
  | qadd (x : QArgs)
  | qmin (x : QArgs)
  | qmax (x : QArgs)
  | qor (x : QArgs)
  | qxchg (x : QArgs)
  | qcas (x : QArgs)
  | qbrd (sd : BitVec 6) (trk : BitVec 3) (sa sb : BitVec 6) (wd : BitVec 3) (arr : BitVec 11)
  | qalt (sd : BitVec 6) (trk : BitVec 3) (name : SlotName) (aa : BitVec 5) (arr : BitVec 11)
  -- the task life cycle (R15-R27, R169-R173)
  | taskStart (r : Fin 288)
  | alignedStart (r : Fin 288)
  | effectiveClassRise (r : Fin 288) (n : Fin 32)
  | gangStartTick (r : Fin 288) (n : Fin 32)
  | gangPlace (job : Nat)
  | taskEnd (r : Fin 288)
  | taskqSlotWrite (r : Fin 288) (n : Fin 32)
  -- landings, freezes, interrupts and stops (R47-R49, R122, R353-R367)
  | landingArrival (r : Fin 288) (id : Nat)
  | freezeEnd (r : Fin 288)
  | gangFreeze (r : Fin 288)
  | budgetExpiry (r : Fin 288)
  | timer (r : Fin 288)
  | taskStop (r : Fin 288)
  | uncorr (r : Fin 288) (unit : ErrUnit) (line : W64) (index : BitVec 16)
  -- barriers, stamps, translation and fault records (R17, R58, R349, R350)
  | barrierAddition (id : Nat)
  | globalStampRead (r : Fin 288) (n : Fin 32) (i : Fin 4)
  | translationWalk (r : Fin 288) (id : Nat)
  | faultRecordWrite (ctxid : BitVec 16)
  -- copy chains (R52, R249-R259, R401)
  | chainStart (e : Fin 96)
  | move (e : Fin 96)
  | segmentMove (e : Fin 96)
  | window (e : Fin 96)
  | loopEntry (e : Fin 96)
  | cond (e : Fin 96)
  | condHolds (e : Fin 96)
  | signal (e : Fin 96)
  | expand (e : Fin 96)
  | jump (e : Fin 96)
  | endChain (e : Fin 96)
  | chainLimit (e : Fin 96)
  | remoteStamp (e : Fin 96)
  -- captures at the ring (R73-R80, R83, R264)
  | capturePerform (r : Fin 288) (id : Nat)
  | captureAbsent (r : Fin 288) (id : Nat)
  | captureResult (r : Fin 288) (id : Nat)
  | slotError (track : Fin 8) (slot : Fin 1024)
  -- the mailbox (R327-R345)
  | cmd (value : W64)
  -- windows, queues and jobs (R326, R334-R340, R364)
  | doorbell (offset : Nat) (value : W64)
  | registerWrite (offset : Nat) (value : W64)
  | cardRead (ctxid : BitVec 16) (q : Fin 4)
  | chunkDeal (job : Nat)
  | completionRecord (job : Nat)
  | gangResumeTick (r : Fin 288) (n : Fin 32)
  -- degradation (R381-R389)
  | bankRetire (entry : Fin 16) (group : Fin 64) (bank : Fin 64) (why : HistReason)
  | laneSpare (entry : Fin 16) (group : Fin 512) (why : HistReason)
  | layerLost (entry : Fin 16) (group : Option (Fin 64))
  | coreLost (r : Fin 288) (why : HistReason)
  | stationLost (r : Fin 288) (why : HistReason)
  | ringReform (pos : Vector (BitVec 10) 288) (why : HistReason)
  | channelLost (ch : Fin 48) (why : HistReason)
  | portLost (p : Fin 16) (why : HistReason)
  | recoveryPoint (r : Fin 288)
  | mapDeadline (ctxid : BitVec 16)
  -- time, management, links, counters, temperature, power (R395-R408)
  | ptpSync (offsetNs : Int) (taiNs : Nat)
  | getnum (d : Datagram)
  | getroute (d : Datagram)
  | stagenum (d : Datagram)
  | stageroute (d : Datagram)
  | commit (d : Datagram)
  | discard (d : Datagram)
  | flitReceive (port : Fin 16) (crcOk : Bool) (x : Flit)
  | thermalSample (centi : Int)
  | voltageSample (centiPercent : Int)
  | colCrossing (slot : Fin 1024)
  | unassignedOpcode (why : DecodeFail)
  | misalignedBarAccess (access : BarAccess)
  | badOp (d : Datagram)
  | dhcpOffer (addr : BitVec 32)
  | linkLaneRetire (port : Fin 16)
  -- rows without operands, words and events
  | tend
  | rft
  | mapack
  | qfence
  | create
  | destroy
  | reside
  | evict
  | setattr
  | guard
  | freeslot
  | resolve
  | ackmap
  | worldset
  | attest
  | preempt
  | dbgreq
  | ownerkey
  | unknownCommand
  | commandComplete
  | bellerrRead
  | tick
  | screeSave
  | thermalPreempt
  | thermalShutdown
  | powerOnReset
  | orderlyShutdown
  | powerLoss
  | thermalClear
deriving DecidableEq, Repr

end Sys2Proof
end

