-- ==== Sys2Proof/WellFormed.lean ====
section
/-! DEFINITION. Well-formed instructions: the limits that R141's tests 2 to 4 put on a word's fields, stated on
the decoded instruction. Register codes beyond their file are not tested here: they pass tests 1 to 5 and fail
test 6 at issue (R123, R141). -/

namespace Sys2Proof

/-- Storage width of a type in bits (R184). -/
def EType.width : EType → Nat
  | .i8 | .n8 | .e4m3 | .e5m2 | .log6 => 8
  | .i16 | .n16 | .f16 | .bf16 => 16
  | .i32 | .n32 | .f32 => 32
  | .i64 | .n64 => 64
  | .e2m1 => 4

/-- The element count of a type, n = 16,384 / w (R184). -/
def EType.count (t : EType) : Nat := 16384 / t.width

/-- Group I of R145. -/
def EType.isI : EType → Bool
  | .i8 | .i16 | .i32 | .i64 | .n8 | .n16 | .n32 | .n64 => true
  | _ => false

/-- Group F of R145. -/
def EType.isF : EType → Bool
  | .f32 | .f16 | .bf16 => true
  | _ => false

/-- Group I or F of R145. -/
def EType.isIF (t : EType) : Bool := t.isI || t.isF

/-- The signed integer types. -/
def EType.isSigned : EType → Bool
  | .i8 | .i16 | .i32 | .i64 => true
  | _ => false

/-- RM = 0, the only mode where an entry does not round (R145, R187). -/
def RMode.isZero (m : RMode) : Bool := m == .rn

/-- The limit of TGT (R144, R165). -/
def tgtOk (t : BitVec 17) : Bool := t.toNat ≤ 65279

/-- The sa and sb of the always form are reserved (R147). -/
def condOk (c : Cond) (sa sb : BitVec 6) : Bool := c != .always || (sa == 0 && sb == 0)

/-- A shift count of SHLI, SHRI and SRAI (R159). -/
def shiftOk (imm : BitVec 34) : Bool := imm.toNat ≤ 63

/-- LEN 1-64 and POS + LEN at most 64 (R161). -/
def fieldOk (pos : BitVec 6) (len : BitVec 7) : Bool := 1 ≤ len.toNat && pos.toNat + len.toNat ≤ 64

/-- A binary arithmetic row: its types, whether it rounds, whether it admits .sat (R188). -/
def VBin.ok (x : VBin) (i f rounds sat : Bool) : Bool :=
  ((i && x.ty.isI) || (f && x.ty.isF)) && (x.rm.isZero || (rounds && x.ty.isF)) && (!x.sat || (sat && x.ty.isI))

/-- A unary arithmetic row (R188). -/
def VUn.ok (x : VUn) (i f rounds sat : Bool) : Bool :=
  ((i && x.ty.isI) || (f && x.ty.isF)) && (x.rm.isZero || (rounds && x.ty.isF)) && (!x.sat || (sat && x.ty.isI))

/-- VLI's immediate: bits [17:16] are zero for the 16-bit float types (R199). -/
def vliOk (val : BitVec 18) (ty : EType) : Bool :=
  ty.isIF && ((ty != .f16 && ty != .bf16) || val.toNat < 2 ^ 16)

/-- An element index: an immediate lies below the element count (R201). -/
def idxOk (ty : EType) : VsVal → Bool
  | .imm v => v.toNat < ty.count
  | .reg _ => true

/-- VRED and VSCAN: types of the operation, RM, and 2^GRP within the register (R149, R207, R208). -/
def redOk (ty : EType) (rm : RMode) (op : RedOp) (grp : BitVec 4) (scan : Bool) : Bool :=
  (match op with
    | .add | .min | .max => ty.isIF
    | .and | .or | .xor => ty.isI && !scan)
  && (rm.isZero || (op == .add && ty.isF)) && 2 ^ grp.toNat ≤ ty.count

/-- Which of sd, sa and sb a payload capture names; the others are zero (R152). -/
def QArgs.ok (x : QArgs) (sd sa sb : Bool) : Bool :=
  (sd || x.sd == 0) && (sa || x.sa == 0) && (sb || x.sb == 0)

/-- The limits of tests 2 to 4 of R141; events are always well formed. -/
def Instr.wf : Instr → Bool
  | .loop st _ n tgt => tgtOk tgt && (match n with | .imm _ => true | .reg _ => st != .x)
  | .shli _ _ imm | .shri _ _ imm | .srai _ _ imm => shiftOk imm
  | .bext _ _ pos len => fieldOk pos len
  | .bins _ _ _ pos len => fieldOk pos len
  | .br c sa sb tgt => condOk c sa sb && tgtOk tgt
  | .xbr c sa sb soff => condOk c sa sb && soff.toNat % 16 == 0
  | .vadd x | .vsub x | .vmul x => x.ok true true true true
  | .vmulh x => x.ok true false false false
  | .vmin x | .vmax x => x.ok true true false false
  | .vabs x | .vneg x => x.ok true true false true
  | .vand x | .vor x | .vxor x | .vandn x | .vshl x | .vshr x | .vsra x | .vrol x => x.ok true false false false
  | .vclz x | .vpopc x => x.ok true false false false
  | .vdiv x => x.ok false true true false
  | .vsqrt x | .vrcp x | .vrsq x | .vexp2 x | .vlog2 x | .vrnd x => x.ok false true true false
  | .vfma x | .vfms x | .vfnma x | .vcmac x => x.ty.isF
  | .vfshl x | .vfshr x => x.ty.isI && x.rm.isZero
  | .vcmp _ _ _ _ ty c => ty.isF || (ty.isI && c != .unord)
  | .vsel x => x.ty.isIF && x.rm.isZero && !x.half
  | .vcvt _ _ _ src rm _ _ => rm.isZero || !src.isI
  | .vqmx vd vb _ _ _ _ => vd != vb
  | .vdqmx _ _ _ _ ty _ _ => ty.isF
  | .vli _ val _ ty => vliOk val ty
  | .vbcast _ src _ ty => ty.isIF && (match src with | .imm v => vliOk v ty | .reg _ => true)
  | .vext _ _ idx ty | .vins _ _ idx ty => ty.isIF && idxOk ty idx
  | .vidx _ _ _ ty => ty.isI
  | .vperm x => x.ty.isIF && x.rm.isZero
  | .vrot _ _ _ _ ty | .vshup _ _ _ _ ty => ty.isIF
  | .vzip x | .vunzip x | .vtrn x => x.ty.isIF && x.rm.isZero
  | .vcomp _ _ _ ty | .vexpd _ _ _ ty => ty.isIF
  | .vred _ _ _ ty rm op grp => redOk ty rm op grp false
  | .vscan _ _ _ ty rm op grp => redOk ty rm op grp true
  | .vcmul x => x.ty.isF && !x.half
  | .acrd _ _ row => row.toNat ≤ 56
  | .acflip _ _ _ bit => bit.toNat ≤ 39
  | .copy _ _ e | .cstat _ _ e => (match e with | .imm n => n.toNat ≤ 95 | .reg _ => true)
  | .atom _ _ _ sc op _ _ => op == .cas || sc == 0
  | .red _ _ op _ => op != .xchg && op != .cas
  | .qrd x => x.ok true false false
  | .qwr x => x.ok false false true
  | .qadd x | .qmin x | .qmax x | .qor x | .qxchg x => x.ok true false true
  | .qcas x => x.ok true true true
  | _ => true

/-- The instruction is a word of a stream section (an instruction row, not an event row). -/
def Instr.stream? : Instr → Option Stream
  | .idle st _ | .loop st _ _ _ => some st
  | .add .. | .sub .. | .mul .. | .mulh .. | .mulhn .. | .div .. | .divn .. | .rem .. | .remn .. | .and ..
  | .or .. | .xor .. | .andn .. | .shl .. | .shr .. | .sra .. | .rol .. | .min .. | .max .. | .minn ..
  | .maxn .. | .seq .. | .sne .. | .slt .. | .sltn .. | .sel .. | .addi .. | .andi .. | .ori .. | .xori ..
  | .slti .. | .shli .. | .shri .. | .srai .. | .li .. | .lih .. | .clz .. | .ctz .. | .popc .. | .bext ..
  | .bins .. | .amk .. | .aadd .. | .aaddi .. | .amovAddr .. | .amovFromScalar .. | .amovToScalar ..
  | .afldSpace .. | .afldRank .. | .afldOffset .. | .br .. | .xbr .. | .tend | .trap .. | .rft | .taskq ..
  | .bpost .. | .bread .. | .fmt .. | .srd .. | .swr .. | .mapack => some .c
  | .vadd .. | .vsub .. | .vmul .. | .vmulh .. | .vmin .. | .vmax .. | .vabs .. | .vneg .. | .vand ..
  | .vor .. | .vxor .. | .vandn .. | .vshl .. | .vshr .. | .vsra .. | .vrol .. | .vclz .. | .vpopc ..
  | .vdiv .. | .vsqrt .. | .vrcp .. | .vrsq .. | .vexp2 .. | .vlog2 .. | .vrnd .. | .vfma .. | .vfms ..
  | .vfnma .. | .vfshl .. | .vfshr .. | .vcmp .. | .vsel .. | .vcvt .. | .vqmx .. | .vdqmx .. | .vli ..
  | .vbcast .. | .vmov .. | .vext .. | .vins .. | .vidx .. | .vperm .. | .vrot .. | .vshup .. | .vzip ..
  | .vunzip .. | .vtrn .. | .vcomp .. | .vexpd .. | .vred .. | .vscan .. | .vcmul .. | .vcmac .. | .kand ..
  | .kor .. | .kxor .. | .knot .. | .kmov .. | .kpopc .. | .kfirst .. | .kfroms .. | .kbytes .. | .vkat .. => some .v
  | .mma .. | .mmac .. | .acz .. | .acld .. | .acst .. | .acrel .. | .acadd .. | .accpy .. | .acrd ..
  | .acsum .. | .acset .. | .acflip .. | .xkat .. => some .x
  | .tld .. | .tlds .. | .tldk .. | .tst .. | .tsts .. | .land .. | .lands .. | .copy .. | .cstat .. | .atom ..
  | .red .. | .stamp .. | .fence .. | .qrd .. | .qwr .. | .qadd .. | .qmin .. | .qmax .. | .qor .. | .qxchg ..
  | .qcas .. | .qbrd .. | .qalt .. | .qfence => some .m
  | _ => none

end Sys2Proof
end

