-- ==== Sys2Proof/Decode.lean ====
section
/-! DEFINITION. Decoding of the 64-bit instruction words (R136, R141, R143-R152), total on every word, and the
encoder written from the same tables. A word that fails test 1 of R141 is refused as wrongStream, one that fails
tests 2 to 4 as illop; step runs such a word as UNASSIGNED_OPCODE. -/

namespace Sys2Proof

/-- Stream class code (R136). -/
def Stream.code : Stream → BitVec 2
  | .c => 0 | .v => 1 | .x => 2 | .m => 3

/-- The stream of a class code. -/
def Stream.ofCode (b : BitVec 2) : Stream :=
  if b = 0 then .c else if b = 1 then .v else if b = 2 then .x else .m

def RMode.code : RMode → BitVec 2
  | .rn => 0 | .rz => 1 | .ru => 2 | .rd => 3

def RMode.ofCode (b : BitVec 2) : RMode :=
  if b = 0 then .rn else if b = 1 then .rz else if b = 2 then .ru else .rd

def EType.code : EType → BitVec 4
  | .i8 => 1 | .i16 => 2 | .i32 => 3 | .i64 => 4 | .n8 => 5 | .n16 => 6 | .n32 => 7 | .n64 => 8
  | .f32 => 9 | .f16 => 10 | .bf16 => 11 | .e4m3 => 12 | .e5m2 => 13 | .e2m1 => 14 | .log6 => 15

/-- TYPE 0 names no type (R145). -/
def EType.ofCode (b : BitVec 4) : Option EType :=
  match b.toNat with
  | 1 => some .i8 | 2 => some .i16 | 3 => some .i32 | 4 => some .i64
  | 5 => some .n8 | 6 => some .n16 | 7 => some .n32 | 8 => some .n64
  | 9 => some .f32 | 10 => some .f16 | 11 => some .bf16 | 12 => some .e4m3
  | 13 => some .e5m2 | 14 => some .e2m1 | 15 => some .log6 | _ => none

def Cond.code : Cond → BitVec 3
  | .eq => 0 | .ne => 1 | .lt => 2 | .ge => 3 | .ltn => 4 | .gen => 5 | .always => 6

def Cond.ofCode (b : BitVec 3) : Option Cond :=
  match b.toNat with
  | 0 => some .eq | 1 => some .ne | 2 => some .lt | 3 => some .ge
  | 4 => some .ltn | 5 => some .gen | 6 => some .always | _ => none

def MxFmt.code : MxFmt → BitVec 6
  | .e4m3 => 0 | .e5m2 => 1 | .e2m1 => 2 | .int8 => 3 | .int4 => 4 | .log6 => 5

def MxFmt.ofCode (b : BitVec 6) : Option MxFmt :=
  match b.toNat with
  | 0 => some .e4m3 | 1 => some .e5m2 | 2 => some .e2m1
  | 3 => some .int8 | 4 => some .int4 | 5 => some .log6 | _ => none

def VCond.code : VCond → BitVec 6
  | .eq => 0 | .ne => 1 | .lt => 2 | .le => 3 | .gt => 4 | .ge => 5 | .unord => 6

def VCond.ofCode (b : BitVec 6) : Option VCond :=
  match b.toNat with
  | 0 => some .eq | 1 => some .ne | 2 => some .lt | 3 => some .le
  | 4 => some .gt | 5 => some .ge | 6 => some .unord | _ => none

def RedOp.code : RedOp → BitVec 6
  | .add => 0 | .min => 1 | .max => 2 | .and => 3 | .or => 4 | .xor => 5

def RedOp.ofCode (b : BitVec 6) : Option RedOp :=
  match b.toNat with
  | 0 => some .add | 1 => some .min | 2 => some .max
  | 3 => some .and | 4 => some .or | 5 => some .xor | _ => none

def AtomOp.code : AtomOp → BitVec 4
  | .add => 0 | .min => 1 | .max => 2 | .minn => 3 | .maxn => 4
  | .and => 5 | .or => 6 | .xor => 7 | .xchg => 8 | .cas => 9

def AtomOp.ofCode (b : BitVec 4) : Option AtomOp :=
  match b.toNat with
  | 0 => some .add | 1 => some .min | 2 => some .max | 3 => some .minn | 4 => some .maxn
  | 5 => some .and | 6 => some .or | 7 => some .xor | 8 => some .xchg | 9 => some .cas | _ => none

def Scope.code : Scope → BitVec 2
  | .core => 0 | .die => 1 | .package => 2 | .system => 3

def Scope.ofCode (b : BitVec 2) : Scope :=
  if b = 0 then .core else if b = 1 then .die else if b = 2 then .package else .system

def FenceKind.code : FenceKind → BitVec 2
  | .acquire => 0 | .release => 1 | .sc => 2

def FenceKind.ofCode (b : BitVec 2) : Option FenceKind :=
  match b.toNat with
  | 0 => some .acquire | 1 => some .release | 2 => some .sc | _ => none

/-- The field of w with low bit lo and len bits. -/
abbrev fld (w : W64) (lo len : Nat) : BitVec len := w.extractLsb' lo len

/-- The field of w with low bit lo and len bits is zero. -/
def zf (w : W64) (lo len : Nat) : Bool := w.extractLsb' lo len == 0

/-- The IDLE field (R136). -/
def wordIdle (w : W64) : Nat := (w.extractLsb' 54 10).toNat

/-- The instruction where its fields pass, nothing otherwise. -/
def keep (ok : Bool) (i : Instr) : Option Instr := if ok then some i else none

/-- A decoded candidate is kept exactly when its fields meet the limits of tests 2 to 4. -/
def checked (ok : Bool) (i : Instr) : Option Instr := keep (ok && i.wf) i

/-- LP, for every class (R144, R166). -/
def decodeLoop (st : Stream) (w : W64) : Option Instr :=
  let lc := fld w 44 2
  let tgt := fld w 0 17
  if fld w 43 1 = 0 then checked (zf w 41 2) (.loop st lc (.imm (fld w 17 24)) tgt)
  else checked (zf w 41 2 && zf w 23 18) (.loop st lc (.reg (fld w 17 6)) tgt)

/-- The ALU family, format S3 (R147, R157). -/
def decodeAlu (w : W64) : Option Instr :=
  let d := fld w 40 6
  let a := fld w 34 6
  let b := fld w 28 6
  let ok := zf w 22 6 && zf w 0 16
  match (fld w 16 6).toNat with
  | 0 => keep ok (.add d a b) | 1 => keep ok (.sub d a b) | 2 => keep ok (.mul d a b)
  | 3 => keep ok (.mulh d a b) | 4 => keep ok (.mulhn d a b) | 5 => keep ok (.div d a b)
  | 6 => keep ok (.divn d a b) | 7 => keep ok (.rem d a b) | 8 => keep ok (.remn d a b)
  | 9 => keep ok (.and d a b) | 10 => keep ok (.or d a b) | 11 => keep ok (.xor d a b)
  | 12 => keep ok (.andn d a b) | 13 => keep ok (.shl d a b) | 14 => keep ok (.shr d a b)
  | 15 => keep ok (.sra d a b) | 16 => keep ok (.rol d a b) | 17 => keep ok (.min d a b)
  | 18 => keep ok (.max d a b) | 19 => keep ok (.minn d a b) | 20 => keep ok (.maxn d a b)
  | 21 => keep ok (.seq d a b) | 22 => keep ok (.sne d a b) | 23 => keep ok (.slt d a b)
  | 24 => keep ok (.sltn d a b) | 25 => keep (zf w 0 16) (.sel d a b (fld w 22 6))
  | _ => none

/-- The bit family, format SB (R147, R161). -/
def decodeBit (w : W64) : Option Instr :=
  let d := fld w 40 6
  let a := fld w 34 6
  let ok := zf w 28 6 && zf w 0 22
  match (fld w 22 6).toNat with
  | 0 => keep ok (.clz d a)
  | 1 => keep ok (.ctz d a)
  | 2 => keep ok (.popc d a)
  | 3 => checked (zf w 28 6 && zf w 0 9) (.bext d a (fld w 16 6) (fld w 9 7))
  | 4 => checked (zf w 0 9) (.bins d a (fld w 28 6) (fld w 16 6) (fld w 9 7))
  | _ => none

/-- The address family, format AX (R147, R162). -/
def decodeAddr (w : W64) : Option Instr :=
  let ad := fld w 41 5
  let aa := fld w 36 5
  let sd := fld w 30 6
  let sa := fld w 24 6
  let sb := fld w 18 6
  let zad := zf w 41 5
  let zaa := zf w 36 5
  let zsd := zf w 30 6
  let zsa := zf w 24 6
  let zsb := zf w 18 6
  let zspc := zf w 13 5
  let z := zf w 0 4
  match (fld w 4 6).toNat, (fld w 10 3).toNat with
  | 0, 0 => keep (zaa && zsd && z) (.amk ad sa sb (fld w 13 5))
  | 1, 0 => keep (zsd && zsb && zspc && z) (.aadd ad aa sa)
  | 2, 0 => keep (zsd && zsa && zsb && zspc && z) (.amovAddr ad aa)
  | 2, 1 => keep (zaa && zsd && zsb && zspc && z) (.amovFromScalar ad sa)
  | 2, 2 => keep (zad && zsa && zsb && zspc && z) (.amovToScalar sd aa)
  | 3, 0 => keep (zad && zsa && zsb && zspc && z) (.afldSpace sd aa)
  | 3, 1 => keep (zad && zsa && zsb && zspc && z) (.afldRank sd aa)
  | 3, 2 => keep (zad && zsa && zsb && zspc && z) (.afldOffset sd aa)
  | _, _ => none

/-- The C class (R146, R147). -/
def decodeC (w : W64) : Option Instr :=
  let d := fld w 40 6
  let a := fld w 34 6
  let imm := fld w 0 34
  match (fld w 46 6).toNat with
  | 0x00 => keep (zf w 32 14) (.idle .c (fld w 0 32))
  | 0x01 => decodeAlu w
  | 0x02 => keep true (.addi d a imm)
  | 0x03 => keep true (.andi d a imm)
  | 0x04 => keep true (.ori d a imm)
  | 0x05 => keep true (.xori d a imm)
  | 0x06 => keep true (.slti d a imm)
  | 0x07 => checked true (.shli d a imm)
  | 0x08 => checked true (.shri d a imm)
  | 0x09 => checked true (.srai d a imm)
  | 0x0A => keep (zf w 34 6) (.li d imm)
  | 0x0B => keep true (.lih d a imm)
  | 0x0C => decodeBit w
  | 0x0D => decodeAddr w
  | 0x0E => keep (zf w 34 2) (.aaddi (fld w 41 5) (fld w 36 5) imm)
  | 0x10 => match Cond.ofCode (fld w 31 3) with
    | some c => checked (zf w 17 14) (.br c (fld w 40 6) (fld w 34 6) (fld w 0 17))
    | none => none
  | 0x11 => match Cond.ofCode (fld w 31 3) with
    | some c => checked (zf w 24 7) (.xbr c (fld w 40 6) (fld w 34 6) (fld w 0 24))
    | none => none
  | 0x12 => keep (zf w 0 46) .tend
  | 0x13 => keep (zf w 32 14) (.trap (fld w 0 32))
  | 0x14 => keep (zf w 0 46) .rft
  | 0x18 => keep (zf w 34 1 && zf w 0 28) (.taskq d (fld w 35 5) (fld w 28 6))
  | 0x19 => keep (zf w 40 6 && zf w 34 1 && zf w 0 28) (.bpost (fld w 35 5) (fld w 28 6))
  | 0x1A => keep (zf w 28 12 && zf w 0 20) (.bread d (fld w 20 8))
  | 0x1B => keep (zf w 40 6 && zf w 0 34) (.fmt a)
  | 0x1C => keep (zf w 34 6 && zf w 0 28) (.srd d (fld w 28 6))
  | 0x1D => keep (zf w 40 6 && zf w 0 28) (.swr a (fld w 28 6))
  | 0x1E => keep (zf w 0 46) .mapack
  | 0x3F => decodeLoop .c w
  | _ => none

/-- The second operand of a VF word: vb, or a scalar in vb[24:19] with [27:25] reserved (R144). -/
def decodeVSrc (w : W64) : Option VSrc :=
  if fld w 1 1 = 0 then some (.vec (fld w 19 9))
  else if zf w 25 3 then some (.scal (fld w 19 6)) else none

/-- The operands of a binary VF word (R188). -/
def decodeVBin (w : W64) : Option VBin :=
  match decodeVSrc w, EType.ofCode (fld w 5 4) with
  | some src, some ty =>
    if zf w 0 1 then some ⟨fld w 37 9, fld w 28 9, src, fld w 9 4, ty, RMode.ofCode (fld w 3 2), fld w 2 1 == 1⟩
    else none
  | _, _ => none

/-- The operands of a unary VF word: vb and SC are reserved (R148). -/
def decodeVUn (w : W64) : Option VUn :=
  match EType.ofCode (fld w 5 4) with
  | some ty =>
    if zf w 19 9 && zf w 1 1 && zf w 0 1 then
      some ⟨fld w 37 9, fld w 28 9, fld w 9 4, ty, RMode.ofCode (fld w 3 2), fld w 2 1 == 1⟩
    else none
  | none => none

/-- The vector arithmetic family (R148, R149). -/
def decodeVArith (w : W64) : Option Instr :=
  let bin (f : VBin → Instr) : Option Instr := (decodeVBin w).bind fun x => checked true (f x)
  let un (f : VUn → Instr) : Option Instr := (decodeVUn w).bind fun x => checked true (f x)
  match (fld w 13 6).toNat with
  | 0 => bin .vadd | 1 => bin .vsub | 2 => bin .vmul | 3 => bin .vmulh | 4 => bin .vmin | 5 => bin .vmax
  | 6 => un .vabs | 7 => un .vneg | 8 => bin .vand | 9 => bin .vor | 10 => bin .vxor | 11 => bin .vandn
  | 12 => bin .vshl | 13 => bin .vshr | 14 => bin .vsra | 15 => bin .vrol | 16 => un .vclz | 17 => un .vpopc
  | 18 => bin .vdiv | 19 => un .vsqrt | 20 => un .vrcp | 21 => un .vrsq | 22 => un .vexp2 | 23 => un .vlog2
  | 24 => un .vrnd
  | _ => none

/-- A three-source V3 word (R143). -/
def decodeVTri (w : W64) (f : VTri → Instr) : Option Instr :=
  (EType.ofCode (fld w 2 4)).bind fun ty =>
    checked true (f ⟨fld w 37 9, fld w 28 9, fld w 19 9, fld w 10 9, fld w 6 4, ty, RMode.ofCode (fld w 0 2)⟩)

/-- A two-source V3 word with vc reserved; MOD is a rounding mode, or MOD[0] a half with MOD[1] reserved. -/
def decodeVDuo (w : W64) (isHalf : Bool) (f : VDuo → Instr) : Option Instr :=
  (EType.ofCode (fld w 2 4)).bind fun ty =>
    if isHalf then
      checked (zf w 10 9 && zf w 1 1)
        (f ⟨fld w 37 9, fld w 28 9, fld w 19 9, fld w 6 4, ty, .rn, fld w 0 1 == 1⟩)
    else
      checked (zf w 10 9) (f ⟨fld w 37 9, fld w 28 9, fld w 19 9, fld w 6 4, ty, RMode.ofCode (fld w 0 2), false⟩)

/-- The VAL operand of a VS word: an immediate, or sb in [14:9] with [26:15] reserved (R144). -/
def decodeVsVal (w : W64) : Option VsVal :=
  if fld w 27 1 = 1 then some (.imm (fld w 9 18))
  else if zf w 15 12 then some (.reg (fld w 9 6)) else none

/-- VRED and VSCAN: GRP in vb[22:19], vb[27:23], SAT and SC reserved (R207, R208). -/
def decodeRed (w : W64) (scan : Bool) : Option Instr :=
  match RedOp.ofCode (fld w 13 6), EType.ofCode (fld w 5 4) with
  | some op, some ty =>
    let ok := zf w 23 5 && zf w 0 3
    let rm := RMode.ofCode (fld w 3 2)
    if scan then checked ok (.vscan (fld w 37 9) (fld w 28 9) (fld w 9 4) ty rm op (fld w 19 4))
    else checked ok (.vred (fld w 37 9) (fld w 28 9) (fld w 9 4) ty rm op (fld w 19 4))
  | _, _ => none

/-- The mask family, format VK (R149, R210). -/
def decodeMask (w : W64) : Option Instr :=
  let kd := fld w 42 4
  let ka := fld w 32 4
  let kb := fld w 28 4
  let zkd := zf w 42 4
  let zsd := zf w 36 6
  let zka := zf w 32 4
  let zkb := zf w 28 4
  let zsa := zf w 22 6
  let zsb := zf w 16 6
  let z := zf w 0 10
  match (fld w 10 6).toNat with
  | 0 => keep (zsd && zsa && zsb && z) (.kand kd ka kb)
  | 1 => keep (zsd && zsa && zsb && z) (.kor kd ka kb)
  | 2 => keep (zsd && zsa && zsb && z) (.kxor kd ka kb)
  | 3 => keep (zsd && zkb && zsa && zsb && z) (.knot kd ka)
  | 4 => keep (zsd && zkb && zsa && zsb && z) (.kmov kd ka)
  | 5 => keep (zkd && zkb && zsa && zsb && z) (.kpopc (fld w 36 6) ka)
  | 6 => keep (zkd && zkb && zsa && zsb && z) (.kfirst (fld w 36 6) ka)
  | 7 => keep (zsd && zka && zkb && zsb && z) (.kfroms kd (fld w 22 6))
  | 8 => keep (zsd && zka && zkb && z) (.kbytes kd (fld w 22 6) (fld w 16 6))
  | _ => none

/-- The V class (R148, R149). -/
def decodeV (w : W64) : Option Instr :=
  let vd := fld w 37 9
  let va := fld w 28 9
  let vb := fld w 19 9
  let vfk := fld w 9 4
  let vfty := EType.ofCode (fld w 5 4)
  let vfrm := RMode.ofCode (fld w 3 2)
  let v3ty := EType.ofCode (fld w 2 4)
  let vsk := fld w 5 4
  let vsty := EType.ofCode (fld w 1 4)
  match (fld w 46 6).toNat with
  | 0x00 => keep (zf w 32 14) (.idle .v (fld w 0 32))
  | 0x01 => decodeVArith w
  | 0x02 => decodeVTri w .vfma
  | 0x03 => decodeVTri w .vfms
  | 0x04 => decodeVTri w .vfnma
  | 0x05 => decodeVTri w .vfshl
  | 0x06 => decodeVTri w .vfshr
  | 0x07 => match decodeVSrc w, vfty, VCond.ofCode (fld w 13 6) with
    | some src, some ty, some c =>
      checked (zf w 41 5 && zf w 2 3 && zf w 0 1) (.vcmp (fld w 37 4) va src vfk ty c)
    | _, _, _ => none
  | 0x08 => decodeVDuo w false .vsel
  | 0x09 => match vfty, EType.ofCode (fld w 13 4) with
    | some ty, some dst =>
      checked (zf w 17 2 && zf w 19 9 && zf w 0 2) (.vcvt vd va vfk ty vfrm dst (fld w 2 1 == 1))
    | _, _ => none
  | 0x0A => match MxFmt.ofCode (fld w 13 6) with
    | some f => checked (fld w 5 4 == 9 && zf w 0 3) (.vqmx vd vb va vfk vfrm f)
    | none => none
  | 0x0B => match vfty, MxFmt.ofCode (fld w 13 6) with
    | some ty, some f => checked (zf w 0 3) (.vdqmx vd va vb vfk ty vfrm f)
    | _, _ => none
  | 0x0C => vsty.bind fun ty => checked (zf w 28 9 && fld w 27 1 == 1 && zf w 0 1) (.vli vd (fld w 9 18) vsk ty)
  | 0x0D => keep (zf w 19 9 && zf w 13 6 && zf w 0 9) (.vmov vd va vfk)
  | 0x0E => match decodeVsVal w, vsty with
    | some s, some ty => checked (zf w 28 9 && zf w 0 1) (.vbcast vd s vsk ty)
    | _, _ => none
  | 0x0F => match decodeVsVal w, vsty with
    | some s, some ty => checked (zf w 43 3 && zf w 5 4 && zf w 0 1) (.vext (fld w 37 6) va s ty)
    | _, _ => none
  | 0x10 => match decodeVsVal w, vsty with
    | some s, some ty => checked (zf w 34 3 && zf w 5 4 && zf w 0 1) (.vins vd (fld w 28 6) s ty)
    | _, _ => none
  | 0x11 => match decodeVsVal w, vsty with
    | some s, some ty => checked (zf w 28 9 && zf w 0 1) (.vidx vd s vsk ty)
    | _, _ => none
  | 0x12 => decodeVTri w .vperm
  | 0x13 => match decodeVsVal w, vsty with
    | some s, some ty => checked (zf w 0 1) (.vrot vd va s vsk ty)
    | _, _ => none
  | 0x14 => match decodeVsVal w, vsty with
    | some s, some ty => checked (zf w 0 1) (.vshup vd va s vsk ty)
    | _, _ => none
  | 0x15 => decodeVDuo w true .vzip
  | 0x16 => decodeVDuo w true .vunzip
  | 0x17 => decodeVDuo w true .vtrn
  | 0x18 => v3ty.bind fun ty => checked (zf w 10 18 && zf w 0 2) (.vcomp vd va (fld w 6 4) ty)
  | 0x19 => v3ty.bind fun ty => checked (zf w 10 18 && zf w 0 2) (.vexpd vd va (fld w 6 4) ty)
  | 0x1A => decodeRed w false
  | 0x1B => decodeRed w true
  | 0x1C => decodeVDuo w false .vcmul
  | 0x1D => decodeVTri w .vcmac
  | 0x1E => decodeMask w
  | 0x1F => keep (zf w 37 9 && fld w 27 1 == 1 && zf w 0 9) (.vkat va (fld w 9 18))
  | 0x3F => decodeLoop .v w
  | _ => none

/-- The A operand of MMA and MMAC: the fields its ASRC does not name are zero (R220). -/
def decodeASrc (w : W64) : Option ASrc :=
  let zaa := zf w 35 5
  let zv9 := zf w 21 9
  let zhs := zf w 17 4
  match (fld w 40 2).toNat with
  | 0 => if zv9 && zhs then some (.t0 (fld w 35 5)) else none
  | 1 => if zaa && zhs then some (.vec (fld w 21 9)) else none
  | 2 => if zaa && zv9 then some (.slot (fld w 17 4)) else none
  | _ => none

/-- The X class, format XM (R150). -/
def decodeX (w : W64) : Option Instr :=
  let hd := fld w 42 4
  let aa := fld w 35 5
  let v9 := fld w 21 9
  let hs := fld w 17 4
  let s6a := fld w 11 6
  let s6b := fld w 5 6
  match (fld w 46 6).toNat with
  | 0x00 => keep (zf w 32 14) (.idle .x (fld w 0 32))
  | 0x01 => (decodeASrc w).bind fun a => keep (zf w 1 16) (.mma hd a (fld w 30 5) (fld w 0 1 == 1))
  | 0x02 => (decodeASrc w).bind fun a => keep (zf w 1 16) (.mmac hd a (fld w 30 5) (fld w 0 1 == 1))
  | 0x03 => keep (zf w 0 42) (.acz hd)
  | 0x04 => keep (zf w 40 2 && zf w 0 35) (.acld hd aa)
  | 0x05 => keep (zf w 40 2 && zf w 2 33 && zf w 0 1) (.acst hd aa (fld w 1 1 == 1))
  | 0x06 => checked (zf w 30 12 && zf w 17 4 && zf w 0 11) (.acrd hd v9 s6a)
  | 0x07 => keep (zf w 0 42) (.acrel hd)
  | 0x08 => keep (zf w 30 12 && zf w 12 9 && zf w 0 11) (.acsum hd v9 (fld w 11 1 == 1))
  | 0x09 => keep (zf w 30 12 && zf w 17 4 && zf w 0 5) (.acset hd v9 s6a s6b)
  | 0x0A => checked (zf w 27 15 && zf w 17 4 && zf w 0 5) (.acflip hd s6a s6b (fld w 21 6))
  | 0x0B => keep (zf w 21 21 && zf w 0 17) (.acadd hd hs)
  | 0x0C => keep (zf w 21 21 && zf w 0 17) (.accpy hd hs)
  | 0x0D => keep (zf w 40 2 && zf w 0 35) (.xkat hd aa)
  | 0x3F => decodeLoop .x w
  | _ => none

/-- The engine operand of format CMD (R151, R242). -/
def decodeEng (w : W64) : Option EngSrc :=
  if fld w 34 1 = 0 then (if zf w 28 6 then some (.imm (fld w 21 7)) else none)
  else (if zf w 21 7 then some (.reg (fld w 28 6)) else none)

/-- The slot operand of format QC (R152). -/
def decodeSlotName (w : W64) : Option SlotName :=
  if fld w 36 1 = 0 then some (.index (fld w 26 10))
  else if zf w 32 4 then some (.key (fld w 26 6)) else none

/-- The payload captures (R152, R260). -/
def decodeQ (w : W64) (f : QArgs → Instr) : Option Instr :=
  (decodeSlotName w).bind fun n =>
    checked true (f ⟨fld w 40 6, fld w 37 3, n, fld w 20 6, fld w 14 6, fld w 11 3, fld w 0 11⟩)

/-- The M class (R151, R152). -/
def decodeM (w : W64) : Option Instr :=
  let vd := fld w 37 9
  let maa := fld w 32 5
  let off := fld w 0 28
  let d := fld w 40 6
  let aa := fld w 35 5
  match (fld w 46 6).toNat with
  | 0x00 => keep (zf w 32 14) (.idle .m (fld w 0 32))
  | 0x01 => keep (zf w 28 4) (.tld vd maa off)
  | 0x02 => keep true (.tst vd maa (fld w 28 4) off)
  | 0x03 => keep (zf w 43 3 && zf w 28 4) (.tlds (fld w 37 6) maa off)
  | 0x04 => keep (zf w 43 3 && zf w 28 4) (.tsts (fld w 37 6) maa off)
  | 0x05 => keep (zf w 41 5 && zf w 28 4) (.tldk (fld w 37 4) maa off)
  | 0x08 => keep (zf w 0 2) (.land vd maa (fld w 14 18) (fld w 4 10) (fld w 2 2))
  | 0x09 => keep (zf w 43 3 && zf w 0 4) (.lands (fld w 37 6) maa (fld w 14 18) (fld w 4 10))
  | 0x0C => (decodeEng w).bind fun e => checked (zf w 0 21) (.copy d aa e)
  | 0x0D => (decodeEng w).bind fun e => checked (zf w 0 21) (.cstat d aa e)
  | 0x10 => (AtomOp.ofCode (fld w 19 4)).bind fun op =>
      checked (zf w 0 8) (.atom d aa (fld w 29 6) (fld w 23 6) op (fld w 18 1 == 1) (fld w 8 10))
  | 0x11 => (AtomOp.ofCode (fld w 19 4)).bind fun op =>
      checked (zf w 40 6 && zf w 23 6 && zf w 0 18) (.red aa (fld w 29 6) op (fld w 18 1 == 1))
  | 0x12 => keep (zf w 40 6 && zf w 19 10 && fld w 18 1 == 1 && zf w 0 18) (.stamp aa (fld w 29 6))
  | 0x13 => (FenceKind.ofCode (fld w 42 2)).bind fun k => keep (zf w 0 42) (.fence (Scope.ofCode (fld w 44 2)) k)
  | 0x18 => decodeQ w .qrd
  | 0x19 => decodeQ w .qwr
  | 0x1A => decodeQ w .qadd
  | 0x1B => decodeQ w .qmin
  | 0x1C => decodeQ w .qmax
  | 0x1D => decodeQ w .qor
  | 0x1E => decodeQ w .qxchg
  | 0x1F => decodeQ w .qcas
  | 0x20 => keep (zf w 26 11) (.qbrd d (fld w 37 3) (fld w 20 6) (fld w 14 6) (fld w 11 3) (fld w 0 11))
  | 0x21 => (decodeSlotName w).bind fun n =>
      keep (zf w 25 1 && zf w 11 9) (.qalt d (fld w 37 3) n (fld w 20 5) (fld w 0 11))
  | 0x22 => keep (zf w 0 46) .qfence
  | 0x3F => decodeLoop .m w
  | _ => none

/-- A word read by stream st: test 1 of R141, then tests 2 to 4. DEDUCED: log entry 60. -/
def decodeWord (st : Stream) (w : W64) : Except DecodeFail Instr :=
  if fld w 52 2 = st.code then
    match (match st with | .c => decodeC w | .v => decodeV w | .x => decodeX w | .m => decodeM w) with
    | some i => .ok i
    | none => .error .illop
  else .error .wrongStream

/-- The instruction that issues from a word: the word's own, or UNASSIGNED_OPCODE (R141).
DESIGN CHOICE: log entry 57. -/
def issuedInstr (st : Stream) (w : W64) : Instr :=
  match decodeWord st w with
  | .ok i => i
  | .error e => .unassignedOpcode e

/-- The instruction whose bits are w, numbered as spec/opcode_table.json numbers them: one 64-bit word whose
STRM field names the stream that reads it. -/
def decodeTableWord (_nbits w : Nat) : Option Instr :=
  let word := BitVec.ofNat 64 w
  match decodeWord (Stream.ofCode (fld word 52 2)) word with
  | .ok i => some i
  | .error _ => none

/-- The eight bytes of a stream at a word's place, lowest first (R136): decoded as one word. -/
def decodeBytes (st : Stream) (bs : List Byte) : Except DecodeFail Instr :=
  decodeWord st (BitVec.ofNat 64 (leValue (bs.take 8)))

/-! ## The encoder -/

/-- A word with IDLE, STRM, OPC and its operand bits (R136). -/
def mkWord (idl : BitVec 10) (st : Stream) (opc : BitVec 6) (body : BitVec 46) : W64 :=
  idl ++ st.code ++ opc ++ body

def bit1 (b : Bool) : BitVec 1 := if b then 1 else 0

/-- Format S3. -/
def packS3 (d a b c fn : BitVec 6) : BitVec 46 := d ++ a ++ b ++ c ++ fn ++ 0#16
/-- Format SI. -/
def packSI (d a : BitVec 6) (imm : BitVec 34) : BitVec 46 := d ++ a ++ imm
/-- Format SB. -/
def packSB (d a b fn pos : BitVec 6) (len : BitVec 7) : BitVec 46 := d ++ a ++ b ++ fn ++ pos ++ len ++ 0#9
/-- Format AX. -/
def packAX (ad aa : BitVec 5) (sd sa sb : BitVec 6) (spc : BitVec 5) (sel : BitVec 3) (fn : BitVec 6) : BitVec 46 :=
  ad ++ aa ++ sd ++ sa ++ sb ++ spc ++ sel ++ fn ++ 0#4
/-- Format CQ. -/
def packCQ (d : BitVec 6) (aa : BitVec 5) (b : BitVec 6) : BitVec 46 := d ++ aa ++ 0#1 ++ b ++ 0#28
/-- Format SY. -/
def packSY (d a spr : BitVec 6) (bar : BitVec 8) : BitVec 46 := d ++ a ++ spr ++ bar ++ 0#20
/-- Format N. -/
def packN (imm : BitVec 32) : BitVec 46 := 0#14 ++ imm
/-- Format LP. -/
def packLP (lc : BitVec 2) (n : LoopCount) (tgt : BitVec 17) : BitVec 46 :=
  match n with
  | .imm c => lc ++ 0#1 ++ 0#2 ++ c ++ tgt
  | .reg a => lc ++ 1#1 ++ 0#2 ++ 0#18 ++ a ++ tgt
/-- Format V3. -/
def packV3 (d a b c : BitVec 9) (k ty : BitVec 4) (m : BitVec 2) : BitVec 46 := d ++ a ++ b ++ c ++ k ++ ty ++ m
/-- Format VF. -/
def packVF (d a b : BitVec 9) (fn : BitVec 6) (k ty : BitVec 4) (rm : BitVec 2) (sat sc : BitVec 1) : BitVec 46 :=
  d ++ a ++ b ++ fn ++ k ++ ty ++ rm ++ sat ++ sc ++ 0#1
/-- Format VS. -/
def packVS (d a : BitVec 9) (imm : BitVec 1) (val : BitVec 18) (k ty : BitVec 4) : BitVec 46 :=
  d ++ a ++ imm ++ val ++ k ++ ty ++ 0#1
/-- Format VK. -/
def packVK (kd : BitVec 4) (sd : BitVec 6) (ka kb : BitVec 4) (sa sb fn : BitVec 6) : BitVec 46 :=
  kd ++ sd ++ ka ++ kb ++ sa ++ sb ++ fn ++ 0#10
/-- Format XM. -/
def packXM (hd : BitVec 4) (asrc : BitVec 2) (aa ab : BitVec 5) (v9 : BitVec 9) (hs : BitVec 4) (p q : BitVec 6)
    (fl : BitVec 5) : BitVec 46 :=
  hd ++ asrc ++ aa ++ ab ++ v9 ++ hs ++ p ++ q ++ fl
/-- Format MEM. -/
def packMEM (d : BitVec 9) (aa : BitVec 5) (k : BitVec 4) (off : BitVec 28) : BitVec 46 := d ++ aa ++ k ++ off
/-- Format LND. -/
def packLND (d : BitVec 9) (aa : BitVec 5) (off : BitVec 18) (arr : BitVec 10) (xf : BitVec 2) : BitVec 46 :=
  d ++ aa ++ off ++ arr ++ xf ++ 0#2
/-- Format CMD. -/
def packCMD (d : BitVec 6) (aa : BitVec 5) (e : EngSrc) : BitVec 46 :=
  match e with
  | .imm n => d ++ aa ++ 0#1 ++ 0#6 ++ n ++ 0#21
  | .reg b => d ++ aa ++ 1#1 ++ b ++ 0#7 ++ 0#21
/-- Format MA. -/
def packMA (d : BitVec 6) (aa : BitVec 5) (b c : BitVec 6) (fn : BitVec 4) (w : BitVec 1) (arr : BitVec 10) : BitVec 46 :=
  d ++ aa ++ b ++ c ++ fn ++ w ++ arr ++ 0#8
/-- The KY, SLOT or key field of format QC. -/
def packName : SlotName → BitVec 11
  | .index n => 0#1 ++ n
  | .key k => 1#1 ++ 0#4 ++ k
/-- Format QC. -/
def packQC (d : BitVec 6) (trk : BitVec 3) (n : BitVec 11) (a b : BitVec 6) (wd : BitVec 3) (arr : BitVec 11) :
    BitVec 46 := d ++ trk ++ n ++ a ++ b ++ wd ++ arr

/-- A VF word of the arithmetic family. -/
def packBin (x : VBin) (fn : BitVec 6) : BitVec 46 :=
  match x.src with
  | .vec b => packVF x.vd x.va b fn x.k x.ty.code x.rm.code (bit1 x.sat) 0
  | .scal b => packVF x.vd x.va (0#3 ++ b) fn x.k x.ty.code x.rm.code (bit1 x.sat) 1
def packUn (x : VUn) (fn : BitVec 6) : BitVec 46 := packVF x.vd x.va 0 fn x.k x.ty.code x.rm.code (bit1 x.sat) 0
def packTri (x : VTri) : BitVec 46 := packV3 x.vd x.va x.vb x.vc x.k x.ty.code x.rm.code
def packDuo (x : VDuo) : BitVec 46 := packV3 x.vd x.va x.vb 0 x.k x.ty.code x.rm.code
def packHalf (x : VDuo) : BitVec 46 := packV3 x.vd x.va x.vb 0 x.k x.ty.code (0#1 ++ bit1 x.half)
/-- A VS word with its VAL operand. -/
def packVsv (d a : BitVec 9) (s : VsVal) (k ty : BitVec 4) : BitVec 46 :=
  match s with
  | .imm v => packVS d a 1 v k ty
  | .reg b => packVS d a 0 (0#12 ++ b) k ty
def packQ (x : QArgs) : BitVec 46 := packQC x.sd x.trk (packName x.name) x.sa x.sb x.wd x.arr
/-- An XM word of MMA and MMAC. -/
def packMma (hd : BitVec 4) (a : ASrc) (ab : BitVec 5) (acc : Bool) : BitVec 46 :=
  match a with
  | .t0 aa => packXM hd 0 aa ab 0 0 0 0 (0#4 ++ bit1 acc)
  | .vec v => packXM hd 1 0 ab v 0 0 0 (0#4 ++ bit1 acc)
  | .slot hs => packXM hd 2 0 ab 0 hs 0 0 (0#4 ++ bit1 acc)

/-- The operand bits and opcode of an instruction word; none for an event. -/
def encodeBody : Instr → Option (BitVec 6 × BitVec 46)
  | .idle _ n => some (0x00, packN n)
  | .loop _ lc n t => some (0x3F, packLP lc n t)
  | .add d a b => some (0x01, packS3 d a b 0 0)
  | .sub d a b => some (0x01, packS3 d a b 0 1)
  | .mul d a b => some (0x01, packS3 d a b 0 2)
  | .mulh d a b => some (0x01, packS3 d a b 0 3)
  | .mulhn d a b => some (0x01, packS3 d a b 0 4)
  | .div d a b => some (0x01, packS3 d a b 0 5)
  | .divn d a b => some (0x01, packS3 d a b 0 6)
  | .rem d a b => some (0x01, packS3 d a b 0 7)
  | .remn d a b => some (0x01, packS3 d a b 0 8)
  | .and d a b => some (0x01, packS3 d a b 0 9)
  | .or d a b => some (0x01, packS3 d a b 0 10)
  | .xor d a b => some (0x01, packS3 d a b 0 11)
  | .andn d a b => some (0x01, packS3 d a b 0 12)
  | .shl d a b => some (0x01, packS3 d a b 0 13)
  | .shr d a b => some (0x01, packS3 d a b 0 14)
  | .sra d a b => some (0x01, packS3 d a b 0 15)
  | .rol d a b => some (0x01, packS3 d a b 0 16)
  | .min d a b => some (0x01, packS3 d a b 0 17)
  | .max d a b => some (0x01, packS3 d a b 0 18)
  | .minn d a b => some (0x01, packS3 d a b 0 19)
  | .maxn d a b => some (0x01, packS3 d a b 0 20)
  | .seq d a b => some (0x01, packS3 d a b 0 21)
  | .sne d a b => some (0x01, packS3 d a b 0 22)
  | .slt d a b => some (0x01, packS3 d a b 0 23)
  | .sltn d a b => some (0x01, packS3 d a b 0 24)
  | .sel d a b c => some (0x01, packS3 d a b c 25)
  | .addi d a i => some (0x02, packSI d a i)
  | .andi d a i => some (0x03, packSI d a i)
  | .ori d a i => some (0x04, packSI d a i)
  | .xori d a i => some (0x05, packSI d a i)
  | .slti d a i => some (0x06, packSI d a i)
  | .shli d a i => some (0x07, packSI d a i)
  | .shri d a i => some (0x08, packSI d a i)
  | .srai d a i => some (0x09, packSI d a i)
  | .li d i => some (0x0A, packSI d 0 i)
  | .lih d a i => some (0x0B, packSI d a i)
  | .clz d a => some (0x0C, packSB d a 0 0 0 0)
  | .ctz d a => some (0x0C, packSB d a 0 1 0 0)
  | .popc d a => some (0x0C, packSB d a 0 2 0 0)
  | .bext d a p l => some (0x0C, packSB d a 0 3 p l)
  | .bins d a b p l => some (0x0C, packSB d a b 4 p l)
  | .amk ad sa sb spc => some (0x0D, packAX ad 0 0 sa sb spc 0 0)
  | .aadd ad aa sa => some (0x0D, packAX ad aa 0 sa 0 0 0 1)
  | .amovAddr ad aa => some (0x0D, packAX ad aa 0 0 0 0 0 2)
  | .amovFromScalar ad sa => some (0x0D, packAX ad 0 0 sa 0 0 1 2)
  | .amovToScalar sd aa => some (0x0D, packAX 0 aa sd 0 0 0 2 2)
  | .afldSpace sd aa => some (0x0D, packAX 0 aa sd 0 0 0 0 3)
  | .afldRank sd aa => some (0x0D, packAX 0 aa sd 0 0 0 1 3)
  | .afldOffset sd aa => some (0x0D, packAX 0 aa sd 0 0 0 2 3)
  | .aaddi ad aa i => some (0x0E, ad ++ aa ++ 0#2 ++ i)
  | .br c a b t => some (0x10, a ++ b ++ c.code ++ 0#14 ++ t)
  | .xbr c a b o => some (0x11, a ++ b ++ c.code ++ 0#7 ++ o)
  | .tend => some (0x12, 0)
  | .trap n => some (0x13, packN n)
  | .rft => some (0x14, 0)
  | .taskq d aa b => some (0x18, packCQ d aa b)
  | .bpost aa b => some (0x19, packCQ 0 aa b)
  | .bread d bar => some (0x1A, packSY d 0 0 bar)
  | .fmt a => some (0x1B, packSY 0 a 0 0)
  | .srd d spr => some (0x1C, packSY d 0 spr 0)
  | .swr a spr => some (0x1D, packSY 0 a spr 0)
  | .mapack => some (0x1E, 0)
  | .vadd x => some (0x01, packBin x 0)
  | .vsub x => some (0x01, packBin x 1)
  | .vmul x => some (0x01, packBin x 2)
  | .vmulh x => some (0x01, packBin x 3)
  | .vmin x => some (0x01, packBin x 4)
  | .vmax x => some (0x01, packBin x 5)
  | .vabs x => some (0x01, packUn x 6)
  | .vneg x => some (0x01, packUn x 7)
  | .vand x => some (0x01, packBin x 8)
  | .vor x => some (0x01, packBin x 9)
  | .vxor x => some (0x01, packBin x 10)
  | .vandn x => some (0x01, packBin x 11)
  | .vshl x => some (0x01, packBin x 12)
  | .vshr x => some (0x01, packBin x 13)
  | .vsra x => some (0x01, packBin x 14)
  | .vrol x => some (0x01, packBin x 15)
  | .vclz x => some (0x01, packUn x 16)
  | .vpopc x => some (0x01, packUn x 17)
  | .vdiv x => some (0x01, packBin x 18)
  | .vsqrt x => some (0x01, packUn x 19)
  | .vrcp x => some (0x01, packUn x 20)
  | .vrsq x => some (0x01, packUn x 21)
  | .vexp2 x => some (0x01, packUn x 22)
  | .vlog2 x => some (0x01, packUn x 23)
  | .vrnd x => some (0x01, packUn x 24)
  | .vfma x => some (0x02, packTri x)
  | .vfms x => some (0x03, packTri x)
  | .vfnma x => some (0x04, packTri x)
  | .vfshl x => some (0x05, packTri x)
  | .vfshr x => some (0x06, packTri x)
  | .vcmp kd va src k ty c => some (0x07, match src with
      | .vec b => packVF (0#5 ++ kd) va b c.code k ty.code 0 0 0
      | .scal b => packVF (0#5 ++ kd) va (0#3 ++ b) c.code k ty.code 0 0 1)
  | .vsel x => some (0x08, packDuo x)
  | .vcvt vd va k s rm d sat => some (0x09, packVF vd va 0 (0#2 ++ d.code) k s.code rm.code (bit1 sat) 0)
  | .vqmx vd vb va k rm f => some (0x0A, packVF vd va vb f.code k 9 rm.code 0 0)
  | .vdqmx vd va vb k ty rm f => some (0x0B, packVF vd va vb f.code k ty.code rm.code 0 0)
  | .vli vd v k ty => some (0x0C, packVS vd 0 1 v k ty.code)
  | .vmov vd va k => some (0x0D, packVF vd va 0 0 k 0 0 0 0)
  | .vbcast vd s k ty => some (0x0E, packVsv vd 0 s k ty.code)
  | .vext sd va s ty => some (0x0F, packVsv (0#3 ++ sd) va s 0 ty.code)
  | .vins vd sa s ty => some (0x10, packVsv vd (0#3 ++ sa) s 0 ty.code)
  | .vidx vd s k ty => some (0x11, packVsv vd 0 s k ty.code)
  | .vperm x => some (0x12, packTri x)
  | .vrot vd va s k ty => some (0x13, packVsv vd va s k ty.code)
  | .vshup vd va s k ty => some (0x14, packVsv vd va s k ty.code)
  | .vzip x => some (0x15, packHalf x)
  | .vunzip x => some (0x16, packHalf x)
  | .vtrn x => some (0x17, packHalf x)
  | .vcomp vd va k ty => some (0x18, packV3 vd va 0 0 k ty.code 0)
  | .vexpd vd va k ty => some (0x19, packV3 vd va 0 0 k ty.code 0)
  | .vred vd va k ty rm op g => some (0x1A, packVF vd va (0#5 ++ g) op.code k ty.code rm.code 0 0)
  | .vscan vd va k ty rm op g => some (0x1B, packVF vd va (0#5 ++ g) op.code k ty.code rm.code 0 0)
  | .vcmul x => some (0x1C, packDuo x)
  | .vcmac x => some (0x1D, packTri x)
  | .kand d a b => some (0x1E, packVK d 0 a b 0 0 0)
  | .kor d a b => some (0x1E, packVK d 0 a b 0 0 1)
  | .kxor d a b => some (0x1E, packVK d 0 a b 0 0 2)
  | .knot d a => some (0x1E, packVK d 0 a 0 0 0 3)
  | .kmov d a => some (0x1E, packVK d 0 a 0 0 0 4)
  | .kpopc sd a => some (0x1E, packVK 0 sd a 0 0 0 5)
  | .kfirst sd a => some (0x1E, packVK 0 sd a 0 0 0 6)
  | .kfroms d sa => some (0x1E, packVK d 0 0 0 sa 0 7)
  | .kbytes d sa sb => some (0x1E, packVK d 0 0 0 sa sb 8)
  | .vkat va v => some (0x1F, packVS 0 va 1 v 0 0)
  | .mma hd a ab acc => some (0x01, packMma hd a ab acc)
  | .mmac hd a ab acc => some (0x02, packMma hd a ab acc)
  | .acz hd => some (0x03, packXM hd 0 0 0 0 0 0 0 0)
  | .acld hd aa => some (0x04, packXM hd 0 aa 0 0 0 0 0 0)
  | .acst hd aa rel => some (0x05, packXM hd 0 aa 0 0 0 0 0 (0#3 ++ bit1 rel ++ 0#1))
  | .acrd hd vd row => some (0x06, packXM hd 0 0 0 vd 0 row 0 0)
  | .acrel hd => some (0x07, packXM hd 0 0 0 0 0 0 0 0)
  | .acsum hd vd col => some (0x08, packXM hd 0 0 0 vd 0 (0#5 ++ bit1 col) 0 0)
  | .acset hd vs row col => some (0x09, packXM hd 0 0 0 vs 0 row col 0)
  | .acflip hd row col b => some (0x0A, packXM hd 0 0 0 (0#3 ++ b) 0 row col 0)
  | .acadd hd hs => some (0x0B, packXM hd 0 0 0 0 hs 0 0 0)
  | .accpy hd hs => some (0x0C, packXM hd 0 0 0 0 hs 0 0 0)
  | .xkat hd aa => some (0x0D, packXM hd 0 aa 0 0 0 0 0 0)
  | .tld vd aa o => some (0x01, packMEM vd aa 0 o)
  | .tst vs aa k o => some (0x02, packMEM vs aa k o)
  | .tlds sd aa o => some (0x03, packMEM (0#3 ++ sd) aa 0 o)
  | .tsts ss aa o => some (0x04, packMEM (0#3 ++ ss) aa 0 o)
  | .tldk kd aa o => some (0x05, packMEM (0#5 ++ kd) aa 0 o)
  | .land vd aa o r xf => some (0x08, packLND vd aa o r xf)
  | .lands sd aa o r => some (0x09, packLND (0#3 ++ sd) aa o r 0)
  | .copy d aa e => some (0x0C, packCMD d aa e)
  | .cstat d aa e => some (0x0D, packCMD d aa e)
  | .atom d aa b c op w r => some (0x10, packMA d aa b c op.code (bit1 w) r)
  | .red aa b op w => some (0x11, packMA 0 aa b 0 op.code (bit1 w) 0)
  | .stamp aa b => some (0x12, packMA 0 aa b 0 0 1 0)
  | .fence s k => some (0x13, s.code ++ k.code ++ 0#42)
  | .qrd x => some (0x18, packQ x)
  | .qwr x => some (0x19, packQ x)
  | .qadd x => some (0x1A, packQ x)
  | .qmin x => some (0x1B, packQ x)
  | .qmax x => some (0x1C, packQ x)
  | .qor x => some (0x1D, packQ x)
  | .qxchg x => some (0x1E, packQ x)
  | .qcas x => some (0x1F, packQ x)
  | .qbrd d t a b w r => some (0x20, packQC d t 0 a b w r)
  | .qalt d t n aa r => some (0x21, packQC d t (packName n) (0#1 ++ aa) 0 0 r)
  | .qfence => some (0x22, 0)
  | _ => none

/-- The 64-bit word of an instruction with its IDLE count; an event has no word. -/
def encode (idl : BitVec 10) (i : Instr) : Option W64 :=
  match i.stream?, encodeBody i with
  | some st, some (opc, body) => some (mkWord idl st opc body)
  | _, _ => none

end Sys2Proof
end

