-- ==== Sys2Proof/Machine/State.lean ====
section
/-! DEFINITION. The state of one Borhus 9140 package: plain data, everything the spec gives the machine.
Task cycles (CYC) and package core cycles (`now`) are natural numbers. -/

namespace Sys2Proof.Machine

/-- Why the machine stops: the spec lets nothing stop it, so there is no such reason and no step raises one. -/
inductive Fault
deriving DecidableEq, Repr

/-- Why an instruction has no meaning. -/
inductive Refusal where
  /-- Raised by an arm of exec that has no meaning yet. Safe. -/
  | notModelled (mnemonic : String)
deriving DecidableEq, Repr

/-- The trap causes (R154). -/
inductive Cause where
  | illop | illreg | wrongstream | bankconf | wcoll | fmtunder | accexh | acchandle | landlate | xlate | guard
  | world | barrier | mapstale | ringfault | swtrap | uncorr | katmiss | landfull | badspace | timer | preempt
  | cairn | debug
deriving DecidableEq, Repr

/-! ## One core -/

/-- The register files of a task (R112), with the loop counters of the streams in the order C, V, X, M
(R119) and the format queue, head first (R118). -/
structure Regs where
  s : Vector W64 64
  a : Vector W64 32
  v : Vector VReg 384
  k : Vector MReg 16
  loops : Vector (BitVec 32) 16
  fq : List W64
deriving DecidableEq, Repr

/-- The accumulator store (R116): the slot of each handle, the tiles, and the free list. -/
structure AccStore where
  h : Vector (Option (Fin 32)) 16
  tiles : Vector Tile 32
  free : Vector Bool 32
deriving DecidableEq, Repr

/-- The special registers a core keeps for its task (R120). -/
structure Specials where
  cyc : Nat
  frz : Nat
  taskv : BitVec 32
  fpf : BitVec 6
  cause : Byte
  faddr : W64
  faux : W64
  tmcmp : W64
deriving DecidableEq, Repr

/-- Where a stream stands (R137): its next word stands at section offset off and issues at base + IDLE, or at
base where fixed holds (a cycle taken from a frame, R365); a parked stream issues no further word (R139). -/
structure StreamPos where
  off : Nat
  base : Nat
  fixed : Bool
  parked : Bool
deriving DecidableEq, Repr

/-- A taken XBR (R138): the cycle x + 4 and the section offsets of the four targets, in the order C, V, X, M. -/
structure XbrTransfer where
  at_ : Nat
  tgt : Vector Nat 4
deriving DecidableEq, Repr

/-- The vector operands of a word in flight, in the order the word names them. -/
abbrev Captured := List VReg

/-- What an in-flight latch does (R361). -/
inductive LatchKind where
  /-- kind 1: a scalar register -/
  | scal (r : BitVec 6) (v : W64)
  /-- kind 1, DEST[15]: an address register -/
  | addr (r : BitVec 5) (v : W64)
  /-- kind 2: a vector register, with enable bits; a whole write performs every slice at the base cycle -/
  | vec (r : BitVec 9) (v : VReg) (en : MReg) (whole : Bool)
  /-- kind 3: a mask register, with enable bits -/
  | msk (r : BitVec 4) (v : MReg) (en : MReg) (whole : Bool)
  /-- kind 4: a tile of an accumulator slot -/
  | tile (slot : Fin 32) (t : Tile)
  /-- kind 5: one element of a tile -/
  | elem (slot : Fin 32) (idx : Nat) (v : BitVec 40)
  /-- kind 6: a terrace 0 store of the bytes whose enable is set; banks at the base cycle − 1 -/
  | store (off : Nat) (bytes : List (Byte × Bool)) (scalar : Bool)
  /-- kind 7: a tile store, line group j at the base cycle + j; rel marks ACST with .rel -/
  | tileStore (off : Nat) (t : Tile) (rel : Bool)
  /-- kind 8: a special register write -/
  | special (n : BitVec 6) (v : W64)
  /-- kind 9: the return of a slot to the free list (R214) -/
  | release (slot : Fin 32)
  /-- kind 10: a known-answer compare: the word, the constant's terrace 0 offset, reference and operand bytes -/
  | compare (matrix : Bool) (reg : Nat) (off : Nat) (ref opnd : List Byte)
  /-- kind 11: a V word whose operand slices are being read: its own word, its scalar operands, the slices read
  so far (R10, R392) -/
  | vword (scal : List W64) (ops : Captured) (mops : List MReg)
  /-- kind 11: an X word whose operands are being read (R222, R228): the slot it writes, the pointers it read, the
  format word it popped, the A, B and scale bytes read so far, and the tile that feeds the down-converter -/
  | xword (slot : Fin 32) (ptrs : List W64) (fmt : W64) (abytes bbytes ascale bscale : List Byte) (hs : Tile)
  /-- a TASKQ whose target is tested at the base cycle: destination, target core and descriptor, and whether it issued
  while a pre-emption was under way (R370) -/
  | taskqTest (sd : BitVec 6) (target : W64) (desc : List W64) (preempted : Bool)
  /-- a COPY or CSTAT whose engine is tested at the base cycle -/
  | engineTest (sd : BitVec 6) (eng : W64) (byReg : Bool) (off : Nat) (copy : Bool)
  /-- an accepted chain of an engine, which may start from the base cycle on (R242) -/
  | chainGo (eng : Fin 96) (id : Nat)
deriving DecidableEq, Repr

/-- An in-flight latch (R361): its stream, the address of its word, its issue cycle, its base cycle, which parts
are still due, the flags that join at its last write, the guard maps that stood at its issue, by which all its terrace 0
accesses go (R342), and what it does. -/
structure Latch where
  strm : Stream
  pc : Nat
  word : W64
  issue : Nat
  base : Nat
  parts : BitVec 8
  flags : BitVec 6
  guards : List (Nat × BitVec 256)
  kind : LatchKind
deriving DecidableEq, Repr

/-- A terrace 0 request of one cycle (R42, R43): the word that makes it, its tagged pointer's offset of the first
line it touches, and how many lines follow. -/
structure BankReq where
  strm : Stream
  issue : Nat
  firstLine : Nat
  lines : Nat
deriving DecidableEq, Repr

/-- What a word of this cycle did at issue that BANKCONF takes back (R43): a pop and a binding; and the place of an FMT
that pushed in this cycle, before it (R118). -/
structure IssueUndo where
  strm : Stream
  issue : Nat
  popped : Option W64
  bound : Option (BitVec 4)
  pushed : Option StreamPos
deriving DecidableEq, Repr

/-- A guard touch of this cycle, by the word that made it (R43, R46). -/
structure WordTouch where
  strm : Stream
  issue : Nat
  faddr : W64
  write : Bool
  bank : Nat
  rel : Bool
deriving DecidableEq, Repr

/-- The bytes of the own terrace 0 that a store of this cycle overwrote, by key, and the word that made it. -/
structure StoreUndo where
  strm : Stream
  issue : Nat
  old : List Host.Cell
deriving DecidableEq, Repr

/-- Where a trap of a cycle comes from, in the order of R141. -/
inductive TrapSrc where
  | word (st : Stream)
  | bankconf
  | wcoll
  | other
deriving DecidableEq, Repr

/-- A trap that arose in a cycle. -/
structure TrapRec where
  src : TrapSrc
  cause : Cause
  faddr : W64
  faux : W64
  boundary : Nat
deriving DecidableEq, Repr

/-- KIND of a frame (R360). -/
inductive FrameKind where
  | trap | interrupt | budget | eviction
deriving DecidableEq, Repr

/-- The barrier file (R117), the values at the start of the cycle, and the saturations not yet reported (R58). -/
structure Barriers where
  val : Vector (BitVec 48) 256
  start : Vector (BitVec 48) 256
  pend : Vector Bool 256
deriving DecidableEq, Repr

/-- A stop in progress (R357): its cause, frame kind, boundary, the time it began and the task cycle of that time,
whether its SRC 3 record is written, whether the frame is resumable, whether the GUARD that it takes dropped bytes of
an ACST with .rel (R360), and the barrier file at the stop (R359). -/
structure StopRec where
  cause : Cause
  kind : FrameKind
  faddr : W64
  faux : W64
  boundary : Nat
  since : Nat
  cyc : Nat
  record : Bool
  resumable : Bool
  lostRel : Bool
  bars : Barriers
deriving DecidableEq, Repr

/-- What a landing-buffer entry waits for (R47, R362). -/
inductive LandKind where
  | land (vd : BitVec 9) (xf : BitVec 2)
  | lands (sd : BitVec 6)
  | atom (sd : BitVec 6)
  /-- a capture: whether it delivers the old word and the status, the status alone, or nothing (R262) -/
  | capture (sd : BitVec 6) (pair single : Bool)
deriving DecidableEq, Repr

/-- The value of a landing that has reached the core. -/
inductive LandValue where
  | bytes (bs : List Byte)
  /-- a capture's old word and status word -/
  | pair (old status : W64)
  /-- a capture that ends with RINGFAULT, with TRACK, SLOT and REASON (R84) -/
  | ringFault (track slot reason : Nat)
  /-- the source held poison: the line and its bank (R367, R381) -/
  | spoilt (line : W64) (bank : Nat)
deriving DecidableEq, Repr

/-- One entry of the landing buffer (R47): held from issue to the arrival cycle. -/
structure Landing where
  id : Nat
  kind : LandKind
  /-- the effective pointer, or the capture word -/
  source : W64
  issue : Nat
  arrive : Nat
  value : Option LandValue
  /-- the package cycle at which the value reached the core -/
  ready : Nat
  poison : Bool
  /-- its translation failed while the core was stopped (R362) -/
  faulted : Bool
  /-- FAUX of that fault's record: its GEN, REASON and SRC (R356) -/
  faux : W64
  /-- a late landing already counted in the scree (R403) -/
  counted : Bool
  /-- its task stopped while the core waited for it, from this package cycle on (R403) -/
  late : Option Nat
  /-- its instruction word -/
  word : W64
  /-- the values of sb and sc that an ATOM read at issue (R362) -/
  opnds : W64 × W64
deriving DecidableEq, Repr

/-- What an access of the core's memory port does (R236, R247). -/
inductive AccKind where
  | read (xf : BitVec 2) (bytes : Nat)
  | atom (op : AtomOp) (wide : Bool) (b e : W64)
  | red (op : AtomOp) (wide : Bool) (b : W64)
  | stamp (v : W64)
  /-- the write of a QALT; none until the capture performs (R266) -/
  | qalt (payload : Option (Vector W64 8))
  /-- a terrace 0 store, which performs at its own cycle; it stands here for order only -/
  | store (bytes : Nat)
  | fence (scope : Scope) (kind : FenceKind)
deriving DecidableEq, Repr

/-- One access in the core's memory port. -/
structure Access where
  id : Nat
  kind : AccKind
  ptr : W64
  issue : Nat
  slot : Fin 32
  ctxid : BitVec 16
  world : Bool
  /-- the package cycle from which it may perform -/
  due : Nat
  /-- the generation of the record of its translation fault, while held (R349) -/
  held : Option (BitVec 32)
  reason : Nat
  /-- ADDR of that record, and its place in the order of records -/
  addr : W64
  order : Nat
  /-- a held access that still freezes the core (R349, R355) -/
  freezes : Bool
  /-- a REMOTE stamp that stands with a link engine (R401) -/
  handed : Bool
  /-- the task that issued it has ended -/
  ended : Bool
  /-- it stands in the frame of its task: it performs no more until that task resumes, and holds back only accesses of that
  task (R177, R304, R361, R362) -/
  framed : Bool
  /-- the read of an unmarked host page's atomic has been made: its old value (R316) -/
  first : Option (List Byte)
  /-- a terrace 0 store that has performed for its own core but, by its order in the port, for no other agent yet: the bytes
  that others still see, by key (R236, R247) -/
  under : List Host.Cell
  /-- its place in the queue for idle bank-cycles (R44) -/
  ask : Option Nat
  /-- a terrace 0 store of its task stands behind it and performs now: it takes no more time of its own (R236, R247) -/
  hurried : Bool
  /-- it has met a lost layer and its effect is over; its record waits for a place (R350, R386) -/
  owes : Bool
deriving DecidableEq, Repr

/-- How a capture finds its slot (R73). -/
inductive CapFind where
  | index (slot : Fin 1024)
  | key (key : BitVec 32)
  | firstFree (key : BitVec 32)
deriving DecidableEq, Repr

/-- What a capture does on its slot (R264-R266). -/
inductive CapOp where
  | rd | wr | add | min | max | or | xchg | cas | brd | alt
deriving DecidableEq, Repr

/-- An outstanding capture of a station (R73, R267). -/
structure Capture where
  id : Nat
  op : CapOp
  track : Fin 8
  find : CapFind
  wd : Fin 8
  b : W64
  e : W64
  ctxid : BitVec 16
  world : Bool
  /-- the first package cycle at which it may meet a slot -/
  ready : Nat
  /-- passes examined (R74) -/
  examined : Nat
  /-- the ids of the captures and QALT writes a QFENCE before it waits for; not ready while one is outstanding -/
  waits : List Nat
  /-- a capture whose core was pre-empted: it waits for the ring to restart (R362) -/
  parked : Bool
deriving DecidableEq, Repr

/-- State of a task slot (R15); reserved is an EMPTY slot that TASKQ has reserved (R173). -/
inductive SlotSt where
  | empty | reserved | waiting | runnable | running | suspended
deriving DecidableEq, Repr

/-- How the task of a slot starts: from its descriptor, from its frame, or again from cycle 0 without its start
conditions (R364). -/
inductive StartMode where
  | fresh | resume | restart
deriving DecidableEq, Repr

/-- The chunk or gang member a task stands for (R29, R338). -/
structure ChunkRef where
  job : Nat
  member : Bool
  first : Nat
  count : Nat
deriving DecidableEq, Repr

/-- One task slot's state that programs cannot see; its descriptor stands in terrace 0 (R15). -/
structure TaskSlot where
  st : SlotSt
  mode : StartMode
  /-- cycles it has been RUNNABLE without a break (R19) -/
  runFor : Nat
  /-- cycles since the last rise of its effective class (R20) -/
  age : Nat
  effCls : Nat
  chunk : Option ChunkRef
  /-- whether each GLOBAL stamp condition held at its last read, and the cycle by which it is read again (R17) -/
  stampHolds : Vector Bool 4
  stampDue : Vector Nat 4
  /-- the tick at which a gang resumes it (R364) -/
  resumeTick : Option W64
  reruns : Nat
  /-- its frame was written by an eviction or a pre-emption (KIND 3) -/
  evicted : Bool
  /-- its gang start tick has been tested (R24) -/
  tested : Bool
  /-- it missed its gang start, and is EMPTY from the end of the start tick (R25) -/
  missed : Bool
  /-- the end cycle at which GUARD stopped it: a TMCMP of that cycle was written in it and raises no TIMER (R122) -/
  settledAt : Option Nat
deriving DecidableEq, Repr

/-- A descriptor on its way into a reserved slot (R173): the core that sent it and the writes of that core which must
perform first (R309). -/
structure SlotWrite where
  slot : Fin 32
  desc : List W64
  due : Nat
  chunk : Option ChunkRef
  from_ : Option (Fin 288)
  after : List Nat
  /-- its place in the queue for idle bank-cycles (R44) -/
  ask : Option Nat
deriving DecidableEq, Repr

/-- What a core keeps of its running task. -/
structure Running where
  slot : Fin 32
  desc : Vector W64 8
  /-- the cycle of ALIGNQ waiting is not over: the start position (R23, R365) -/
  aligned : Bool
  mode : StartMode
  chunk : Option ChunkRef
deriving DecidableEq, Repr

/-- Guard touches of a context that are not yet reported (R46). -/
structure GuardTouch where
  ctxid : BitVec 16
  faddr : W64
  source : Nat
  write : Bool
  bank : Nat
  extra : Nat
  lostRel : Bool
  /-- a barrier event has followed it: GUARD is to be taken -/
  due : Bool
deriving DecidableEq, Repr

/-- The core's own view of the cairn (R374, R384): its version, its station and every terrace size. -/
structure CairnView where
  version : BitVec 32
  pos : BitVec 10
  stationLost : Bool
  sizes : Vector Nat 16
deriving DecidableEq, Repr

/-- A freeze of a core (R353): when it began, the task cycle, and the gang freeze it belongs to. -/
structure Freeze where
  since : Nat
  cyc : Nat
  /-- the last package cycle at which a cause of the core's own held -/
  causeTo : Nat
  gang : Option Nat
deriving DecidableEq, Repr

/-- Interrupts a core owes (R154). -/
structure Pending where
  debug : Bool
  /-- the version that CAIRN is owed for, and the first package cycle at which it may be taken (R390) -/
  cairn : Option (BitVec 32 × Nat)
  preempt : Bool
  /-- MAPSTALE suspension of its context (R389) -/
  mapstale : Option (BitVec 32)
  /-- the eviction of its context (R368) -/
  evict : Bool
  uncorr : Option (ErrUnit × W64 × BitVec 16)
  /-- its task is to be rerun as soon as its context has a place for the record (R350, R367) -/
  rerun : Bool
deriving DecidableEq, Repr

/-- Instruction fetch and the idle bank-cycles (R44, R278, R291): the fetch buffer of each stream, newest word first, by
terrace 0 offset; the streams that have gone back over more than 256 words; the cycles among the last 256 in which a bank
was held; whether such cycles have been more than 128; and the last package cycle in which banks were taken, with those
banks. -/
structure Fetch where
  bufs : Vector (List (Nat × W64)) 4
  long : Vector Bool 4
  busy : List Nat
  crowded : Bool
  held : Nat × List Nat
deriving DecidableEq, Repr

/-- The front end: streams in the order C, V, X, M, a taken XBR, TEND, an accepted RFT, a fetch in progress. -/
structure FrontEnd where
  streams : Vector StreamPos 4
  xbr : Option XbrTransfer
  tended : Option Nat
  rft : Option (Fin 32)
  /-- RFT's frame translation is in progress up to this package cycle (R366) -/
  rftUntil : Nat
  /-- that translation has begun -/
  rftBegun : Bool
  fetchUntil : Nat
  fetch : Fetch
deriving DecidableEq, Repr

/-- What the writes and reads of a cycle find and a stop at that cycle restores: the register files, tiles, FPF and
TMCMP, the latches, and the streams with a taken XBR (R357, R361, R392). -/
structure Before where
  regs : Regs
  tiles : Vector Tile 32
  fpf : BitVec 6
  tmcmp : W64
  latches : List Latch
  streams : Vector StreamPos 4
  xbr : Option XbrTransfer
deriving DecidableEq, Repr

/-- The pipeline: latches, this cycle's requests, undo records, touches, stores and traps, what stood before its
writes while the cycle is under way, and the two busy units (R142). -/
structure Pipe where
  latches : List Latch
  reqs : List BankReq
  undo : List IssueUndo
  touches : List WordTouch
  stored : List StoreUndo
  traps : List TrapRec
  before : Option Before
  /-- first cycle at which the vector function group accepts a word -/
  divFree : Nat
  /-- first cycle at which the matrix array accepts a word -/
  mmaFree : Nat
deriving DecidableEq, Repr

/-- Where a latch that a frame holds comes from, for what its frame entry does not say: its word's place (R154) and the
guard maps of its issue (R342). -/
structure LatchOrigin where
  ctxid : BitVec 16
  slot : Fin 32
  issue : Nat
  strm : Stream
  pc : Nat
  guards : List (Nat × BitVec 256)
deriving DecidableEq, Repr

/-- The core's dealings with memory and the ring. -/
structure MemSide where
  landings : List Landing
  port : List Access
  captures : List Capture
  /-- the captures and QALT writes that the last QFENCE waits for (R267) -/
  qwaits : List Nat
  /-- at most one for each context (R46) -/
  guards : List GuardTouch
  /-- captures that a pre-emption stopped before their pass, by context and task slot (R362, R371) -/
  orphans : List (BitVec 16 × Fin 32 × Landing)
  /-- for a landing that a frame holds with FAULT = 1, by context, slot and issue: FAUX of its record (R356, R393) -/
  faults : List (BitVec 16 × Fin 32 × Nat × W64)
  /-- the latches that frames hold and that reach terrace 0 (R154, R342) -/
  origins : List LatchOrigin
deriving DecidableEq, Repr

/-- The tasks of a core. -/
structure Tasks where
  slots : Vector TaskSlot 32
  writes : List SlotWrite
  run : Option Running
  /-- the end cycle of the last task (R19) -/
  lastEnd : Option Nat
  /-- a gang reserves the core: 0 until its start tick is fixed, then that tick (R26) -/
  reserved : Option Nat
deriving DecidableEq, Repr

/-- What the context of the core gives its task, taken at a task boundary (R331). -/
structure CtxAttr where
  kat : Bool
  debug : Bool
  budget : Nat
deriving DecidableEq, Repr

/-- One core (R9-R11). -/
structure Core where
  live : Bool
  world : Bool
  ctx : Option (BitVec 16)
  ctxSlot : BitVec 6
  attr : CtxAttr
  view : CairnView
  /-- package cycle by which the recovery point falls for a core with no RUNNING task (R384) -/
  recoverBy : Option Nat
  regs : Regs
  acc : AccStore
  sp : Specials
  bars : Barriers
  fe : FrontEnd
  pipe : Pipe
  mem : MemSide
  tasks : Tasks
  freeze : Option Freeze
  stop : Option StopRec
  pending : Pending
deriving DecidableEq, Repr

/-! ## The ring -/

/-- STATE of a ring slot (R68). -/
inductive RingSt where
  | free | boarded | broken
deriving DecidableEq, Repr

/-- A ring slot: header and payload (R68); freeAtCol marks FREESLOT or a sweep (R82, R83). -/
structure RingSlot where
  par : Bool
  st : RingSt
  world : Bool
  ctxid : BitVec 16
  key : BitVec 32
  payload : Vector W64 8
  freeAtCol : Bool
deriving DecidableEq, Repr

/-- The ring: 8 tracks of 1,024 slots (slot j of track t at 1024t + j), how far it has turned, whether it is
stopped by pre-emption, the world of each track, and how often each slot met captures in this pass (R67-R83). -/
structure Ring where
  slots : Vector RingSlot 8192
  phase : Nat
  stopped : Bool
  secure : Vector Bool 8
  /-- captures performed this cycle, in issue order: rank, track and id (R75) -/
  taken : List (Nat × Nat × Nat)
deriving DecidableEq, Repr

/-! ## Copy engines -/

/-- An enclosing LOOP of a chain (R254): its entry offset, the end of its body, the iteration and count, and the
increments. -/
structure LoopFrame where
  start : Nat
  stop : Nat
  iter : Nat
  count : Nat
  sinc : W64
  dinc : W64
  sigInc : Nat
deriving DecidableEq, Repr

/-- A chain in an engine's queue (R52). -/
structure Chain where
  id : Nat
  rank : Fin 288
  start : Nat
  ctxid : BitVec 16
  world : Bool
  job : Option Nat
  /-- its COPY's core has reached issue + 4 (R242) -/
  open_ : Bool
  /-- package cycle from which it may start -/
  due : Nat
  /-- ids of port accesses of the issuing core that must perform first (R309) -/
  after : List Nat
  /-- ids of the terrace 0 stores that it sees, which perform before issue + 4 (R242) -/
  sees : List Nat
deriving DecidableEq, Repr

/-- An engine's access held by translation (R349): its place in the order of records. -/
structure HeldAccess where
  ptr : W64
  write : Bool
  reason : Nat
  gen : BitVec 32
  order : Nat
  freezes : Bool
deriving DecidableEq, Repr

/-- Destination bytes that a copying entry has still to write, within one 64-byte granule, and where they came from. -/
structure CopyPart where
  dst : W64
  bytes : List Byte
  src : Option W64
deriving DecidableEq, Repr

/-- The copying entry that an engine is performing: the parts not yet written; the bytes of the entry not yet counted;
whether its record of a lost layer is written; the lost byte whose record is owed while no place is free (R350); and the
guard maps that stood when it began (R55, R57, R342, R386). -/
structure CopyRun where
  todo : List CopyPart
  left : Nat
  recorded : Bool
  owed : Option W64
  guards : List (Nat × BitVec 256)
deriving DecidableEq, Repr

/-- The running chain of an engine (R259). -/
structure Walk where
  pc : Nat
  /-- the entry at pc, whole, once the engine has read it (R52) -/
  entry : Option (Vector W64 4)
  /-- offset of the last entry read -/
  last : Nat
  nest : List LoopFrame
  err : Bool
  lost : Bool
  autoCount : Nat
  /-- OUT and Q of the governing EXPAND (R253) -/
  expand : Option (Nat × Nat)
  entries : Nat
  /-- consecutive JUMP, COND or LOOP entries (R258) -/
  streak : Nat
  /-- a COND with WAIT holds the chain (R255) -/
  waiting : Bool
  held : Option HeldAccess
  /-- the MOVE or WINDOW at pc that has begun -/
  copy : Option CopyRun
  /-- the place in the queue for idle bank-cycles of what it waits to read or write (R44) -/
  ask : Option Nat
  /-- package cycle at or after which the next entry, or the next granule of one, is performed -/
  due : Nat
deriving DecidableEq, Repr

/-- A cached leaf translation of a map unit (R348). -/
structure TlbEntry where
  ctxid : BitVec 16
  /-- page number in units of 64 KiB -/
  page : Nat
  pte : W64
  level : Nat
deriving DecidableEq, Repr

/-- A REMOTE stamp handed to a link engine (R401); id names the access of the core's port that it stands for, or the
chain of a SIGNAL. -/
structure RemoteStamp where
  id : Nat
  ptr : W64
  value : W64
  ctxid : BitVec 16
  world : Bool
  rank : Fin 288
  due : Nat
  /-- the engine that runs the issuing chain, for a SIGNAL -/
  chain : Option (Fin 96)
  /-- the job of the issuing task (R315) -/
  job : Option Nat
  /-- ENTRY, LOOP0 to LOOP3 and DETAIL of a record (R351) -/
  entry : Nat
  loops : Vector Nat 4
  detail : W64
  held : Option HeldAccess
deriving DecidableEq, Repr

/-- One copy engine (R8, R51-R60). -/
structure Engine where
  world : Bool
  done : BitVec 32
  queue : List Chain
  walk : Option Walk
  tlb : List TlbEntry
  remote : List RemoteStamp
deriving DecidableEq, Repr

/-! ## Contexts, jobs, faults -/

/-- A fault record (R351), without the generation and tick it takes when it is written. -/
structure FaultRec where
  cause : Byte
  src : Nat
  reason : Nat
  engine : Nat
  held : Bool
  lost : Bool
  akind : Nat
  rank : Nat
  slot : Nat
  gen : BitVec 32
  entry : Nat
  addr : W64
  loops : Vector Nat 4
  remain : Nat
  detail : W64
  /-- package cycle from which it may be written -/
  due : Nat
deriving DecidableEq, Repr

/-- One job queue (R334, R335): head, tail, whether the entry that holds card H failed translation, and the job
that is dealing. -/
structure JobQueue where
  head : BitVec 16
  tail : BitVec 16
  held : Bool
  dealing : Option Nat
deriving DecidableEq, Repr

/-- A context (R330), with the host's record words and what the device keeps for it. -/
structure Context where
  id : BitVec 16
  record : Vector W64 16
  resident : Option (BitVec 6)
  gen : BitVec 32
  prod : BitVec 32
  /-- records waiting to be written, oldest first (R350) -/
  waiting : List FaultRec
  ackv : BitVec 32
  /-- the published versions above ackv, oldest first, each with the package tick from which its deadline runs, or none
  until the context is resident (R389) -/
  clocks : List (BitVec 32 × Option W64)
  stale : Bool
  preempted : Bool
  queues : Vector JobQueue 4
  /-- the task slots of its cores, by rank, while it is not resident (R368) -/
  parked : List (Nat × Vector TaskSlot 32)
deriving DecidableEq, Repr

/-- A job (R28-R30, R337-R339). -/
structure Job where
  id : Nat
  ctxid : BitVec 16
  queue : Fin 4
  index : BitVec 16
  card : Vector W64 8
  template : Vector W64 8
  gang : Bool
  /-- records dealt so far, and chunks dealt -/
  dealt : Nat
  chunks : Nat
  /-- tasks dealt and not ended: rank and first record -/
  open_ : List (Nat × Nat)
  /-- chunks of a lost core to deal again: first record and count (R385) -/
  redeal : List (Nat × Nat)
  /-- when each core of the set last became free (R29) -/
  freeSince : List (Nat × Nat)
  /-- lowest failed first record or member, and its cause (R339) -/
  failed : Option (Nat × Byte)
  missed : Option Nat
  /-- status of a refused card -/
  refused : Option Nat
  gangid : BitVec 16
  startTick : Option W64
  /-- TICK at which a task of the job last ended -/
  endTick : Option W64
  /-- REASON of the walk by which COMPL failed the test of the card: no completion record is written (R338) -/
  noRecord : Option Nat
deriving DecidableEq, Repr

/-- An addition on its way to a barrier (R58, R177). -/
structure BarrierAdd where
  id : Nat
  rank : Nat
  bar : Nat
  count : Nat
  ctxid : BitVec 16
  due : Nat
  /-- ids of port accesses of the issuing core that must perform first (R177) -/
  after : List Nat
  from_ : Option (Fin 288)
  /-- the chain whose SIGNAL it is: those of one chain are made in order (R53, R274) -/
  chain : Option Nat
deriving DecidableEq, Repr

/-- A gang freeze (R354): the gang, the task cycle at which the first member froze, and the common span D, not rounded by
R49. -/
structure GangFreeze where
  id : Nat
  gangid : BitVec 16
  cyc : Nat
  span : Option Nat
  /-- members that have still to freeze -/
  toTake : List Nat
  /-- members that have resumed, with the cycles each was frozen -/
  served : List (Nat × Nat)
  stop : Option (StopRec × Nat)
deriving DecidableEq, Repr

/-- The eviction of a context in progress (R368, R389): its cause, and whether DESTROY follows. -/
structure Eviction where
  ctxid : BitVec 16
  cause : Cause
  faux : W64
  destroy : Bool
  /-- part of a whole-package pre-emption -/
  preempt : Bool
  /-- an EVICT or DESTROY waits for it -/
  commanded : Bool
deriving DecidableEq, Repr

/-- A gang whose stopped members resume or restart together (R364). -/
structure GangResume where
  gangid : BitVec 16
  ranks : List Nat
  tick : Option W64
deriving DecidableEq, Repr

/-! ## The host interface and the base controller -/

/-- The command mailbox and BELLERR (R326, R327, R340). -/
structure Mailbox where
  cmd : W64
  args : Vector W64 4
  busy : Bool
  tag : BitVec 16
  result : Byte
  /-- the command that executes, with the arguments it read, and the result it will complete with -/
  cur : W64
  curArgs : Vector W64 4
  pendingResult : Option Byte
  due : Nat
  bellerr : W64
deriving DecidableEq, Repr

/-- One layer entry (R378). -/
structure Layer where
  state : Nat
  size : Nat
  gspare : Vector (BitVec 2) 64
  lostVer : BitVec 32
  lanes : Nat
  lgroup : BitVec 512
deriving DecidableEq, Repr

/-- One history entry (R380). -/
structure HistEntry where
  version : BitVec 32
  cls : Nat
  res : Nat
  index : Nat
  tick : BitVec 48
  reason : Nat
deriving DecidableEq, Repr

/-- The cairn (R373-R383), newest history entry first. -/
structure Cairn where
  version : BitVec 32
  seq : BitVec 32
  pubTick : BitVec 48
  lastShrink : BitVec 32
  cls : Nat
  live : Vector Bool 288
  chan : BitVec 48
  region : BitVec 12
  port : BitVec 16
  layers : Vector Layer 16
  pos : Vector (BitVec 10) 288
  stationLost : Vector Bool 288
  history : List HistEntry
deriving DecidableEq, Repr

/-- The counters of the scree (R402, R403); an error word is a pair of corrected and uncorrected counts. -/
structure Scree where
  boots : Nat
  /-- core cycles of power-on, of which the window shows the hours -/
  upTime : Nat
  vkat : Nat
  xkat : Nat
  lastMiss : W64
  lastMissCtx : BitVec 16
  freezes : Vector Nat 6
  lateness : Vector Nat 16
  thermal : Vector Nat 32
  voltage : Vector Nat 32
  portLanes : Vector Nat 16
  /-- replays of each port since manufacture (R398); no offset of the window shows them -/
  replays : Vector Nat 16
  tsvLanes : Vector Nat 16
  ringErr : Vector (Nat × Nat) 8
  chanErr : Vector (Nat × Nat) 48
  t0Err : Vector (Nat × Nat) 288
  bankErr : Vector (Nat × Nat) 1024
  /-- history entries of versions 1 to 1,024, in the layout of R380 -/
  history : List HistEntry
  /-- a removal of power at 115 °C (R406) -/
  shutdowns : Nat
deriving DecidableEq, Repr

/-- The management port and the routing tables (R399, R400), with the port's MAC address. -/
structure Mgmt where
  mac : BitVec 48
  number : BitVec 12
  routes : Vector (BitVec 32) 4096
  stagedNumber : BitVec 12
  stagedRoutes : Vector (BitVec 32) 4096
  lastSource : Option (Nat × BitVec 32)
  lastReply : List Byte
  /-- replies sent: the address they go to and the datagram -/
  sent : List (Nat × List Byte)
  ipv4 : Option (BitVec 32)
deriving DecidableEq, Repr

/-- The IEEE 1588 clock (R396). -/
structure Ptp where
  locked : Bool
  loaded : Bool
  slew : BitVec 16
  offset : BitVec 32
  good : Nat
deriving DecidableEq, Repr

/-- Boot, security and power of the base controller (R341-R345, R406-R408): whether the part has power, and whether the
compute dies and stacks have it. -/
structure BaseCtl where
  alive : Bool
  powered : Bool
  ready : Bool
  secureMonitor : Bool
  ownerKey : Option (List Byte)
  nextLeaf : Nat
  worldTableHash : List Byte
  /-- a context has been resident since reset (R396) -/
  everResident : Bool
  /-- RESIDE is refused until the temperature falls (R406) -/
  hot : Bool
  /-- the cairn cannot take another version (R373) -/
  exhausted : Bool
deriving DecidableEq, Repr

/-- What pre-emption put into the package save area (R370): the place of the images of T1-T4 in LPDDR memory, the ring,
the engines. -/
structure Saved where
  area : Nat
  ring : Vector RingSlot 8192
  phase : Nat
  engines : Vector Engine 96
  /-- no pre-empted context has been made resident since -/
  fresh : Bool
  ringLost : Bool
deriving DecidableEq, Repr

/-- Worlds and guard maps of regions (R38, R341). T0 region r of rank n is 24n + r; T1-T4 region r of layer entry e
is 16384e + r; LPDDR regions are 1 GiB each. -/
structure Protection where
  t0Secure : List Nat
  layerSecure : List Nat
  lpddrSecure : List Nat
  portSecure : Vector Bool 16
  /-- guard maps of the regions that have one: the region's key and its 256 bits -/
  guards : List (Nat × BitVec 256)
deriving DecidableEq, Repr

/-- Where an error is corrected (R83, R381, R402): a track of the ring, a bank of T1-T4, a channel, or the terrace 0 of
a rank. -/
inductive Corrected where
  | slot (track : Fin 8)
  | bank (n : Nat)
  | channel (n : Nat)
  | t0 (n : Nat)
deriving DecidableEq, Repr

/-- A signal the outside world sends at a package cycle: an event of the table, a corrected error, a write to host memory,
or the word of the other end of a port that it has taken the oldest flits still unacknowledged, or that the oldest failed
its CRC there (R398). -/
inductive Input where
  | event (i : Instr)
  | corrected (c : Corrected)
  | hostWrite (key : Nat) (bytes : List Byte)
  | linkAck (port : Fin 16) (flits : Nat)
  | linkNak (port : Fin 16)
deriving DecidableEq, Repr

/-- A flit that leaves by a port: the package it goes to and the one it comes from, the port, what it asks or answers, and
the bytes it carries (R398, R399, R401). -/
structure SentFlit where
  dest : Nat
  src : Nat
  port : Fin 16
  kind : FlitKind
  ctxid : BitVec 16
  world : Bool
  off : Nat
  bytes : List Byte
deriving DecidableEq, Repr

/-- A port (R398): its flits and replays in the 60 s under way, and its replay buffer, oldest flit first; how many flits it
has acknowledged and refused to the other end. -/
structure Link where
  flits : Nat
  replays : Nat
  unacked : List SentFlit
  acked : Nat
  naked : Nat
deriving DecidableEq, Repr

/-- A port that has carried nothing. -/
def Link.init : Link := { flits := 0, replays := 0, unacked := [], acked := 0, naked := 0 }

/-- A line of 64 bytes of a terrace 0 that a copy engine, a landing of another core or a descriptor on its way has asked for,
by the ticket of what asked, and its bytes once an idle cycle of its bank has served it (R44). -/
structure BankAsk where
  id : Nat
  rank : Nat
  line : Nat
  data : Option (List Byte)
deriving DecidableEq, Repr

/-- Where the machine stands within one package cycle. -/
inductive Phase where
  | early | words | late
deriving DecidableEq, Repr

/-- The word that is about to have its effect: its core, its stream, its terrace 0 offset, the word itself and the
stream's position before it. -/
structure Focus where
  rank : Fin 288
  strm : Stream
  off : Nat
  word : W64
  old : StreamPos
deriving DecidableEq, Repr

/-- The whole package. -/
structure State where
  /-- package core cycle since power-on -/
  now : Nat
  phase : Phase
  focus : Focus
  /-- the model's own: how many free values and delays have been drawn, and fresh identifiers -/
  serial : Nat
  cores : Vector Core 288
  mem : List Host.Cell
  ring : Ring
  engines : Vector Engine 96
  prot : Protection
  contexts : List Context
  jobs : List Job
  adds : List BarrierAdd
  gangs : List GangFreeze
  /-- the lines of terrace 0s that wait for idle bank-cycles, in order of request (R44) -/
  bankq : List BankAsk
  resumes : List GangResume
  evicting : List Eviction
  tick : W64
  /-- package cycle of the next increment of TICK, and the fractional accumulator that places it (R395) -/
  tickDue : Nat
  tickAcc : Nat
  preemptAt : Option W64
  /-- the package is frozen for pre-emption and its contexts are being evicted (R370) -/
  freezing : Bool
  mailbox : Mailbox
  cairn : Cairn
  scree : Scree
  screeSaved : Scree
  mgmt : Mgmt
  ptp : Ptp
  base : BaseCtl
  saved : Option Saved
  /-- MSI-X vectors raised, a count for each (R325) -/
  raised : Vector Nat 72
  /-- flits to other packages (R398, R401) -/
  sent : List SentFlit
  links : Vector Link 16
  /-- package cycle at which the 60 s under way end (R398) -/
  linksDue : Nat
  /-- package cycle at or after which the scree is next written to non-volatile storage (R402) -/
  saveDue : Nat
  /-- the corrected errors of T1-T4 banks within the last 3,600 s: bank and package cycle (R381) -/
  bankTimes : List (Nat × Nat)
  /-- keys of the T1-T4 bytes that stand in a spare as poison (R381) -/
  poison : List Nat
  /-- MAPACK acknowledgements on their way: context, version, package cycle (R181) -/
  acks : List (BitVec 16 × BitVec 32 × Nat)
  /-- the outside world: what it sends, and from which package cycle -/
  inputs : List (Nat × Input)
deriving DecidableEq, Repr

/-! ## Reset -/

/-- An EMPTY task slot. -/
def TaskSlot.init : TaskSlot :=
  { st := .empty, mode := .fresh, runFor := 0, age := 0, effCls := 0, chunk := none,
    stampHolds := Vector.replicate 4 false, stampDue := Vector.replicate 4 0, resumeTick := none, reruns := 0,
    evicted := false, tested := false, missed := false, settledAt := none }

/-- The register files at task start, but for a0 and a1 (R112). DESIGN CHOICE: log entry 1. -/
def Regs.init : Regs :=
  { s := Vector.replicate 64 0, a := Vector.replicate 32 0, v := Vector.replicate 384 VReg.zero,
    k := (Vector.replicate 16 MReg.zero).set 0 MReg.ones, loops := Vector.replicate 16 0, fq := [] }

/-- No handle bound and every slot free (R116, R278). -/
def AccStore.init : AccStore :=
  { h := Vector.replicate 16 none, tiles := Vector.replicate 32 Tile.zero, free := Vector.replicate 32 true }

/-- The special registers at their reset values (R120). -/
def Specials.init : Specials :=
  { cyc := 0, frz := 0, taskv := 0, fpf := 0, cause := 0, faddr := 0, faux := 0, tmcmp := 0 }

/-- A barrier file of zeros. -/
def Barriers.init : Barriers :=
  { val := Vector.replicate 256 0, start := Vector.replicate 256 0, pend := Vector.replicate 256 false }

/-- A parked stream. -/
def StreamPos.init : StreamPos := { off := 0, base := 0, fixed := false, parked := true }

/-- Nothing fetched. -/
def Fetch.init : Fetch :=
  { bufs := Vector.replicate 4 [], long := Vector.replicate 4 false, busy := [], crowded := false, held := (0, []) }

/-- No word to issue. -/
def FrontEnd.init : FrontEnd :=
  { streams := Vector.replicate 4 StreamPos.init, xbr := none, tended := none, rft := none, rftUntil := 0,
    rftBegun := false, fetchUntil := 0, fetch := Fetch.init }

/-- An empty pipeline. -/
def Pipe.init : Pipe :=
  { latches := [], reqs := [], undo := [], touches := [], stored := [], traps := [], before := none, divFree := 0,
    mmaFree := 0 }

/-- No access outstanding. -/
def MemSide.init : MemSide :=
  { landings := [], port := [], captures := [], qwaits := [], guards := [], orphans := [], faults := [], origins := [] }

/-- No task. -/
def Tasks.init : Tasks :=
  { slots := Vector.replicate 32 TaskSlot.init, writes := [], run := none, lastEnd := none, reserved := none }

/-- Nothing owed. -/
def Pending.init : Pending :=
  { debug := false, cairn := none, preempt := false, mapstale := none, evict := false, uncorr := none, rerun := false }

/-- The size of terrace t of a whole layer; entry 4d + t - 1 (R32, R378). -/
def wholeSize (e : Nat) : Nat := if e % 4 < 2 then 0x20000000 else 0x40000000

/-- Position of rank r before any re-forming (R70). -/
def stationPos (r : Nat) : BitVec 10 := BitVec.ofNat 10 (256 * (r / 72) + 16 + 3 * (r % 72))

/-- A core at reset: bound to no context, non-secure (R341), with the freeze budget of R48. -/
def Core.init (r : Nat) : Core :=
  { live := true, world := false, ctx := none, ctxSlot := 0,
    attr := { kat := false, debug := false, budget := 65536 },
    view := { version := 1, pos := stationPos r, stationLost := false, sizes := Vector.ofFn fun e => wholeSize e },
    recoverBy := none, regs := Regs.init, acc := AccStore.init, sp := Specials.init, bars := Barriers.init,
    fe := FrontEnd.init, pipe := Pipe.init, mem := MemSide.init, tasks := Tasks.init, freeze := none, stop := none,
    pending := Pending.init }

/-- A ring slot after reset (R69). -/
def RingSlot.init : RingSlot :=
  { par := false, st := .free, world := false, ctxid := 0, key := 0, payload := Vector.replicate 8 0,
    freeAtCol := false }

/-- The ring after reset: slot j of every track stands at position j (R69), every track non-secure (R341). -/
def Ring.init : Ring :=
  { slots := Vector.replicate 8192 RingSlot.init, phase := 0, stopped := false, secure := Vector.replicate 8 false,
    taken := [] }

/-- An idle engine. -/
def Engine.init : Engine := { world := false, done := 0, queue := [], walk := none, tlb := [], remote := [] }

/-- A whole layer. -/
def Layer.init (e : Nat) : Layer :=
  { state := 0, size := wholeSize e, gspare := Vector.replicate 64 0, lostVer := 0, lanes := 0, lgroup := 0 }

/-- The cairn of manufacture: version 1, everything live (R373, R380). DESIGN CHOICE: log entry 62. -/
def Cairn.init : Cairn :=
  { version := 1, seq := 0, pubTick := 0, lastShrink := 0, cls := 0, live := Vector.replicate 288 true,
    chan := BitVec.allOnes 48, region := BitVec.allOnes 12, port := BitVec.allOnes 16,
    layers := Vector.ofFn fun e => Layer.init e, pos := Vector.ofFn fun r => stationPos r,
    stationLost := Vector.replicate 288 false,
    history := [{ version := 1, cls := 0, res := 0, index := 0, tick := 0, reason := 0 }] }

/-- The scree of a part that has counted nothing. -/
def Scree.init : Scree :=
  { boots := 0, upTime := 0, vkat := 0, xkat := 0, lastMiss := 0, lastMissCtx := 0, freezes := Vector.replicate 6 0,
    lateness := Vector.replicate 16 0, thermal := Vector.replicate 32 0, voltage := Vector.replicate 32 0,
    portLanes := Vector.replicate 16 0, replays := Vector.replicate 16 0, tsvLanes := Vector.replicate 16 0,
    ringErr := Vector.replicate 8 (0, 0),
    chanErr := Vector.replicate 48 (0, 0), t0Err := Vector.replicate 288 (0, 0),
    bankErr := Vector.replicate 1024 (0, 0),
    history := [{ version := 1, cls := 0, res := 0, index := 0, tick := 0, reason := 0 }], shutdowns := 0 }

/-- The management port before any staging: package number 0, no route. -/
def Mgmt.init : Mgmt :=
  { mac := Config.mac, number := 0, routes := Vector.replicate 4096 (BitVec.allOnes 32), stagedNumber := 0,
    stagedRoutes := Vector.replicate 4096 (BitVec.allOnes 32), lastSource := none, lastReply := [], sent := [],
    ipv4 := none }

/-- The mailbox at reset (R327, R340). -/
def Mailbox.init : Mailbox :=
  { cmd := 0, args := Vector.replicate 4 0, busy := false, tag := 0, result := 0, cur := 0,
    curArgs := Vector.replicate 4 0, pendingResult := none, due := 0, bellerr := 0 }

/-- The machine right after reset: nothing resident, memory with nothing listed, TICK 0 (R395), every counter of
cores and engines zero. DESIGN CHOICE: log entry 1. DESIGN CHOICE: log entry 4. DESIGN CHOICE: log entry 62. -/
def State.reset : State :=
  { now := 0, phase := .early,
    focus := { rank := 0, strm := .c, off := 0, word := 0, old := StreamPos.init },
    serial := 0, cores := Vector.ofFn fun r => Core.init r, mem := [], ring := Ring.init,
    engines := Vector.replicate 96 Engine.init,
    prot := { t0Secure := [], layerSecure := [], lpddrSecure := [], portSecure := Vector.replicate 16 false,
              guards := [] },
    contexts := [], jobs := [], adds := [], gangs := [], bankq := [], resumes := [], evicting := [], tick := 0, tickDue := 12, tickAcc := 0,
    preemptAt := none, freezing := false,
    mailbox := Mailbox.init, cairn := Cairn.init, scree := Scree.init, screeSaved := Scree.init, mgmt := Mgmt.init,
    ptp := { locked := false, loaded := false, slew := 0, offset := 0, good := 0 },
    base := { alive := true, powered := true, ready := false, secureMonitor := false, ownerKey := none, nextLeaf := 0,
              worldTableHash := [], everResident := false, hot := false, exhausted := false },
    saved := none, raised := Vector.replicate 72 0, sent := [],
    links := Vector.replicate 16 Link.init, linksDue := 72000000000, saveDue := 72000000000, bankTimes := [],
    poison := [], acks := [], inputs := [] }

end Sys2Proof.Machine
end

