-- ==== Sys2Proof/Machine/Flags.lean ====
section
/-! DEFINITION. The sticky flags of FPF (R98) and integer saturation (R111). -/

namespace Sys2Proof.Machine

/-- FPF flags as a 6-bit word: SAT, NV, DZ, OF, UF, NX from bit 5 down to bit 0 (R98). -/
abbrev FlagSet := BitVec 6

def fNone : FlagSet := 0
def fNX : FlagSet := 1
def fUF : FlagSet := 2
def fOF : FlagSet := 4
def fDZ : FlagSet := 8
def fNV : FlagSet := 16
def fSAT : FlagSet := 32

/-- A flag where a condition holds. -/
def fIf (b : Bool) (f : FlagSet) : FlagSet := if b then f else 0

/-- The OR of many flag sets (R99). -/
def fAll (fs : List FlagSet) : FlagSet := fs.foldl (· ||| ·) 0

/-- The least and greatest value of a w-bit integer type (R90). -/
def intMin (w : Nat) (signed : Bool) : Int := if signed then -(2 ^ (w - 1)) else 0
def intMax (w : Nat) (signed : Bool) : Int := if signed then 2 ^ (w - 1) - 1 else 2 ^ w - 1

/-- The low w bits of an integer, as a code. -/
def wrapInt (w : Nat) (x : Int) : Nat := (x % 2 ^ w).toNat

/-- A w-bit code read signed or unsigned. -/
def readInt (w : Nat) (signed : Bool) (n : Nat) : Int :=
  let m := n % 2 ^ w
  if signed && 2 ^ (w - 1) ≤ m then (m : Int) - 2 ^ w else m

/-- The value clamped to the type's range. -/
def clampInt (w : Nat) (signed : Bool) (x : Int) : Int := max (intMin w signed) (min (intMax w signed) x)

/-- An exact integer result: wrapped, or with .sat clamped, with SAT when clamping changes it (R111, R189). -/
def finishInt (w : Nat) (signed sat : Bool) (x : Int) : Nat × FlagSet :=
  if sat then
    let y := clampInt w signed x
    (wrapInt w y, fIf (y != x) fSAT)
  else (wrapInt w x, 0)

/-- Number of leading zeros, trailing zeros and ones (R161). -/
def leadZeros (w n : Nat) : Nat := ((List.range w).find? fun i => n.testBit (w - 1 - i)).getD w
def trailZeros (w n : Nat) : Nat := ((List.range w).find? fun i => n.testBit i).getD w
def oneBits (w n : Nat) : Nat := ((List.range w).filter fun i => n.testBit i).length

end Sys2Proof.Machine
end

