-- ==== Sys2Proof/Machine/Memory.lean ====
section
/-! DEFINITION. Memory: one list of cells in canonical form, and where each address space of the part lies in it
(R32, R34, R35). A byte that nothing has written reads zero. -/

namespace Sys2Proof.Machine

/-- An entry of a vector changed, where there is one. -/
def vecMod {α : Type} {n : Nat} (v : Vector α n) (i : Nat) (f : α → α) : Vector α n :=
  match v[i]? with | some x => v.setIfInBounds i (f x) | none => v

/-- The byte at a key. DESIGN CHOICE: log entry 2. -/
def memRead : List Host.Cell → Nat → Byte
  | [], _ => 0
  | (a, b) :: rest, k => if a = k then b else if k < a then 0 else memRead rest k

/-- The memory with the byte at a key replaced, in canonical form. -/
def memWrite : List Host.Cell → Nat → Byte → List Host.Cell
  | [], k, v => if v = 0 then [] else [(k, v)]
  | (a, b) :: rest, k, v =>
    if k < a then (if v = 0 then (a, b) :: rest else (k, v) :: (a, b) :: rest)
    else if k = a then (if v = 0 then rest else (k, v) :: rest)
    else (a, b) :: memWrite rest k v

/-- Keys strictly rising from a bound, and no cell holding what an unlisted key reads as. -/
def memWfFrom : Nat → List Host.Cell → Bool
  | _, [] => true
  | lo, (a, b) :: rest => lo ≤ a && b != 0 && memWfFrom (a + 1) rest

/-- The canonical form. -/
def Memory.wf (m : List Host.Cell) : Bool := memWfFrom 0 m

/-- The n bytes from a key. -/
def memReadN (m : List Host.Cell) (k n : Nat) : List Byte := (List.range n).map fun j => memRead m (k + j)

/-- Bytes stored from a key on. -/
def memWriteN (m : List Host.Cell) (k : Nat) : List Byte → List Host.Cell
  | [] => m
  | b :: rest => memWriteN (memWrite m k b) (k + 1) rest

/-- Bytes stored from a key on where their enable is set. -/
def memWriteEn (m : List Host.Cell) (k : Nat) : List (Byte × Bool) → List Host.Cell
  | [] => m
  | (b, e) :: rest => memWriteEn (if e then memWrite m k b else m) (k + 1) rest

/-- Cells of the keys from lo up to hi removed (they then read zero). -/
def memClear (m : List Host.Cell) (lo hi : Nat) : List Host.Cell := m.filter fun c => c.1 < lo || hi ≤ c.1

/-- The cells of the keys from lo up to hi. -/
def memSlice (m : List Host.Cell) (lo hi : Nat) : List Host.Cell := m.filter fun c => lo ≤ c.1 && c.1 < hi

/-- The n bytes from one key copied to another. -/
def memCopy (m : List Host.Cell) (src dst n : Nat) : List Host.Cell :=
  (m.filter fun c => c.1 < dst) ++ ((memSlice m src (src + n)).map fun c => (c.1 - src + dst, c.2))
    ++ m.filter fun c => dst + n ≤ c.1

/-- A whole span of memory replaced by these bytes. -/
def memPut (m : List Host.Cell) (k : Nat) (bs : List Byte) : List Host.Cell :=
  (m.filter fun c => c.1 < k) ++ ((bs.zipIdx k).filterMap fun x => if x.1 = 0 then none else some (x.2, x.1))
    ++ m.filter fun c => k + bs.length ≤ c.1

/-- Where a byte of the part or of the host lies. -/
inductive Place where
  /-- terrace 0 of a rank -/
  | t0 (r : Nat)
  /-- the terrace of layer entry 4d + t - 1 (R378) -/
  | layer (e : Nat)
  | lpddr
  | host
deriving DecidableEq, Repr

/-- The key of an offset of a place. -/
def Place.key (p : Place) (off : Nat) : Nat :=
  match p with
  | .t0 r => r * 2 ^ 21 + off
  | .layer e => 2 ^ 40 + e * 2 ^ 30 + off
  | .lpddr => 2 ^ 52 + off
  | .host => 2 ^ 53 + off

/-- The key of a 64 KiB region in the guard maps; only terraces have one (R38). -/
def Place.region (p : Place) (off : Nat) : Option Nat :=
  match p with
  | .t0 r => some (24 * r + off / 65536)
  | .layer e => some (2 ^ 20 + 16384 * e + off / 65536)
  | _ => none

/-- The first byte of the usable T0 that programs cannot address (R15). -/
def t0Top : Nat := 0x17F800

/-- The region of an offset is secure (R38); an LPDDR region is 1 GiB (R341). -/
def Protection.secureAt (p : Protection) (pl : Place) (off : Nat) : Bool :=
  match pl with
  | .t0 r => p.t0Secure.contains (24 * r + off / 65536)
  | .layer e => p.layerSecure.contains (16384 * e + off / 65536)
  | .lpddr => p.lpddrSecure.contains (off / 2 ^ 30)
  | .host => false

/-- Some region of a span is secure (R38). -/
def Protection.secureSpan (p : Protection) (pl : Place) (off n : Nat) : Bool :=
  n != 0 && (List.range ((off + n - 1) / 65536 - off / 65536 + 1)).any fun j => p.secureAt pl ((off / 65536 + j) * 65536)

/-- By these guard maps, the byte at an offset lies in a guard granule (R45). -/
def guardedBy (gs : List (Nat × BitVec 256)) (pl : Place) (off : Nat) : Bool :=
  match pl.region off with
  | none => false
  | some k => match gs.find? (fun g => g.1 == k) with
    | none => false
    | some g => g.2.getLsbD (off % 65536 / 256)

/-- By the maps in force, the byte at an offset lies in a guard granule (R45). -/
def Protection.guarded (p : Protection) (pl : Place) (off : Nat) : Bool := guardedBy p.guards pl off

/-- The bank of an offset (R40, R41). -/
def bankOf (pl : Place) (off : Nat) : Nat :=
  match pl with
  | .t0 _ => off / 64 % 96
  | .layer e => off / 128 % (if e % 4 < 2 then 4096 else 2048)
  | _ => 0

namespace State

/-- The byte an access reads: zero in a guard granule (R45). -/
def byteAt (s : State) (pl : Place) (off : Nat) : Byte :=
  if s.prot.guarded pl off then 0 else memRead s.mem (pl.key off)

/-- The n bytes an access reads. -/
def bytesAt (s : State) (pl : Place) (off n : Nat) : List Byte := (List.range n).map fun j => s.byteAt pl (off + j)

/-- The n bytes that an access reads by the maps that stood when it began (R342). -/
def bytesBy (s : State) (gs : List (Nat × BitVec 256)) (pl : Place) (off n : Nat) : List Byte :=
  (List.range n).map fun j => if guardedBy gs pl (off + j) then 0 else memRead s.mem (pl.key (off + j))

/-- A 64-bit little-endian word, whatever the guard map says. -/
def rawWord (s : State) (pl : Place) (off : Nat) : W64 := BitVec.ofNat 64 (leValue (memReadN s.mem (pl.key off) 8))

/-- By these maps, the first offset of a span that lies in a guard granule. -/
def firstGuardBy (gs : List (Nat × BitVec 256)) (pl : Place) (off n : Nat) : Option Nat :=
  if gs.isEmpty then none else (List.range n).find? (fun j => guardedBy gs pl (off + j)) |>.map (off + ·)

/-- The first offset of a span that lies in a guard granule. -/
def firstGuard (s : State) (pl : Place) (off n : Nat) : Option Nat := firstGuardBy s.prot.guards pl off n

/-- Bytes stored by an access that began under these maps, those in guard granules dropped (R45, R342). -/
def storeBy (s : State) (gs : List (Nat × BitVec 256)) (pl : Place) (off : Nat) (bs : List (Byte × Bool)) : State :=
  { s with mem := memWriteEn s.mem (pl.key off) (bs.mapIdx fun j b => (b.1, b.2 && !guardedBy gs pl (off + j))) }

/-- Bytes stored by an access, those in guard granules dropped (R45). -/
def storeBytes (s : State) (pl : Place) (off : Nat) (bs : List (Byte × Bool)) : State :=
  s.storeBy s.prot.guards pl off bs

/-- A 64-bit word stored outside any guard rule. -/
def putWord (s : State) (pl : Place) (off : Nat) (w : W64) : State :=
  { s with mem := memWriteN s.mem (pl.key off) (leBytes 8 w.toNat) }

/-- Bytes stored outside any guard rule. -/
def putBytes (s : State) (pl : Place) (off : Nat) (bs : List Byte) : State :=
  { s with mem := memWriteN s.mem (pl.key off) bs }

end State

end Sys2Proof.Machine
end

