-- ==== Sys2Proof/Machine/Ops.lean ====
section
/-! DEFINITION. The named operations over registers, latches, traps, barriers and records that every meaning
shares. The taking of an exception (R141, R357) is `Core.takeStop`, its return `Core.leaveStop`. -/

namespace Sys2Proof.Machine

/-- The three outcomes of a step of this machine. -/
abbrev Out := Host.Outcome State Fault Refusal

/-- The trap code (R154). -/
def Cause.code : Cause → Byte
  | .illop => 0x01 | .illreg => 0x02 | .wrongstream => 0x03 | .bankconf => 0x04 | .wcoll => 0x05
  | .fmtunder => 0x06 | .accexh => 0x07 | .acchandle => 0x08 | .landlate => 0x09 | .xlate => 0x0A
  | .guard => 0x0B | .world => 0x0C | .barrier => 0x0D | .mapstale => 0x0E | .ringfault => 0x0F
  | .swtrap => 0x10 | .uncorr => 0x11 | .katmiss => 0x12 | .landfull => 0x13 | .badspace => 0x14
  | .timer => 0x20 | .preempt => 0x21 | .cairn => 0x22 | .debug => 0x23

/-- The cause of a code. -/
def Cause.ofCode (b : Byte) : Cause :=
  match b.toNat with
  | 0x01 => .illop | 0x02 => .illreg | 0x03 => .wrongstream | 0x04 => .bankconf | 0x05 => .wcoll
  | 0x06 => .fmtunder | 0x07 => .accexh | 0x08 => .acchandle | 0x09 => .landlate | 0x0A => .xlate
  | 0x0B => .guard | 0x0C => .world | 0x0D => .barrier | 0x0E => .mapstale | 0x0F => .ringfault
  | 0x10 => .swtrap | 0x11 => .uncorr | 0x12 => .katmiss | 0x13 => .landfull | 0x14 => .badspace
  | 0x20 => .timer | 0x21 => .preempt | 0x22 => .cairn | _ => .debug

/-- Index of a stream in the vectors of the state, C, V, X, M (R136). -/
def streamIx (st : Stream) : Fin 4 := match st with | .c => 0 | .v => 1 | .x => 2 | .m => 3

/-- A 64-bit word of a number. -/
abbrev w64 (n : Nat) : W64 := BitVec.ofNat 64 n

/-- Bits lo to lo + len - 1 of a word, as a number. -/
def bits (w : W64) (lo len : Nat) : Nat := (w.extractLsb' lo len).toNat

/-- The numbers below n that satisfy p. -/
def idxWhere (n : Nat) (p : Nat → Bool) : List Nat := (List.range n).filter p

/-! ## Cores -/

namespace State

def core (s : State) (r : Fin 288) : Core := s.cores[r]

def setCore (s : State) (r : Fin 288) (c : Core) : State := { s with cores := s.cores.set r c }

def modCore (s : State) (r : Fin 288) (f : Core → Core) : State := s.setCore r (f (s.core r))

/-- The core whose word has its effect. -/
def me (s : State) : Core := s.core s.focus.rank

def setMe (s : State) (c : Core) : State := s.setCore s.focus.rank c

def modMe (s : State) (f : Core → Core) : State := s.modCore s.focus.rank f

/-- The core of a rank number, where there is one. -/
def core? (s : State) (r : Nat) : Option Core := if h : r < 288 then some (s.core ⟨r, h⟩) else none

def modCore? (s : State) (r : Nat) (f : Core → Core) : State :=
  if h : r < 288 then s.modCore ⟨r, h⟩ f else s

/-- A fresh serial number. DESIGN CHOICE: log entry 4. -/
def bump (s : State) : State := { s with serial := s.serial + 1 }

/-- The task cycle of the word. -/
def cyc (s : State) : Nat := s.me.sp.cyc

/-- The context with an id. -/
def ctx? (s : State) (id : BitVec 16) : Option Context := s.contexts.find? (fun c => c.id == id)

def modCtx (s : State) (id : BitVec 16) (f : Context → Context) : State :=
  { s with contexts := s.contexts.map fun c => if c.id == id then f c else c }

/-- The job with an identifier. -/
def job? (s : State) (id : Nat) : Option Job := s.jobs.find? (fun j => j.id == id)

def modJob (s : State) (id : Nat) (f : Job → Job) : State :=
  { s with jobs := s.jobs.map fun j => if j.id == id then f j else j }

def modEngine (s : State) (e : Fin 96) (f : Engine → Engine) : State :=
  { s with engines := s.engines.set e (f s.engines[e]) }

/-- Raise an MSI-X vector (R325). -/
def raise (s : State) (v : Nat) : State :=
  { s with raised := s.raised.setIfInBounds v ((s.raised[v]?).getD 0 + 1) }

end State

/-! ## Registers (R112, R113) -/

namespace Core

/-- A scalar register as it stands; s0 reads zero. -/
def readS (c : Core) (r : BitVec 6) : W64 := if r = 0 then 0 else c.regs.s[r.toNat]'r.isLt

def readA (c : Core) (r : BitVec 5) : W64 := c.regs.a[r.toNat]'r.isLt

/-- A vector register; codes above 383 never reach a read (R123). -/
def readV (c : Core) (r : BitVec 9) : VReg := c.regs.v[r.toNat]?.getD VReg.zero

/-- A mask register; k0 reads all ones. -/
def readK (c : Core) (r : BitVec 4) : MReg := if r = 0 then MReg.ones else c.regs.k[r.toNat]'r.isLt

/-- A write to s0 is discarded. -/
def putS (c : Core) (r : BitVec 6) (x : W64) : Core :=
  if r = 0 then c else { c with regs := { c.regs with s := c.regs.s.set r.toNat x r.isLt } }

def putA (c : Core) (r : BitVec 5) (x : W64) : Core :=
  { c with regs := { c.regs with a := c.regs.a.set r.toNat x r.isLt } }

def putV (c : Core) (r : BitVec 9) (x : VReg) : Core :=
  { c with regs := { c.regs with v := c.regs.v.setIfInBounds r.toNat x } }

/-- A write to k0 is discarded. -/
def putK (c : Core) (r : BitVec 4) (x : MReg) : Core :=
  if r = 0 then c else { c with regs := { c.regs with k := c.regs.k.set r.toNat x r.isLt } }

/-- The loop counter l of a stream (R119). -/
def readL (c : Core) (st : Stream) (l : BitVec 2) : BitVec 32 :=
  (c.regs.loops[4 * (streamIx st).val + l.toNat]?).getD 0

def putL (c : Core) (st : Stream) (l : BitVec 2) (x : BitVec 32) : Core :=
  { c with regs := { c.regs with loops := c.regs.loops.setIfInBounds (4 * (streamIx st).val + l.toNat) x } }

def stream (c : Core) (st : Stream) : StreamPos := c.fe.streams[streamIx st]

def setStream (c : Core) (st : Stream) (p : StreamPos) : Core :=
  { c with fe := { c.fe with streams := c.fe.streams.set (streamIx st) p } }

/-- The flags that join FPF (R99). -/
def joinFlags (c : Core) (f : BitVec 6) : Core := { c with sp := { c.sp with fpf := c.sp.fpf ||| f } }

/-- The running task's slot, or slot 0. -/
def slot (c : Core) : Fin 32 := match c.tasks.run with | some r => r.slot | none => 0

/-- Word i of the running task's descriptor. -/
def descWord (c : Core) (i : Fin 8) : W64 := match c.tasks.run with | some r => r.desc[i] | none => 0

/-- CODE of the running task (R12). -/
def code (c : Core) : Nat := bits (c.descWord 1) 0 32

/-- The section of a stream begins at CODE + OFFS x 2,048 (R12). -/
def section_ (c : Core) (st : Stream) : Nat :=
  c.code + 2048 * bits (c.descWord 1) (match st with | .c => 32 | .v => 40 | .x => 48 | .m => 56) 8

/-- SECURE of the running task. -/
def secure (c : Core) : Bool := (c.descWord 0).getLsbD 9

/-- ALIGNQ of the running task. -/
def alignq (c : Core) : Bool := (c.descWord 0).getLsbD 11

/-- The bound context's id; 0xFFFF, which no context has, when none is bound (R330). -/
def ctxid (c : Core) : BitVec 16 := c.ctx.getD 0xFFFF

end Core

/-! ## Memory as others see it (R236, R247) -/

/-- A byte goes under the earliest store of a port that hides its key: it has been written before that store. -/
def patchUnder : List Access → Nat → Byte → List Access
  | [], _, _ => []
  | a :: rest, k, b =>
    if a.under.any fun x => x.1 == k then
      { a with under := a.under.map fun x => if x.1 == k then (k, b) else x } :: rest
    else a :: patchUnder rest k b

namespace State

/-- What stands under the terrace 0 stores that no agent but their own core sees yet, earliest store first (R236, R247).
DEDUCED: log entry 29. -/
def hidden (s : State) : List Host.Cell := s.cores.toList.flatMap fun c => c.mem.port.flatMap (·.under)

/-- The package as every agent sees its memory but the cores whose stores are hidden. -/
def seen (s : State) : State := { s with mem := s.hidden.foldr (fun x m => memWrite m x.1 x.2) s.mem }

/-- A byte that an agent other than a storing core writes: it goes under a store that is still hidden there. -/
def putSeen (s : State) (k : Nat) (b : Byte) : State :=
  if s.hidden.any fun x => x.1 == k then
    { s with cores := s.cores.map fun c => { c with mem := { c.mem with port := patchUnder c.mem.port k b } } }
  else { s with mem := memWrite s.mem k b }

/-- Bytes stored by an agent other than a storing core, those in guard granules of these maps dropped (R45, R342). -/
def storeOver (s : State) (gs : List (Nat × BitVec 256)) (pl : Place) (off : Nat) (bs : List (Byte × Bool)) : State :=
  if s.hidden.isEmpty then s.storeBy gs pl off bs
  else bs.zipIdx.foldl (fun s x =>
    if x.1.2 && !guardedBy gs pl (off + x.2) then s.putSeen (pl.key (off + x.2)) x.1.1 else s) s

end State

/-! ## Idle bank-cycles of terrace 0 (R44) -/

/-- The lines of 64 bytes that a span of terrace 0 touches; line n lies in bank n mod 96 (R40). -/
def spanLines (off n : Nat) : List Nat :=
  if n = 0 then [] else (List.range ((off + n - 1) / 64 - off / 64 + 1)).map (off / 64 + ·)

/-- Where something that needs lines of a terrace 0 stands: each has been served, and the view holds the bytes that each gave;
or it waits, under a ticket (R44). -/
inductive BankTurn where
  | ready (view : State)
  | wait (s : State) (ticket : Nat)

namespace State

/-- The cycle just over left a bank of a terrace 0 idle. DESIGN CHOICE: log entry 66. -/
def bankIdle (s : State) (r b : Nat) : Bool :=
  match s.core? r with
  | some c => !(c.fe.fetch.held.1 + 1 == s.now && c.fe.fetch.held.2.contains b)
  | none => true

/-- A line has been asked for under a ticket. -/
def asked (s : State) (t : Nat) (l : Nat × Nat) : Bool := s.bankq.any fun a => a.id == t && a.rank == l.1 && a.line == l.2

/-- A line has been served under a ticket. -/
def wasServed (s : State) (t : Nat) (l : Nat × Nat) : Bool :=
  s.bankq.any fun a => a.id == t && a.rank == l.1 && a.line == l.2 && a.data.isSome

/-- Lines join the queue under a ticket, behind those asked for before. -/
def askLines (s : State) (t : Nat) (ls : List (Nat × Nat)) : State :=
  ({ s with bankq := s.bankq ++ ls.map fun l => { id := t, rank := l.1, line := l.2, data := none } } : State).bump

/-- The package as what holds a ticket reads it: each line with the bytes that its bank gave when it was served. -/
def viewOf (s : State) (t : Nat) : State :=
  let put (m : List Host.Cell) (a : BankAsk) : List Host.Cell :=
    if a.id = t then memWriteN m ((Place.t0 a.rank).key (64 * a.line)) (a.data.getD []) else m
  { s with mem := s.bankq.foldl put s.mem }

/-- Lines of terrace 0s, as rank and line, are needed by what holds this ticket, if it holds one: those not asked for yet join
the queue, and it waits until each has been served (R44). -/
def bankTurn (s : State) (ticket : Option Nat) (need : List (Nat × Nat)) : BankTurn :=
  let t := ticket.getD s.serial
  let new := (need.filter fun l => !s.asked t l).eraseDups
  if !new.isEmpty then .wait (s.askLines t new) t
  else if need.all (s.wasServed t) then .ready (s.viewOf t)
  else .wait s t

/-- Something still waits under a ticket. -/
def ticketHeld (s : State) (t : Nat) : Bool :=
  s.engines.any (fun (e : Engine) => match e.walk with | some w => w.ask == some t | none => false)
    || s.cores.any fun (c : Core) => c.mem.port.any (fun a => a.ask == some t) || c.tasks.writes.any fun w => w.ask == some t

/-- The idle bank-cycles of the cycle just over, which fetch took first, go to the lines of the queue in the order of their
requests, one line to a bank; a line is read as it is served (R44). -/
def serveBanks (s : State) : State :=
  let serve (acc : List BankAsk × List (Nat × Nat)) (a : BankAsk) : List BankAsk × List (Nat × Nat) :=
    let b := (a.rank, a.line % 96)
    if a.data.isNone && s.bankIdle b.1 b.2 && !acc.2.contains b then
      (acc.1 ++ [{ a with data := some (s.seen.bytesAt (.t0 a.rank) (64 * a.line) 64) }], b :: acc.2)
    else (acc.1 ++ [a], acc.2)
  { s with bankq := ((s.bankq.filter fun a => s.ticketHeld a.id).foldl serve ([], [])).1 }

end State

/-! ## Latches (R115, R153, R361) -/

/-- A latch of the word in focus, with its effect at issue + lat, under the guard maps of its issue (R342). -/
def Focus.latch (f : Focus) (cyc lat : Nat) (flags : BitVec 6) (guards : List (Nat × BitVec 256))
    (k : LatchKind) : Latch :=
  { strm := f.strm, pc := f.off, word := f.word, issue := cyc, base := cyc + lat, parts := BitVec.allOnes 8,
    flags := flags, guards := guards, kind := k }

namespace State

/-- Add a latch of the word in focus. -/
def latch (s : State) (lat : Nat) (k : LatchKind) (flags : BitVec 6 := 0) : State :=
  s.modMe fun c =>
    { c with pipe := { c.pipe with
        latches := c.pipe.latches ++ [s.focus.latch c.sp.cyc lat flags s.prot.guards k] } }

/-- Write a scalar register at issue + lat. -/
def latchS (s : State) (lat : Nat) (r : BitVec 6) (x : W64) : State := s.latch lat (.scal r x)

/-- Write an address register at issue + 1. -/
def latchA (s : State) (r : BitVec 5) (x : W64) : State := s.latch 1 (.addr r x)

/-- Ask for the banks of n lines of the own terrace 0 in this cycle (R42). -/
def request (s : State) (off n : Nat) : State :=
  s.modMe fun c =>
    let q : BankReq := { strm := s.focus.strm, issue := c.sp.cyc, firstLine := off / 64,
                         lines := if n = 0 then 0 else (off + n - 1) / 64 - off / 64 + 1 }
    { c with pipe := { c.pipe with reqs := c.pipe.reqs ++ [q] } }

end State

/-! ## Taking an exception (R141, R154, R357) -/

/-- The T0 tagged pointer of a rank and offset (R34, R35). -/
def t0Ptr (r off : Nat) : W64 := w64 (2 * 2 ^ 59 + r * 2 ^ 50 + off)

/-- The BARWIN pointer of a barrier (R35). -/
def barPtr (r b : Nat) : W64 := w64 (8 * 2 ^ 59 + r * 2 ^ 50 + 8 * b)

namespace State

/-- A precise trap of the word in focus: the word has no effect, its stream stands where it stood, and the trap
joins those of its cycle (R141). -/
def trap (s : State) (cause : Cause) (faddr faux : W64) : State :=
  s.modMe fun c =>
    let t : TrapRec := { src := .word s.focus.strm, cause := cause, faddr := faddr, faux := faux,
                         boundary := c.sp.cyc }
    { c.setStream s.focus.strm s.focus.old with pipe := { c.pipe with traps := c.pipe.traps ++ [t] } }

/-- FADDR and FAUX of a trap whose row says "word" (R154). -/
def trapWord (s : State) (cause : Cause) : State := s.trap cause (t0Ptr s.focus.rank s.focus.off) s.focus.word

/-- A trap that names a pointer, with FAUX the word. -/
def trapPtr (s : State) (cause : Cause) (ptr : W64) : State := s.trap cause ptr s.focus.word

end State

namespace Core

/-- The exception is taken: CAUSE, FADDR and FAUX are written (R120) and the core freezes at the boundary, from
which its frame is written (R357, R359). -/
def takeStop (c : Core) (now : Nat) (cause : Cause) (kind : FrameKind) (boundary : Nat) (faddr faux : W64)
    (record resumable : Bool) : Core :=
  { c with
    sp := { c.sp with cause := cause.code, faddr := faddr, faux := faux, cyc := boundary }
    stop := some { cause := cause, kind := kind, faddr := faddr, faux := faux, boundary := boundary, since := now,
                   cyc := c.sp.cyc, record := record, resumable := resumable, lostRel := false, bars := c.bars } }

/-- The core leaves a stop: nothing of the task stays in it (R116, R118, R170). -/
def leaveStop (c : Core) (now : Nat) : Core :=
  { c with
    stop := none, freeze := none, acc := AccStore.init, pipe := Pipe.init, fe := FrontEnd.init
    regs := { c.regs with fq := [] }
    mem := { c.mem with landings := [], guards := c.mem.guards.filter fun g => g.ctxid != c.ctxid }
    tasks := { c.tasks with run := none, lastEnd := some now } }

end Core

/-! ## Fault records (R350, R351) -/

/-- A record with every field zero. -/
def FaultRec.zero : FaultRec :=
  { cause := 0, src := 0, reason := 0, engine := 0xFF, held := false, lost := false, akind := 0, rank := 0, slot := 0,
    gen := 0, entry := 0, addr := 0, loops := Vector.replicate 4 0, remain := 0, detail := 0,
    due := 0 }

namespace State

/-- A record arises for a context: it waits to be written, with the generation current now (R352). Where 256 already
wait, what would give it has waited for room if it can (R350); the reporter keeps the others.
DESIGN CHOICE: log entry 6. -/
def record (s : State) (id : BitVec 16) (r : FaultRec) : State :=
  (s.modCtx id fun c =>
    { c with waiting := c.waiting ++ [{ r with gen := c.gen, due := s.now + Config.delay .record s.serial }] }).bump

/-- The current generation of a context. -/
def genOf (s : State) (id : BitVec 16) : BitVec 32 := match s.ctx? id with | some c => c.gen | none => 0

end State

/-- The context's 256 places for waiting records are taken (R350). -/
def Context.full (c : Context) : Bool := 256 ≤ c.waiting.length

/-- What leads from s to t adds a record for which the context has no place: its agent waits instead (R350). -/
def State.overflows (s t : State) (id : BitVec 16) : Bool :=
  match s.ctx? id, t.ctx? id with
  | some x, some y => x.full && decide (x.waiting.length < y.waiting.length)
  | _, _ => false

/-! ## Context attributes (R330) -/

namespace Context

def secure (c : Context) : Bool := c.record[0].getLsbD 0
def katBit (c : Context) : Bool := c.record[0].getLsbD 9
def debugBit (c : Context) : Bool := c.record[0].getLsbD 8
def ptroot (c : Context) : Nat := c.record[1].toNat
def fbuf (c : Context) : W64 := c.record[2]
/-- BUDGET; 0 means 65,536 cycles. -/
def budget (c : Context) : Nat := if bits c.record[3] 16 25 = 0 then 65536 else bits c.record[3] 16 25
/-- MAPDL in ticks of 10 ns; 0 means 10 ms. -/
def mapdl (c : Context) : Nat := if bits c.record[3] 0 16 = 0 then 1000000 else 10000 * bits c.record[3] 0 16
def frames (c : Context) : Nat := c.record[4].toNat
def fbufn (c : Context) : Nat := bits c.record[5] 0 32
def qbase (c : Context) (q : Fin 4) : W64 := c.record[6 + q.val]
/-- QLOG of a queue; 0 when the queue is disabled. -/
def qlog (c : Context) (q : Fin 4) : Nat := bits c.record[10] (4 * q.val) 4
/-- A rank lies in the core set. -/
def hasCore (c : Context) (r : Nat) : Bool :=
  r < 288 && ((c.record[11 + r / 64]?).getD 0).getLsbD (r % 64)
/-- The ranks of the core set, ascending. -/
def cores (c : Context) : List Nat := idxWhere 288 c.hasCore
/-- The frame block of a rank (R358). -/
def block (c : Context) (r : Nat) : Nat :=
  c.frames + 0x4200000 * ((List.range r).filter c.hasCore).length
/-- The frame of a task slot in a rank's block (R358). -/
def frameOf (c : Context) (r n : Nat) : Nat := c.block r + 0x200000 + 0x200000 * n
/-- What the record gives a core at a task boundary (R331). -/
def attr (c : Context) : CtxAttr := { kat := c.katBit, debug := c.debugBit, budget := c.budget }

end Context

/-- The ranks between which a card's cores lie (R337). -/
def Job.hi (j : Job) : Nat := bits j.card[3] 9 9
def Job.lo (j : Job) : Nat := bits j.card[3] 0 9

/-! ## Pending guard touches (R46) -/

namespace Core

/-- The guard touches that the bound context has pending on the core (R46). -/
def guard (c : Core) : Option GuardTouch := c.mem.guards.find? fun g => g.ctxid == c.ctxid

/-- The pending guard touches of a context are replaced. -/
def setGuard (c : Core) (id : BitVec 16) (g : Option GuardTouch) : Core :=
  { c with mem := { c.mem with guards := g.toList ++ c.mem.guards.filter fun x => x.ctxid != id } }

/-- A barrier event of the bound context: its pending guard touches are to be reported (R46). A core keeps the touches of each
context apart, and an event of one raises no touch of another. DEDUCED: log entry 37. -/
def barrierEvent (c : Core) : Core :=
  { c with mem := { c.mem with guards := c.mem.guards.map fun g => if g.ctxid == c.ctxid then { g with due := true } else g } }

end Core

/-! ## Barriers (R58, R117) -/

/-- 2^48 - 1. -/
def barMax : Nat := 2 ^ 48 - 1

namespace State

/-- An addition reaches its owning core's file, saturating and owing BARRIER if it carries; or the barrier image of
the rank's block in the frame area, marked PEND; or it is discarded with one record (R58, R358).
DESIGN CHOICE: log entry 6. -/
def addBarrier (s : State) (id : BitVec 16) (r b n : Nat) : State :=
  match s.core? r with
  | none => s
  | some c =>
    if c.ctx = some id then
      s.modCore? r fun c =>
        let v := ((c.bars.val[b]?).getD 0).toNat + n
        { c.barrierEvent with
            bars := { c.bars with
              val := c.bars.val.setIfInBounds b (BitVec.ofNat 48 (min v barMax))
              pend := if barMax < v then c.bars.pend.setIfInBounds b true else c.bars.pend } }
    else match s.ctx? id with
      | none => s
      | some x =>
        if x.hasCore r then
          let off := x.block r + 0x180000 + 8 * b
          let w := s.rawWord .lpddr off
          let v := bits w 0 48 + n
          let pend := w.getLsbD 63 || barMax < v
          s.putWord .lpddr off (w64 (min v barMax + (if pend then 2 ^ 63 else 0)))
        else s.record id { FaultRec.zero with src := 2, reason := 9, akind := 1, rank := r, addr := barPtr r b }

/-- The barrier value a context's COND or start condition meets: the core's own file, or the image (R256). -/
def barrierOf (s : State) (id : BitVec 16) (r b : Nat) : Nat :=
  match s.core? r with
  | none => 0
  | some c =>
    if c.ctx = some id then ((c.bars.val[b]?).getD 0).toNat
    else match s.ctx? id with
      | none => 0
      | some x => bits (s.rawWord .lpddr (x.block r + 0x180000 + 8 * b)) 0 48

/-- The barrier value at the start of the cycle, by which tests go (R17, R256). -/
def barrierStart (s : State) (id : BitVec 16) (r b : Nat) : Nat :=
  match s.core? r with
  | none => 0
  | some c => if c.ctx = some id then ((c.bars.start[b]?).getD 0).toNat else s.barrierOf id r b

/-- A subtraction from a barrier, or from its image; it never falls below zero (R18, R256). -/
def subBarrier (s : State) (id : BitVec 16) (r b n : Nat) : State :=
  match s.core? r with
  | none => s
  | some c =>
    if c.ctx = some id then
      s.modCore? r fun c =>
        { c with bars := { c.bars with
            val := c.bars.val.setIfInBounds b (BitVec.ofNat 48 (((c.bars.val[b]?).getD 0).toNat - n)) } }
    else match s.ctx? id with
      | none => s
      | some x =>
        let off := x.block r + 0x180000 + 8 * b
        let w := s.rawWord .lpddr off
        s.putWord .lpddr off (w64 (bits w 0 48 - n + (if w.getLsbD 63 then 2 ^ 63 else 0)))

end State

/-! ## Guard touches (R45, R46) -/

/-- A guard touch of a context on a core: the first is kept, further ones are counted. DEDUCED: log entry 37. -/
def Core.touch (c : Core) (id : BitVec 16) (faddr : W64) (source : Nat) (write : Bool) (bank : Nat) (rel : Bool) : Core :=
  let g := match c.mem.guards.find? fun x => x.ctxid == id with
    | none => { ctxid := id, faddr := faddr, source := source, write := write, bank := bank, extra := 0, lostRel := rel,
                due := false }
    | some g => { g with extra := min (g.extra + 1) 0xFFFFFFFF, lostRel := g.lostRel || rel }
  c.setGuard id (some g)

/-- FAUX of GUARD (R46). -/
def GuardTouch.faux (g : GuardTouch) : W64 :=
  w64 (g.extra * 2 ^ 32 + g.source * 2 ^ 16 + (if g.write then 2 ^ 13 else 0) + g.bank)

namespace State

/-- A word of a core touches guards in the own terrace 0, by the maps of its issue, if the span holds a guard byte: the
touch stands with the cycle until it is settled (R43, R46). -/
def wordTouch (s : State) (r : Nat) (gs : List (Nat × BitVec 256)) (strm : Stream) (issue off n : Nat)
    (write rel : Bool) : State :=
  match firstGuardBy gs (.t0 r) off n with
  | none => s
  | some g => s.modCore? r fun c =>
      { c with pipe := { c.pipe with
          touches := c.pipe.touches ++ [{ strm := strm, issue := issue, faddr := t0Ptr r g, write := write,
                                          bank := bankOf (.t0 r) g, rel := rel }] } }

/-- Touch guards on behalf of a core and a context, if the span holds a guard byte. DEDUCED: log entry 37. -/
def touchSpan (s : State) (r : Nat) (id : BitVec 16) (ptr : W64) (pl : Place) (off n source : Nat) (write rel : Bool) : State :=
  match s.firstGuard pl off n with
  | none => s
  | some g => s.modCore? r fun c => c.touch id (w64 (ptr.toNat / 2 ^ 50 * 2 ^ 50 + g)) source write (bankOf pl g) rel

end State

end Sys2Proof.Machine
end

