-- ==== Sys2Proof/Machine/Operands.lean ====
section
/-! DEFINITION. Operand forms: tagged pointers and what they name (R34-R38), effective pointers (R235), own-terrace
spans, conditions of branches, element fields. -/

namespace Sys2Proof.Machine

/-- What a tagged pointer names. -/
inductive Target where
  | place (p : Place) (off : Nat)
  | global (off : Nat)
  | remote (package off : Nat)
  | barrier (rank num : Nat)
deriving DecidableEq, Repr

/-- The columns of R37. -/
inductive Use where
  | tld | land | copySrc | copyDst | atom | signalBar | stamp | qalt
deriving DecidableEq, Repr

/-- SPACE, RANK and OFFSET of a tagged pointer (R34). -/
def ptrSpace (p : W64) : Nat := bits p 59 5
def ptrRank (p : W64) : Nat := bits p 50 9
def ptrOff (p : W64) : Nat := bits p 0 50

/-- The layer entry 4d + t - 1 that a T1-T4 pointer names; die = RANK div 72 (R35, R378). -/
def layerOf (p : W64) : Nat := 4 * (ptrRank p / 72) + (ptrSpace p - 3)

/-- The use is one that R37 admits in the space, for a task of the given rank and world. -/
def useOk (own : Nat) (secure : Bool) (u : Use) (p : W64) : Bool :=
  match ptrSpace p with
  | 1 => u != .tld && u != .signalBar
  | 2 => match u with
    | .tld | .qalt => ptrRank p == own
    | .land => ptrRank p != own
    | .copySrc | .copyDst | .stamp => true
    | .atom | .signalBar => false
  | 3 | 4 | 5 | 6 => u != .tld && u != .signalBar
  | 7 => u == .copySrc || u == .copyDst || u == .stamp
  | 8 => u == .signalBar
  | 10 => secure && (u == .land || u == .copySrc || u == .copyDst || u == .stamp)
  | _ => false

/-- What the n bytes at a pointer name, or nothing where R36 fails; sizes are the current sizes of the terraces. -/
def resolve (sizes : Vector Nat 16) (own : Nat) (secure : Bool) (u : Use) (p : W64) (n : Nat) : Option Target :=
  if !useOk own secure u p then none
  else match ptrSpace p with
    | 1 => if ptrRank p = 0 ∧ ptrOff p + n ≤ 2 ^ 50 then some (.global (ptrOff p)) else none
    | 2 => if ptrRank p < 288 ∧ ptrOff p + n ≤ t0Top then some (.place (.t0 (ptrRank p)) (ptrOff p)) else none
    | 3 | 4 | 5 | 6 =>
      if ptrRank p < 288 ∧ ptrOff p + n ≤ (sizes[layerOf p]?).getD 0 then
        some (.place (.layer (layerOf p)) (ptrOff p)) else none
    | 7 => if bits p 0 47 + n ≤ 2 ^ 47 then some (.remote (bits p 47 12) (bits p 0 47)) else none
    | 8 => if ptrRank p < 288 ∧ ptrOff p % 8 = 0 ∧ ptrOff p < 2048 then
        some (.barrier (ptrRank p) (ptrOff p / 8)) else none
    | 10 => if ptrRank p = 0 ∧ ptrOff p + n ≤ 2 ^ 50 then some (.place .host (ptrOff p)) else none
    | _ => none

/-- The span lies in a secure region of a terrace (R38). -/
def Protection.targetSecure (p : Protection) (t : Target) (n : Nat) : Bool :=
  match t with
  | .place (.t0 r) off => p.secureSpan (.t0 r) off n
  | .place (.layer e) off => p.secureSpan (.layer e) off n
  | _ => false

/-- The pointer with its OFFSET replaced by OFFSET + off, and whether the sum lies in 0 to 2^50 - 1 (R235). -/
def effPtr (p : W64) (off : Int) : W64 × Bool :=
  let sum : Int := (ptrOff p : Int) + off
  (w64 (p.toNat / 2 ^ 50 * 2 ^ 50 + (sum % 2 ^ 50).toNat), decide (0 ≤ sum ∧ sum < 2 ^ 50))

namespace State

/-- The tests of R36, R37 and R38 on the n bytes at a pointer, made at issue by the word in focus: what they name,
or the cause. -/
def access (s : State) (u : Use) (p : W64) (n : Nat) : Except Cause Target :=
  match resolve s.me.view.sizes s.focus.rank s.me.secure u p n with
  | none => .error .badspace
  | some t => if !s.me.secure && s.prot.targetSecure t n then .error .world else .ok t

/-- The access of an M word at aa + off (R235). DEDUCED: log entry 28. -/
def accessOff (s : State) (u : Use) (aa : W64) (off : Int) (n : Nat) : Except (Cause × W64) (Target × W64) :=
  let e := effPtr aa off
  if !e.2 then .error (.badspace, e.1)
  else match s.access u e.1 n with
    | .error c => .error (c, e.1)
    | .ok t => .ok (t, e.1)

/-- The offset of an own-terrace-0 span that must be a multiple of a unit and end below 0x17_F800 (R173, R221,
R228, R242), with the world test of R38. -/
def ownSpan (s : State) (p : W64) (unit n : Nat) : Except Cause Nat :=
  if ptrSpace p = 2 ∧ ptrRank p = s.focus.rank.val ∧ ptrOff p % unit = 0 ∧ ptrOff p + n ≤ t0Top then
    if !s.me.secure && s.prot.secureSpan (.t0 s.focus.rank) (ptrOff p) n then .error .world else .ok (ptrOff p)
  else .error .badspace

/-- The own terrace 0. -/
def own (s : State) : Place := .t0 s.focus.rank

end State

/-- The addition of R164: only the offset of the pointer changes. -/
def ptrAdd (p : W64) (d : Int) : W64 :=
  if ptrSpace p = 7 then w64 (p.toNat / 2 ^ 47 * 2 ^ 47 + (((bits p 0 47 : Int) + d) % 2 ^ 47).toNat)
  else w64 (p.toNat / 2 ^ 50 * 2 ^ 50 + (((bits p 0 50 : Int) + d) % 2 ^ 50).toNat)

/-- The conditions of BR and XBR (R147). -/
def condHolds (c : Cond) (a b : W64) : Bool :=
  match c with
  | .eq => a == b
  | .ne => a != b
  | .lt => a.slt b
  | .ge => !a.slt b
  | .ltn => a.ult b
  | .gen => !a.ult b
  | .always => true

/-- The bytes of a vector register, lowest first. -/
def VReg.bytes (v : VReg) : List Byte := v.toList

/-- A vector register of bytes; missing bytes are zero. -/
def VReg.ofBytes (bs : List Byte) : VReg :=
  let a := bs.toArray
  Vector.ofFn fun i => (a[i.val]?).getD 0

/-- A vector register from a function of the byte index. -/
def VReg.ofFn (f : Nat → Byte) : VReg := Vector.ofFn fun i => f i.val

/-- A mask from a function of the bit index. -/
def MReg.ofFn (f : Nat → Bool) : MReg := Vector.ofFn fun i => f i.val

/-- A byte of a vector register. -/
def vbyte (v : VReg) (j : Nat) : Byte := (v[j]?).getD 0

/-- A bit of a mask. -/
def mbit (m : MReg) (j : Nat) : Bool := (m[j]?).getD false

/-- A captured register with slice j taken from another (R10). -/
def takeSlice (j : Nat) (old new : VReg) : VReg := VReg.ofFn fun b => if b / 256 = j then vbyte new b else vbyte old b

/-- A captured mask with portion j taken from another. -/
def takePortion (j : Nat) (old new : MReg) : MReg := MReg.ofFn fun b => if b / 256 = j then mbit new b else mbit old b

/-- A register code beyond the file (R123). -/
def beyond (r : BitVec 9) : Bool := 384 ≤ r.toNat

/-- The 256 bytes of a mask: bit b is bit b mod 8 of byte b div 8 (R237). -/
def MReg.bytes (m : MReg) : List Byte :=
  (List.range 256).map fun j => BitVec.ofNat 8 ((List.range 8).foldl (fun acc i => acc + (if mbit m (8 * j + i) then 2 ^ i else 0)) 0)

/-- The mask of 256 bytes. -/
def MReg.ofBytes (bs : List Byte) : MReg :=
  let a := bs.toArray
  MReg.ofFn fun b => ((a[b / 8]?).getD 0).getLsbD (b % 8)

/-- The little-endian value of n bytes of a vector register from byte j. -/
def vvalue (v : VReg) (j n : Nat) : Nat := leValue ((List.range n).map fun i => vbyte v (j + i))

/-- The 20,480-byte image of a tile: element (i, j) at 5 (64i + j) (R216). -/
def Tile.image (t : Tile) : List Byte := t.toList.flatMap fun e => leBytes 5 e.toNat

/-- The tile of an image. -/
def Tile.ofImage (bs : List Byte) : Tile :=
  let a := bs.toArray
  Vector.ofFn fun i => BitVec.ofNat 40 (leValue ((List.range 5).map fun j => (a[5 * i.val + j]?).getD 0))

/-- An element of a tile. -/
def tileAt (t : Tile) (i j : Nat) : BitVec 40 := (t[64 * i + j]?).getD 0

end Sys2Proof.Machine
end

