-- ==== Sys2Proof/Machine/Translate.lean ====
section
/-! DEFINITION. Page tables and the map units: the four-level walk of GLOBAL addresses (R346-R348, R383, R401). -/

namespace Sys2Proof.Machine

/-- A level of the walk (R346): its number, the low index bit, the index bits, the size of a leaf page and the
alignment of the table it points to; 0 where there is none. -/
structure WalkLevel where
  level : Nat
  low : Nat
  width : Nat
  page : Nat
  next : Nat
deriving DecidableEq, Repr

/-- The four levels of R346. -/
def walkLevels : List WalkLevel :=
  [⟨1, 40, 10, 0, 8192⟩, ⟨2, 30, 10, 2 ^ 30, 4096⟩, ⟨3, 21, 9, 2 ^ 21, 256⟩, ⟨4, 16, 5, 2 ^ 16, 0⟩]

/-- A leaf that a walk has found. -/
structure Leaf where
  pte : W64
  level : Nat
deriving DecidableEq, Repr

/-- How a walk ends (R347): a leaf, or a REASON and whether a table's own read failed (AKIND 3 of R351). -/
inductive WalkEnd where
  | leaf (l : Leaf)
  | fail (reason : Nat) (table : Bool)
deriving DecidableEq, Repr

def pteAddr (e : W64) : Nat := bits e 8 42 * 256
def pteV (e : W64) : Bool := e.getLsbD 63
def pteLeaf (e : W64) : Bool := e.getLsbD 62
def pteW (e : W64) : Bool := e.getLsbD 61
def pteHost (e : W64) : Bool := e.getLsbD 60
def pteSysat (e : W64) : Bool := e.getLsbD 59 && e.getLsbD 60

/-- The page size of a leaf. -/
def Leaf.size (l : Leaf) : Nat := if l.level = 2 then 2 ^ 30 else if l.level = 3 then 2 ^ 21 else 2 ^ 16

/-- The highest live LPDDR region, if any (R383). -/
def Cairn.topRegion (c : Cairn) : Option Nat := (idxWhere 12 fun g => c.region.getLsbD g).getLast?

/-- The first byte of the package save area: the highest 16 GiB of the highest live region (R369, R383). -/
def Cairn.saveArea (c : Cairn) : Option Nat := c.topRegion.map fun g => (g + 1) * 2 ^ 36 - 2 ^ 34

/-- An LPDDR address lies beyond installed memory, in the save area, or in a region of the other world (REASON 4). -/
def State.forbidden (s : State) (secure : Bool) (pa : Nat) : Bool :=
  !(pa / 2 ^ 36 < 12 && s.cairn.region.getLsbD (pa / 2 ^ 36))
    || (match s.cairn.saveArea with | some a => a ≤ pa && pa < a + 2 ^ 34 | none => false)
    || s.prot.secureAt .lpddr pa != secure

/-- The entry is malformed at its level (REASON 3). -/
def badPte (l : WalkLevel) (e : W64) : Bool :=
  bits e 50 9 != 0 || bits e 0 8 != 0
    || (if pteLeaf e then l.level == 1 || pteAddr e % max l.page 1 != 0
        else l.level == 4 || bits e 59 3 != 0 || pteAddr e % max l.next 1 != 0)

/-- The walk over the levels left, from a table's address. -/
def State.walkFrom (s : State) (secure : Bool) (va : Nat) : List WalkLevel → Nat → WalkEnd
  | [], _ => .fail 3 false
  | l :: rest, table =>
    if s.forbidden secure table then .fail 4 true
    else
      let e := s.rawWord .lpddr (table + 8 * (va / 2 ^ l.low % 2 ^ l.width))
      if !pteV e then .fail 1 false
      else if badPte l e then .fail 3 false
      else if pteLeaf e then .leaf ⟨e, l.level⟩
      else s.walkFrom secure va rest (pteAddr e)

/-- The cached leaf that a map unit holds for an address (R348). -/
def State.cachedLeaf (s : State) (eng : Option (Fin 96)) (c : Context) (va : Nat) : Option TlbEntry :=
  match eng with
  | none => none
  | some e => s.engines[e].tlb.find? fun (t : TlbEntry) => t.ctxid == c.id && t.page == va / (Leaf.mk t.pte t.level).size

/-- The leaf for an address: a cached one, where the map unit holds one and uses it for this 64-byte granule, or the
walk's (R348). DESIGN CHOICE: log entry 15. -/
def State.leafFor (s : State) (eng : Option (Fin 96)) (c : Context) (va : Nat) : WalkEnd :=
  match s.cachedLeaf eng c va with
  | some t =>
    if Config.useCached s.serial (va / 64) then .leaf ⟨t.pte, t.level⟩ else s.walkFrom c.secure va walkLevels c.ptroot
  | none => s.walkFrom c.secure va walkLevels c.ptroot

/-- One byte's translation: where it lies, and the leaf; or the REASON (R347, in its order).
DESIGN CHOICE: log entry 17. -/
def State.translate (s : State) (eng : Option (Fin 96)) (c : Context) (va : Nat) (write : Bool) :
    Except (Nat × Bool) (Place × Nat × Leaf) :=
  match s.leafFor eng c va with
  | .fail r t => .error (r, t)
  | .leaf l =>
    let pa := pteAddr l.pte + va % l.size
    if pteHost l.pte then
      if write && !pteW l.pte then .error (2, false)
      else if Config.hostError s.serial pa then .error (5, false)
      else .ok (.host, pa, l)
    else if s.forbidden c.secure (pteAddr l.pte) then .error (4, false)
    else if write && !pteW l.pte then .error (2, false)
    else .ok (.lpddr, pa, l)

/-- A span of n bytes cut at the multiples of a unit: the address and length of each piece. -/
def cutSpan (unit va n : Nat) : List (Nat × Nat) :=
  if n = 0 then []
  else (List.range ((va + n - 1) / unit - va / unit + 1)).map fun j =>
    let a := max va ((va / unit + j) * unit)
    (a, min (va + n) ((va / unit + j + 1) * unit) - a)

/-- A span of n bytes cut at 64 KiB pages. -/
def pagePieces (va n : Nat) : List (Nat × Nat) := cutSpan 65536 va n

/-- The pieces that a map unit translates one by one: pages, or 64-byte granules where it holds a leaf of the span, since
each granule then goes by the old form of an entry or by the new one (R348). -/
def State.spanPieces (s : State) (eng : Option (Fin 96)) (c : Context) (va n : Nat) : List (Nat × Nat) :=
  if (pagePieces va n).any fun p => (s.cachedLeaf eng c p.1).isSome then cutSpan 64 va n else pagePieces va n

/-- The pieces of a span, translated; or the REASON and address of the first that fails. -/
def State.translateSpan (s : State) (eng : Option (Fin 96)) (c : Context) (va n : Nat) (write : Bool) :
    Except (Nat × Bool × Nat) (List (Place × Nat × Nat × Leaf)) :=
  (s.spanPieces eng c va n).foldr
    (fun p acc => match s.translate eng c p.1 write with
      | .error (r, t) => .error (r, t, p.1)
      | .ok (pl, pa, l) => match acc with
        | .error e => .error e
        | .ok ps => .ok ((pl, pa, p.2, l) :: ps)) (.ok [])

/-- The map unit keeps a leaf that translated (R348). DESIGN CHOICE: log entry 15. -/
def State.cacheLeaf (s : State) (eng : Option (Fin 96)) (id : BitVec 16) (va : Nat) (l : Leaf) : State :=
  match eng with
  | none => s
  | some e => s.modEngine e fun x =>
      let t : TlbEntry := { ctxid := id, page := va / l.size, pte := l.pte, level := l.level }
      { x with tlb := t :: x.tlb.filter fun o => !(o.ctxid == id && o.level == l.level && o.page == va / l.size) }

/-- The map unit of a core's GLOBAL accesses: streaming engine die x 24 + 16 + (index mod 4) (R348). -/
def mapUnit (r : Fin 288) : Fin 96 := ⟨r.val / 72 * 24 + 16 + r.val % 72 % 4, by omega⟩

/-- The bytes of a translated span. -/
def State.readPieces (s : State) (ps : List (Place × Nat × Nat × Leaf)) : List Byte :=
  ps.flatMap fun p => memReadN s.mem (p.1.key p.2.1) p.2.2.1

/-- Bytes stored over a translated span. -/
def State.writePieces (s : State) : List (Place × Nat × Nat × Leaf) → List (Byte × Bool) → State
  | [], _ => s
  | p :: ps, bs =>
    ({ s with mem := memWriteEn s.mem (p.1.key p.2.1) (bs.take p.2.2.1) } : State).writePieces ps (bs.drop p.2.2.1)

/-- Word i of the descriptor in a task slot (R12, R15). -/
def State.slotWord (s : State) (r n i : Nat) : W64 := s.rawWord (.t0 r) (t0Top + 64 * n + 8 * i)

/-- The stamp pointer of condition i of a slot's descriptor: ARGS + 8 x SEL (R13). -/
def State.stampPtr (s : State) (r n i : Nat) : W64 :=
  ptrAdd (s.slotWord r n 2) (8 * (bits (s.slotWord r n (3 + i)) 53 8 : Nat))

/-- Where the tables place a GLOBAL address of a context, whatever may be done there. -/
def State.whereIs (s : State) (c : Context) (va : Nat) : Option (Place × Nat) :=
  match s.walkFrom c.secure va walkLevels c.ptroot with
  | .leaf l => some (if pteHost l.pte then .host else .lpddr, pteAddr l.pte + va % l.size)
  | .fail .. => none

/-- Where the tables place the bytes of a GLOBAL span. -/
def State.physical (s : State) (c : Context) (va n : Nat) : List (Place × Nat × Nat) :=
  (pagePieces va n).filterMap fun p => (s.whereIs c p.1).map fun q => (q.1, q.2, p.2)

/-- The start condition i of a slot that waits is a GLOBAL stamp which lies within these bytes. -/
def State.stampWithin (s : State) (x : Context) (r k i : Nat) (pl : Place) (pa n : Nat) : Bool :=
  bits (s.slotWord r k (3 + i)) 62 2 == 2 && ptrSpace (s.stampPtr r k i) == 1
    && (match s.whereIs x (ptrOff (s.stampPtr r k i)) with
        | some (q, a) => q == pl && a < pa + n && pa < a + 8
        | none => false)

/-- An atomic that has made its read, of a word that lies within these bytes: it is to read again, since of all device
accesses an atomic is one (R244, R245). DEDUCED: log entry 30. -/
def State.halfWithin (s : State) (a : Access) (pl : Place) (pa n : Nat) : Bool :=
  a.first.isSome && ptrSpace a.ptr == 1
    && (match (s.ctx? a.ctxid).bind fun x => s.whereIs x (ptrOff a.ptr) with
        | some (q, b) => q == pl && b < pa + n && pa < b + 8
        | none => false)

/-- The slots of a core after a device write to these bytes (R17). -/
def State.dueStamps (s : State) (r : Nat) (c : Core) (pl : Place) (pa n : Nat) : Vector TaskSlot 32 :=
  match c.ctx.bind s.ctx? with
  | none => c.tasks.slots
  | some x => c.tasks.slots.mapIdx fun k t =>
      if (t.st == .waiting || t.st == .runnable) && t.mode == .fresh then
        { t with stampDue := t.stampDue.mapIdx fun i d => if s.stampWithin x r k i pl pa n then min d s.now else d }
      else t

/-- A device write to these bytes makes every start condition that names a GLOBAL word of theirs due for another read
(R17), and an atomic that has read a word of theirs reads it again (R244). -/
def State.noteWrite (s : State) (pl : Place) (pa n : Nat) : State :=
  { s with cores := s.cores.mapIdx fun r c =>
      { c with
        tasks := { c.tasks with slots := s.dueStamps r c pl pa n }
        mem := { c.mem with
          port := c.mem.port.map fun a => if s.halfWithin a pl pa n then { a with first := none } else a } } }

/-- A device write over a translated span (R17). -/
def State.noteWrites (s : State) (ps : List (Place × Nat × Nat × Leaf)) : State :=
  ps.foldl (fun s p => s.noteWrite p.1 p.2.1 p.2.2.1) s

end Sys2Proof.Machine
end

