-- ==== Sys2Proof/Machine/Control.lean ====
section
/-! DEFINITION. The C stream (R156-R181), and IDLE and LOOP of every stream (R137, R139, R166). Each meaning is that
of the word in focus at its issue cycle, after its stream has moved straight on. -/

namespace Sys2Proof.Machine

namespace State

/-- A scalar register read at issue (R156). -/
def rs (s : State) (r : BitVec 6) : W64 := s.me.readS r

/-- An address register read at issue. -/
def ra (s : State) (r : BitVec 5) : W64 := s.me.readA r

/-- The stream of the word in focus continues at word index tgt of its own section, from issue + 1 (R137). -/
def transfer (s : State) (st : Stream) (tgt : BitVec 17) : State :=
  s.modMe fun c => c.setStream st { off := 8 * tgt.toNat, base := c.sp.cyc + 1, fixed := false, parked := false }

/-- A read of the own terrace 0 by the word in focus: it asks for its banks and touches guards (R42, R45). -/
def ownRead (s : State) (off n : Nat) : State :=
  (s.request off n).wordTouch s.focus.rank s.prot.guards s.focus.strm s.cyc off n false false

/-- A scalar result of latency 1. -/
def alu (s : State) (sd : BitVec 6) (x : W64) : Out := .next (s.latchS 1 sd x)

end State

/-- 1 where a comparison holds, else 0 (R157). -/
def flag (b : Bool) : W64 := if b then 1 else 0

/-- IMM34 sign-extended (R159). -/
def imm34 (i : BitVec 34) : W64 := i.signExtend 64

/-- The 128-bit product's high half, signed and unsigned (R157). -/
def mulHigh (a b : W64) : W64 := BitVec.ofInt 64 ((a.toInt * b.toInt) / 2 ^ 64)
def mulHighN (a b : W64) : W64 := w64 (a.toNat * b.toNat / 2 ^ 64)

/-- Signed division (R158). -/
def divQ (a b : W64) : W64 :=
  if b = 0 then BitVec.allOnes 64
  else if a = w64 (2 ^ 63) ∧ b = BitVec.allOnes 64 then w64 (2 ^ 63)
  else BitVec.ofInt 64 (a.toInt.tdiv b.toInt)
def divR (a b : W64) : W64 :=
  if b = 0 then a
  else if a = w64 (2 ^ 63) ∧ b = BitVec.allOnes 64 then 0
  else BitVec.ofInt 64 (a.toInt.tmod b.toInt)

/-- Unsigned division (R158). -/
def divnQ (a b : W64) : W64 := if b = 0 then BitVec.allOnes 64 else w64 (a.toNat / b.toNat)
def divnR (a b : W64) : W64 := if b = 0 then a else w64 (a.toNat % b.toNat)

/-- sa with bits pos to pos + len - 1 replaced by the low bits of sb (R161). -/
def insertBits (a b : W64) (pos len : Nat) : W64 :=
  let m : W64 := w64 ((2 ^ len - 1) * 2 ^ pos)
  (a &&& ~~~m) ||| ((b <<< pos) &&& m)

/-! ## Every class -/

/-- IDLE: the stream's next word issues COUNT cycles later, or never (R137, R139). -/
def execIdle (st : Stream) (count : BitVec 32) (s : State) : Out :=
  .next (s.modMe fun c =>
    let p := c.stream st
    c.setStream st
      (if count = BitVec.allOnes 32 then { p with parked := true } else { p with base := p.base + count.toNat }))

/-- LOOP (R166, R167). -/
def execLoop (st : Stream) (lc : BitVec 2) (count : LoopCount) (tgt : BitVec 17) (s : State) : Out :=
  let l := s.me.readL st lc
  let n : BitVec 32 := match count with | .imm c => c.setWidth 32 | .reg a => (s.rs a).setWidth 32
  if l = 0 then
    if n.toNat ≤ 1 then .next s
    else .next ((s.modMe fun c => c.putL st lc (n - 1)).transfer st tgt)
  else
    let s := s.modMe fun c => c.putL st lc (l - 1)
    if l = 1 then .next s else .next (s.transfer st tgt)

/-! ## Register arithmetic (R157, R158) -/

def execAdd (d a b : BitVec 6) (s : State) : Out := s.alu d (s.rs a + s.rs b)
def execSub (d a b : BitVec 6) (s : State) : Out := s.alu d (s.rs a - s.rs b)
def execMul (d a b : BitVec 6) (s : State) : Out := .next (s.latchS 3 d (s.rs a * s.rs b))
def execMulh (d a b : BitVec 6) (s : State) : Out := .next (s.latchS 3 d (mulHigh (s.rs a) (s.rs b)))
def execMulhn (d a b : BitVec 6) (s : State) : Out := .next (s.latchS 3 d (mulHighN (s.rs a) (s.rs b)))
def execDiv (d a b : BitVec 6) (s : State) : Out := .next (s.latchS 12 d (divQ (s.rs a) (s.rs b)))
def execDivn (d a b : BitVec 6) (s : State) : Out := .next (s.latchS 12 d (divnQ (s.rs a) (s.rs b)))
def execRem (d a b : BitVec 6) (s : State) : Out := .next (s.latchS 12 d (divR (s.rs a) (s.rs b)))
def execRemn (d a b : BitVec 6) (s : State) : Out := .next (s.latchS 12 d (divnR (s.rs a) (s.rs b)))
def execAnd (d a b : BitVec 6) (s : State) : Out := s.alu d (s.rs a &&& s.rs b)
def execOr (d a b : BitVec 6) (s : State) : Out := s.alu d (s.rs a ||| s.rs b)
def execXor (d a b : BitVec 6) (s : State) : Out := s.alu d (s.rs a ^^^ s.rs b)
def execAndn (d a b : BitVec 6) (s : State) : Out := s.alu d (s.rs a &&& ~~~s.rs b)
def execShl (d a b : BitVec 6) (s : State) : Out := s.alu d (s.rs a <<< bits (s.rs b) 0 6)
def execShr (d a b : BitVec 6) (s : State) : Out := s.alu d (s.rs a >>> bits (s.rs b) 0 6)
def execSra (d a b : BitVec 6) (s : State) : Out := s.alu d ((s.rs a).sshiftRight (bits (s.rs b) 0 6))
def execRol (d a b : BitVec 6) (s : State) : Out := s.alu d ((s.rs a).rotateLeft (bits (s.rs b) 0 6))
def execMin (d a b : BitVec 6) (s : State) : Out :=
  s.alu d (if (s.rs a).slt (s.rs b) then s.rs a else s.rs b)
def execMax (d a b : BitVec 6) (s : State) : Out :=
  s.alu d (if (s.rs a).slt (s.rs b) then s.rs b else s.rs a)
def execMinn (d a b : BitVec 6) (s : State) : Out :=
  s.alu d (if (s.rs a).ult (s.rs b) then s.rs a else s.rs b)
def execMaxn (d a b : BitVec 6) (s : State) : Out :=
  s.alu d (if (s.rs a).ult (s.rs b) then s.rs b else s.rs a)
def execSeq (d a b : BitVec 6) (s : State) : Out := s.alu d (flag (s.rs a == s.rs b))
def execSne (d a b : BitVec 6) (s : State) : Out := s.alu d (flag (s.rs a != s.rs b))
def execSlt (d a b : BitVec 6) (s : State) : Out := s.alu d (flag ((s.rs a).slt (s.rs b)))
def execSltn (d a b : BitVec 6) (s : State) : Out := s.alu d (flag ((s.rs a).ult (s.rs b)))
def execSel (d a b c : BitVec 6) (s : State) : Out := s.alu d (if s.rs c = 0 then s.rs b else s.rs a)

/-! ## Immediates (R159, R160) -/

def execAddi (d a : BitVec 6) (i : BitVec 34) (s : State) : Out := s.alu d (s.rs a + imm34 i)
def execAndi (d a : BitVec 6) (i : BitVec 34) (s : State) : Out := s.alu d (s.rs a &&& imm34 i)
def execOri (d a : BitVec 6) (i : BitVec 34) (s : State) : Out := s.alu d (s.rs a ||| imm34 i)
def execXori (d a : BitVec 6) (i : BitVec 34) (s : State) : Out := s.alu d (s.rs a ^^^ imm34 i)
def execSlti (d a : BitVec 6) (i : BitVec 34) (s : State) : Out := s.alu d (flag ((s.rs a).slt (imm34 i)))
def execShli (d a : BitVec 6) (i : BitVec 34) (s : State) : Out := s.alu d (s.rs a <<< bits (imm34 i) 0 6)
def execShri (d a : BitVec 6) (i : BitVec 34) (s : State) : Out := s.alu d (s.rs a >>> bits (imm34 i) 0 6)
def execSrai (d a : BitVec 6) (i : BitVec 34) (s : State) : Out := s.alu d ((s.rs a).sshiftRight (bits (imm34 i) 0 6))
def execLi (d : BitVec 6) (i : BitVec 34) (s : State) : Out := s.alu d (imm34 i)
def execLih (d a : BitVec 6) (i : BitVec 34) (s : State) : Out := s.alu d (i ++ (s.rs a).extractLsb' 0 30)

/-! ## Bit fields (R161) -/

def execClz (d a : BitVec 6) (s : State) : Out := s.alu d (w64 (leadZeros 64 (s.rs a).toNat))
def execCtz (d a : BitVec 6) (s : State) : Out := s.alu d (w64 (trailZeros 64 (s.rs a).toNat))
def execPopc (d a : BitVec 6) (s : State) : Out := s.alu d (w64 (oneBits 64 (s.rs a).toNat))
def execBext (d a : BitVec 6) (pos : BitVec 6) (len : BitVec 7) (s : State) : Out :=
  s.alu d (w64 (bits (s.rs a) pos.toNat len.toNat))
def execBins (d a b : BitVec 6) (pos : BitVec 6) (len : BitVec 7) (s : State) : Out :=
  s.alu d (insertBits (s.rs a) (s.rs b) pos.toNat len.toNat)

/-! ## Tagged pointers (R162-R164) -/

/-- The pointer AMK builds (R163). -/
def makePtr (spc : BitVec 5) (a b : W64) : W64 :=
  if spc = 7 then spc ++ a.extractLsb' 0 12 ++ b.extractLsb' 0 47 else spc ++ a.extractLsb' 0 9 ++ b.extractLsb' 0 50

def execAmk (d : BitVec 5) (a b : BitVec 6) (spc : BitVec 5) (s : State) : Out :=
  .next (s.latchA d (makePtr spc (s.rs a) (s.rs b)))
def execAadd (d a : BitVec 5) (b : BitVec 6) (s : State) : Out := .next (s.latchA d (ptrAdd (s.ra a) (s.rs b).toInt))
def execAaddi (d a : BitVec 5) (i : BitVec 34) (s : State) : Out := .next (s.latchA d (ptrAdd (s.ra a) i.toInt))
def execAmovAddr (d a : BitVec 5) (s : State) : Out := .next (s.latchA d (s.ra a))
def execAmovFromScalar (d : BitVec 5) (a : BitVec 6) (s : State) : Out := .next (s.latchA d (s.rs a))
def execAmovToScalar (d : BitVec 6) (a : BitVec 5) (s : State) : Out := s.alu d (s.ra a)
def execAfldSpace (d : BitVec 6) (a : BitVec 5) (s : State) : Out := s.alu d (w64 (ptrSpace (s.ra a)))
def execAfldRank (d : BitVec 6) (a : BitVec 5) (s : State) : Out := s.alu d (w64 (ptrRank (s.ra a)))
def execAfldOffset (d : BitVec 6) (a : BitVec 5) (s : State) : Out := s.alu d (w64 (ptrOff (s.ra a)))

/-! ## Flow (R165, R168-R172) -/

/-- BR transfers the C stream where its condition holds (R165). -/
def execBr (c : Cond) (a b : BitVec 6) (tgt : BitVec 17) (s : State) : Out :=
  if condHolds c (s.rs a) (s.rs b) then .next (s.transfer .c tgt) else .next s

/-- XBR reads its saddle record at issue, taken or not, and transfers all four streams four cycles later (R138,
R168). -/
def execXbr (c : Cond) (a b : BitVec 6) (soff : BitVec 24) (s : State) : Out :=
  let off := s.me.code + soff.toNat
  if s.me.fe.xbr.isSome then .next (s.trapWord .illop)
  else if t0Top < off + 16 then .next (s.trapPtr .badspace (t0Ptr s.focus.rank off))
  else if !s.me.secure && s.prot.secureSpan s.own off 16 then .next (s.trapPtr .world (t0Ptr s.focus.rank off))
  else
    let t : Vector Nat 4 := Vector.ofFn fun i => leValue (s.bytesAt s.own (off + 4 * i.val) 4)
    if t.any fun x => x % 8 != 0 || 522240 ≤ x then .next (s.trapWord .illop)
    else
      let s := s.ownRead off 16
      if condHolds c (s.rs a) (s.rs b) then
        .next (s.modMe fun k => { k with fe := { k.fe with xbr := some { at_ := k.sp.cyc + 4, tgt := t } } })
      else .next s

/-- TEND: no word issues after this cycle, a pending XBR transfer does not happen, and the task drains (R169,
R170). -/
def execTend (s : State) : Out :=
  .next (s.modMe fun c => { c with fe := { c.fe with tended := some c.sp.cyc, xbr := none } })

/-- TRAP: SWTRAP, with the stream left after the word (R171, R357). -/
def execTrap (code : BitVec 32) (s : State) : Out :=
  let pos := s.me.stream .c
  .next ((s.trap .swtrap (t0Ptr s.focus.rank s.focus.off) (code.setWidth 64)).modMe fun c => c.setStream .c pos)

/-- The frame that a0 names, by the tests of R366: the slot n whose frame it is. -/
def State.rftSlot (s : State) : Option (Fin 32) :=
  let a0 := s.ra 0
  match s.me.ctx, s.ctx? s.me.ctxid with
  | some id, some x =>
    if ptrSpace a0 = 1 ∧ ptrRank a0 = 0 then
      match s.translate (some (mapUnit s.focus.rank)) x (ptrOff a0) false with
      | .ok (.lpddr, pa, _) =>
        (List.finRange 32).find? fun n =>
          x.frameOf s.focus.rank n == pa
          && (let h := s.rawWord .lpddr pa
              h.getLsbD 0 && h.extractLsb' 48 16 == id && h.getLsbD 5 && bits h 6 2 == 0)
          && !(s.rawWord .lpddr (pa + 128)).getLsbD 8
          && s.me.tasks.slots[n].st == .suspended
      | _ => none
    else none
  | _, _ => none

/-- RFT: the resume task ends as by TEND and the framed task takes its slot at its end cycle (R172, R366). The core has
frozen while the frame pointer was translated (`State.holdWord`). -/
def execRft (s : State) : Out :=
  match s.rftSlot with
  | none => .next (s.trapWord .illop)
  | some n =>
    .next (s.modMe fun c => { c with fe := { c.fe with tended := some c.sp.cyc, xbr := none, rft := some n } })

/-! ## Tasks and barriers (R173-R178) -/

/-- TASKQ reads its descriptor at issue; the target is tested at issue + 3 (R173). -/
def execTaskq (d : BitVec 6) (a : BitVec 5) (b : BitVec 6) (s : State) : Out :=
  match s.ownSpan (s.ra a) 64 64 with
  | .error c => .next (s.trapPtr c (s.ra a))
  | .ok off =>
    let desc := (List.range 8).map fun i => w64 (leValue (s.bytesAt s.own (off + 8 * i) 8))
    .next ((s.ownRead off 64).latch 3 (.taskqTest d (s.rs b) desc s.preemptAt.isSome))

/-- An access of the core's memory port writes. -/
def AccKind.writes : AccKind → Bool
  | .read .. | .fence .. => false
  | _ => true

/-- The access is one of the running task's. -/
def Core.owns (c : Core) (a : Access) : Bool := a.slot == c.slot && a.ctxid == c.ctxid && !a.ended

/-- The writes that a BPOST or a TASKQ issued at a cycle releases (R177, R309): those of the running task, issued
earlier, that still stand in the core's memory port. Of a task that runs again from cycle 0 (R367) the writes of its first
run that stand there are released by task cycle like the rest. DESIGN CHOICE: log entry 85. -/
def Core.writesAhead (c : Core) (cyc : Nat) : List Nat :=
  (c.mem.port.filter fun x =>
    c.owns x && x.kind.writes && decide (x.issue < cyc)).map (·.id)

/-- BPOST (R176, R177): the addition travels to the owning core after the writes it releases. -/
def execBpost (a : BitVec 5) (b : BitVec 6) (s : State) : Out :=
  match resolve s.me.view.sizes s.focus.rank s.me.secure .signalBar (s.ra a) 8 with
  | some (.barrier r n) =>
    if !s.me.secure && (match s.core? r with | some c => c.world | none => false) then
      .next (s.trapPtr .world (s.ra a))
    else
      let far := if r = s.focus.rank.val then 0 else 1 + Config.delay .bpost s.serial
      let add : BarrierAdd :=
        { id := s.serial, rank := r, bar := n, count := (s.rs b).toNat, ctxid := s.me.ctxid,
          due := s.now + 1 + far, after := s.me.writesAhead s.cyc, from_ := some s.focus.rank, chain := none }
      .next ({ s with adds := s.adds ++ [add] } : State).bump
  | _ => .next (s.trapPtr .badspace (s.ra a))

/-- BREAD: the barrier as it stood at the start of the issue cycle (R178). -/
def execBread (d : BitVec 6) (bar : BitVec 8) (s : State) : Out :=
  s.alu d ((s.me.bars.start[bar.toNat]'bar.isLt).setWidth 64)

/-! ## Format queue, special registers, the cairn (R179-R181) -/

/-- FMT (R118, R179): the X stream's pop of the cycle has already been performed. The push is noted until the cycle is
settled, since a word that loses its banks puts its format word back (R43). -/
def execFmt (a : BitVec 6) (s : State) : Out :=
  if 16 ≤ s.me.regs.fq.length then .next (s.trap .fmtunder 0 1)
  else .next (s.modMe fun c =>
    let u : IssueUndo :=
      { strm := .c, issue := c.sp.cyc, popped := none, bound := none, pushed := some s.focus.old }
    { c with
      regs := { c.regs with fq := c.regs.fq ++ [c.readS a] }
      pipe := { c.pipe with undo := c.pipe.undo ++ [u] } })

/-- A special register as it stands (R120, R121). -/
def State.readSpecial (s : State) (n : BitVec 6) : Option W64 :=
  let c := s.me
  match n.toNat with
  | 0 => some (w64 c.sp.cyc)
  | 1 => some s.tick
  | 2 => some (w64 s.focus.rank)
  | 3 => some (w64 (c.ctxid.toNat * 2 ^ 16 + (if c.secure then 256 else 0) + c.ctxSlot.toNat))
  | 4 => some (c.view.version.setWidth 64)
  | 5 => some (c.sp.taskv.setWidth 64)
  | 6 => some (w64 c.sp.frz)
  | 7 => some (c.sp.fpf.setWidth 64)
  | 8 => some (c.sp.cause.setWidth 64)
  | 9 => some c.sp.faddr
  | 10 => some c.sp.faux
  | 11 => some c.sp.tmcmp
  | _ => none

def execSrd (d spr : BitVec 6) (s : State) : Out :=
  match s.readSpecial spr with
  | none => .next (s.trapWord .illreg)
  | some v => s.alu d v

/-- SWR (R180): FPF and TMCMP are written at issue + 1; the read-only registers discard the write. -/
def execSwr (a spr : BitVec 6) (s : State) : Out :=
  if 12 ≤ spr.toNat then .next (s.trapWord .illreg)
  else if spr = 7 ∨ spr = 11 then .next (s.latch 1 (.special spr (s.rs a)))
  else .next s

/-- MAPACK acknowledges the core's own view for its context, within 64 cycles (R181). DESIGN CHOICE: log entry 6. -/
def execMapack (s : State) : Out :=
  let due := s.now + Config.delay .mapack s.serial % 65
  .next ({ s with acks := s.acks ++ [(s.me.ctxid, s.me.view.version, due)] } : State).bump

end Sys2Proof.Machine
end

