-- ==== Sys2Proof/Machine/Float.lean ====
section
/-! DEFINITION. Number formats, rounding and exact sums (R87-R104, R108). A value is a NaN, an infinity, a signed
zero or an exact nonzero dyadic number m x 2^e. -/

namespace Sys2Proof.Machine

/-- A decoded number. -/
inductive FVal where
  | nan (signalling : Bool)
  | inf (neg : Bool)
  | zero (neg : Bool)
  | fin (m : Int) (e : Int)
deriving DecidableEq, Repr

/-- How a format uses its top exponent: infinity and NaNs, NaN only at the top code, or numbers only (R87). -/
inductive TopUse where
  | ieee | nanOnly | numbers
deriving DecidableEq, Repr

/-- A floating-point format (R87): exponent bits, fraction bits, bias, the use of its top exponent, and its canonical
NaN (R88). -/
structure Fmt where
  ebits : Nat
  fbits : Nat
  bias : Nat
  top : TopUse
  qnan : Nat
deriving DecidableEq, Repr

def fmtF32 : Fmt := ⟨8, 23, 127, .ieee, 0x7FC00000⟩
def fmtW40 : Fmt := ⟨8, 31, 127, .ieee, 0x7FC0000000⟩
def fmtF16 : Fmt := ⟨5, 10, 15, .ieee, 0x7E00⟩
def fmtBF16 : Fmt := ⟨8, 7, 127, .ieee, 0x7FC0⟩
def fmtE4M3 : Fmt := ⟨4, 3, 7, .nanOnly, 0x7F⟩
def fmtE5M2 : Fmt := ⟨5, 2, 15, .ieee, 0x7E⟩
/-- E2M1 has no NaN; a NaN converts to 0 (R100). -/
def fmtE2M1 : Fmt := ⟨2, 1, 1, .numbers, 0⟩

/-- Bits of the format. -/
def Fmt.width (f : Fmt) : Nat := 1 + f.ebits + f.fbits
/-- The exponent of the least normal number. -/
def Fmt.emin (f : Fmt) : Int := 1 - f.bias
/-- The largest finite code without its sign. -/
def Fmt.maxCode (f : Fmt) : Nat :=
  match f.top with
  | .ieee => (2 ^ f.ebits - 1) * 2 ^ f.fbits - 1
  | .nanOnly => 2 ^ (f.ebits + f.fbits) - 2
  | .numbers => 2 ^ (f.ebits + f.fbits) - 1
def Fmt.infCode (f : Fmt) : Nat := (2 ^ f.ebits - 1) * 2 ^ f.fbits
/-- The sign bit's weight. -/
def Fmt.signBit (f : Fmt) : Nat := 2 ^ (f.ebits + f.fbits)
/-- A code with its sign. -/
def Fmt.withSign (f : Fmt) (neg : Bool) (c : Nat) : Nat := if neg then f.signBit + c else c

/-- A finite magnitude code's value as mantissa and exponent. -/
def Fmt.mag (f : Fmt) (c : Nat) : Nat × Int :=
  let e := c / 2 ^ f.fbits
  let m := c % 2 ^ f.fbits
  if e = 0 then (m, f.emin - f.fbits) else (2 ^ f.fbits + m, (e : Int) - f.bias - f.fbits)

/-- A signed dyadic value; zero keeps its sign. -/
def FVal.ofMag (neg : Bool) (m : Nat) (e : Int) : FVal :=
  if m = 0 then .zero neg else .fin (if neg then -(m : Int) else m) e

/-- The value of a code (R87, R88). FP8 NaNs are all quiet. -/
def Fmt.decode (f : Fmt) (code : Nat) : FVal :=
  let c := code % 2 ^ f.width
  let neg := f.signBit ≤ c
  let u := c % f.signBit
  match f.top with
  | .ieee =>
    if u < f.infCode then let p := f.mag u; .ofMag neg p.1 p.2
    else if u = f.infCode then .inf neg
    else .nan (f.width != 8 && !u.testBit (f.fbits - 1))
  | .nanOnly => if u = f.signBit - 1 then .nan false else let p := f.mag u; .ofMag neg p.1 p.2
  | .numbers => let p := f.mag u; .ofMag neg p.1 p.2

/-- A positive magnitude between m x 2^e and (m + 1) x 2^e: m itself, or strictly above it where sticky. -/
structure Mag where
  m : Nat
  e : Int
  sticky : Bool
deriving DecidableEq, Repr

/-- Whether a rounding away from zero is due: the mode, the sign, the last kept bit, and the rest against a half
(R95): below, at or above it, or nothing left. -/
def roundUp (mode : RMode) (neg odd : Bool) (rest : Ordering) (exact : Bool) : Bool :=
  match mode with
  | .rn => rest == .gt || (rest == .eq && odd)
  | .rz => false
  | .ru => !neg && !exact
  | .rd => neg && !exact

/-- A magnitude rounded to a multiple of 2^q: the multiple, and whether it is exact. -/
def Mag.toQuantum (x : Mag) (q : Int) (mode : RMode) (neg : Bool) : Nat × Bool :=
  if q ≤ x.e then (x.m * 2 ^ (x.e - q).toNat, !x.sticky)
  else
    let d := (q - x.e).toNat
    let n := x.m / 2 ^ d
    let r := x.m % 2 ^ d
    let rest : Ordering :=
      if 2 * r = 2 ^ d then (if x.sticky then .gt else .eq) else if 2 * r < 2 ^ d then .lt else .gt
    let exact := r == 0 && !x.sticky
    (if roundUp mode neg (n % 2 == 1) rest exact then n + 1 else n, exact)

/-- The overflowed result (R97). -/
def Fmt.overflow (f : Fmt) (mode : RMode) (neg sat : Bool) : Nat × FlagSet :=
  let toMax := sat || f.top != .ieee ||
    (match mode with | .rn => false | .rz => true | .ru => neg | .rd => !neg)
  (f.withSign neg (if toMax then f.maxCode else f.infCode), fOF ||| fNX)

/-- round_F of a nonzero magnitude with a sign (R96, R97). -/
def Fmt.round (f : Fmt) (mode : RMode) (sat neg : Bool) (x : Mag) : Nat × FlagSet :=
  let top : Int := (Nat.log2 x.m : Int) + x.e
  let q : Int := max (top - f.fbits) (f.emin - f.fbits)
  let r := x.toQuantum q mode neg
  let big := f.mag f.maxCode
  -- both sides scaled by the same power of two
  let lo : Int := min q big.2
  if big.1 * 2 ^ (big.2 - lo).toNat < r.1 * 2 ^ (q - lo).toNat then f.overflow mode neg sat
  else if r.1 = 0 then (f.withSign neg 0, fIf (!r.2) fNX)
  else
    let e' : Int := (Nat.log2 r.1 : Int) + q
    let code :=
      if e' < f.emin then r.1
      else (e' + f.bias).toNat * 2 ^ f.fbits + (r.1 * 2 ^ (q - (e' - f.fbits)).toNat / 2 ^ ((e' - f.fbits) - q).toNat - 2 ^ f.fbits)
    (f.withSign neg code, fIf (!r.2) fNX ||| fIf (!r.2 && e' < f.emin) fUF)

/-- A signed exact number rounded. -/
def Fmt.roundInt (f : Fmt) (mode : RMode) (sat : Bool) (m e : Int) : Nat × FlagSet :=
  f.round mode sat (m < 0) ⟨m.natAbs, e, false⟩

/-- A value put into a format: rounded if finite; NaN canonical; an infinity saturates where the format has none or
.sat is named (R88, R96, R100). NV is set for a signalling NaN, and for any NaN that E2M1 receives. -/
def Fmt.put (f : Fmt) (mode : RMode) (sat : Bool) : FVal → Nat × FlagSet
  | .nan sig => (f.qnan, fIf (sig || f.top == .numbers) fNV)
  | .inf neg =>
    if sat || f.top != .ieee then (f.withSign neg f.maxCode, fOF ||| fNX) else (f.withSign neg f.infCode, 0)
  | .zero neg => (f.withSign neg 0, 0)
  | .fin m e => f.roundInt mode sat m e

/-- A value is negative, zeros by their sign. -/
def FVal.isNeg : FVal → Bool
  | .nan _ => false
  | .inf n => n
  | .zero n => n
  | .fin m _ => m < 0

/-- The value with its sign inverted. -/
def FVal.neg : FVal → FVal
  | .nan s => .nan s
  | .inf n => .inf !n
  | .zero n => .zero !n
  | .fin m e => .fin (-m) e

def FVal.isNan : FVal → Bool
  | .nan _ => true
  | _ => false

def FVal.isSignalling : FVal → Bool
  | .nan s => s
  | _ => false

/-- The product of R105, and whether it is invalid (NV): a signalling NaN, or an infinity times a zero. -/
def FVal.mul (a b : FVal) : FVal × FlagSet :=
  let sig := fIf (a.isSignalling || b.isSignalling) fNV
  match a, b with
  | .nan _, .inf _ | .nan _, .zero _ | .nan _, .fin _ _ | .nan _, .nan _ => (.nan false, sig)
  | .inf _, .nan _ | .zero _, .nan _ | .fin _ _, .nan _ => (.nan false, sig)
  | .inf _, .zero _ | .zero _, .inf _ => (.nan false, fNV)
  | .inf m, .inf n => (.inf (m != n), 0)
  | .inf m, .fin x _ => (.inf (m != decide (x < 0)), 0)
  | .fin x _, .inf n => (.inf (n != decide (x < 0)), 0)
  | .zero m, .zero n => (.zero (m != n), 0)
  | .zero m, .fin x _ => (.zero (m != decide (x < 0)), 0)
  | .fin x _, .zero n => (.zero (n != decide (x < 0)), 0)
  | .fin x e, .fin y f => (.fin (x * y) (e + f), 0)

/-- The exact sum of the finite terms: a mantissa and the least exponent among them. -/
def sumFin : List FVal → Int × Int
  | [] => (0, 0)
  | .fin m e :: rest =>
    let r := sumFin rest
    if r.1 = 0 then (m, e)
    else if e ≤ r.2 then (m + r.1 * 2 ^ (r.2 - e).toNat, e) else (m * 2 ^ (e - r.2).toNat + r.1, r.2)
  | _ :: rest => sumFin rest

/-- exact_sum (R104): the combined value, and the NV its rules set. DEDUCED: log entry 23. -/
def exactSum (terms : List FVal) (mode : RMode) : FVal × FlagSet :=
  let sig := fIf (terms.any FVal.isSignalling) fNV
  if terms.any FVal.isNan then (.nan false, sig)
  else
    let pos := terms.any fun t => t == .inf false
    let neg := terms.any fun t => t == .inf true
    if pos && neg then (.nan false, fNV)
    else if pos then (.inf false, 0)
    else if neg then (.inf true, 0)
    else
      let r := sumFin terms
      if r.1 = 0 then (.zero (terms.all (fun t => t == .zero true) || mode == .rd), 0)
      else (.fin r.1 r.2, 0)

/-- The combined value of terms and its single rounding. -/
def roundSum (f : Fmt) (mode : RMode) (terms : List FVal) : Nat × FlagSet :=
  let s := exactSum terms mode
  let r := f.put mode false s.1
  (r.1, r.2 ||| s.2)

/-- A sum of products and terms, with the flags of the products (R104, R107). -/
def roundTerms (f : Fmt) (mode : RMode) (terms : List (FVal × FlagSet)) : Nat × FlagSet :=
  let r := roundSum f mode (terms.map (·.1))
  (r.1, r.2 ||| fAll (terms.map (·.2)))

/-! ## LOG6 (R92, R93, R102) -/

/-- T[f] x 2^16. -/
def log6T (f : Nat) : Nat := match f with | 0 => 0x10000 | 1 => 0x13070 | 2 => 0x16A0A | _ => 0x1AE8A

/-- The integer c of a code. -/
def log6C (code : Nat) : Int := readInt 5 true code

/-- log6_value (R92). -/
def log6Value (code : Nat) : FVal :=
  let c := log6C code
  if c = -16 then (if code.testBit 5 then .nan false else .zero false)
  else .ofMag (code.testBit 5) (log6T (c % 4).toNat) (c / 4 - 16)

/-- The product of two LOG6 codes with a scale exponent added (R93). -/
def log6Mul (a b : Nat) (scale : Int) : FVal × FlagSet :=
  let c1 := log6C a
  let c2 := log6C b
  let s1 := a.testBit 5
  let s2 := b.testBit 5
  let nar (c : Int) (s : Bool) : Bool := c == -16 && s
  if nar c1 s1 || nar c2 s2 then (.nan false, 0)
  else if c1 = -16 ∨ c2 = -16 then
    (.zero ((s1 && c1 != -16) != (s2 && c2 != -16)), 0)
  else (.ofMag (s1 != s2) (log6T ((c1 + c2) % 4).toNat) ((c1 + c2) / 4 + scale - 16), 0)

/-- Compare m x 2^e with n x 2^g. -/
def cmpMag (m : Nat) (e : Int) (n : Nat) (g : Int) : Ordering :=
  let lo := min e g
  compare (m * 2 ^ (e - lo).toNat) (n * 2 ^ (g - lo).toNat)

/-- The LOG6 magnitude of c, extended without bound upward; c = -16 stands for zero. -/
def log6Mag (c : Int) : Nat × Int := if c ≤ -16 then (0, 0) else (log6T (c % 4).toNat, c / 4 - 16)

/-- The largest c whose magnitude does not exceed m x 2^e, not below -16. -/
def log6Floor (m : Nat) (e : Int) : Int :=
  let top : Int := (Nat.log2 m : Int) + e
  if top < -5 then -16
  else
    let cands := (List.range 4).map fun (f : Nat) => 4 * top + (f : Int)
    let below := cands.filter fun c => c < -15 || (let g := log6Mag c; cmpMag g.1 g.2 m e != .gt)
    max (-16) ((below.getLast?).getD (4 * top - 1))

/-- A finite nonzero number to LOG6: code and flags (R102); clamp is the rule of round_sat, where every value above
the largest magnitude clamps. -/
def log6Round (mode : RMode) (neg : Bool) (m : Nat) (e : Int) : Nat × FlagSet :=
  let c := log6Floor m e
  let lo := log6Mag c
  let hi := log6Mag (c + 1)
  let exact := cmpMag lo.1 lo.2 m e == .eq && c != -16
  -- twice the number against the sum of its neighbours
  let g := min lo.2 hi.2
  let rest := cmpMag (2 * m) e (lo.1 * 2 ^ (lo.2 - g).toNat + hi.1 * 2 ^ (hi.2 - g).toNat) g
  let up := !exact && roundUp mode neg (c % 2 != 0) rest exact
  let r := if up then c + 1 else c
  let sign := if neg then 32 else 0
  if r ≤ -16 then (0x10, fNX)
  else if 15 < r then (sign + 15, fOF ||| fNX)
  else (sign + (r % 32).toNat, fIf (!exact) fNX)

/-- A value to LOG6 (R102). -/
def log6Put (mode : RMode) : FVal → Nat × FlagSet
  | .nan sig => (0x30, fIf sig fNV)
  | .inf _ => (0x30, fOF ||| fNX)
  | .zero _ => (0x10, 0)
  | .fin m e => log6Round mode (m < 0) m.natAbs e

/-! ## Integers (R101) -/

/-- A magnitude rounded to an integer. -/
def Mag.toInteger (x : Mag) (mode : RMode) (neg : Bool) : Nat × Bool := x.toQuantum 0 mode neg

/-- A value to an integer type (R101). -/
def intPut (w : Nat) (signed : Bool) (mode : RMode) : FVal → Nat × FlagSet
  | .nan _ => (0, fNV)
  | .inf neg => (wrapInt w (if neg then intMin w signed else intMax w signed), fNV)
  | .zero _ => (0, 0)
  | .fin m e =>
    let r := (Mag.mk m.natAbs e false).toInteger mode (m < 0)
    let n : Int := if m < 0 then -(r.1 : Int) else r.1
    if n < intMin w signed then (wrapInt w (intMin w signed), fNV)
    else if intMax w signed < n then (wrapInt w (intMax w signed), fNV)
    else (wrapInt w n, fIf (!r.2) fNX)

/-! ## Vector functions (R107, R108) -/

/-- VRND: an integral value in the format (R107). -/
def fltRnd (f : Fmt) (mode : RMode) : FVal → Nat × FlagSet
  | .fin m e =>
    let r := (Mag.mk m.natAbs e false).toInteger mode (m < 0)
    if r.1 = 0 then (f.withSign (m < 0) 0, fIf (!r.2) fNX)
    else
      let p := f.roundInt mode false (if m < 0 then -(r.1 : Int) else r.1) 0
      (p.1, p.2 ||| fIf (!r.2) fNX)
  | v => f.put mode false v

/-- VDIV. -/
def fltDiv (f : Fmt) (mode : RMode) (a b : FVal) : Nat × FlagSet :=
  let sig := fIf (a.isSignalling || b.isSignalling) fNV
  let neg := a.isNeg != b.isNeg
  match a, b with
  | .nan _, _ | _, .nan _ => (f.qnan, sig)
  | .inf _, .inf _ | .zero _, .zero _ => (f.qnan, fNV)
  | .inf _, _ => (f.withSign neg f.infCode, 0)
  | _, .inf _ => (f.withSign neg 0, 0)
  | .zero _, _ => (f.withSign neg 0, 0)
  | .fin _ _, .zero _ => (f.withSign neg f.infCode, fDZ)
  | .fin m e, .fin n g =>
    let k := Nat.log2 n.natAbs + 64
    let num := m.natAbs * 2 ^ k
    f.round mode false neg ⟨num / n.natAbs, e - g - k, num % n.natAbs != 0⟩

/-- The magnitude of the square root of m x 2^e, to at least 64 bits. -/
def sqrtMag (m : Nat) (e : Int) : Mag :=
  let par := (e % 2).toNat
  let n := m * 2 ^ (128 + par)
  let r := Nat.sqrt n
  ⟨r, (e - par) / 2 - 64, r * r != n⟩

/-- VSQRT. -/
def fltSqrt (f : Fmt) (mode : RMode) : FVal → Nat × FlagSet
  | .nan sig => (f.qnan, fIf sig fNV)
  | .zero neg => (f.withSign neg 0, 0)
  | .inf false => (f.infCode, 0)
  | .inf true => (f.qnan, fNV)
  | .fin m e => if m < 0 then (f.qnan, fNV) else f.round mode false false (sqrtMag m.natAbs e)

/-- VRCP. -/
def fltRcp (f : Fmt) (mode : RMode) : FVal → Nat × FlagSet
  | .nan sig => (f.qnan, fIf sig fNV)
  | .zero neg => (f.withSign neg f.infCode, fDZ)
  | .inf neg => (f.withSign neg 0, 0)
  | .fin m e => fltDiv f mode (.fin 1 0) (.fin m e)

/-- The magnitude of one over the square root of m x 2^e. -/
def rsqMag (m : Nat) (e : Int) : Mag :=
  let par := (e % 2).toNat
  let n := m * 2 ^ par
  let k := Nat.log2 n + 64
  let r := Nat.sqrt (2 ^ (2 * k) / n)
  ⟨r, -((e - par) / 2) - k, r * r * n != 2 ^ (2 * k)⟩

/-- VRSQ. -/
def fltRsq (f : Fmt) (mode : RMode) : FVal → Nat × FlagSet
  | .nan sig => (f.qnan, fIf sig fNV)
  | .zero neg => (f.withSign neg f.infCode, fDZ)
  | .inf false => (0, 0)
  | .inf true => (f.qnan, fNV)
  | .fin m e => if m < 0 then (f.qnan, fNV) else f.round mode false false (rsqMag m.natAbs e)

/-- Working bits of VEXP2 and VLOG2. -/
def fnBits : Nat := 512

/-- 2^(k / 2^t) for 0 <= k < 2^t, scaled by 2^512 and truncated: the product of the roots 2^(2^-i) over the bits of
k, each root the square root of the one before. -/
def exp2Frac (k t : Nat) : Nat :=
  let step (st : Nat × Nat) (i : Nat) : Nat × Nat :=
    let root := Nat.sqrt (st.1 * 2 ^ fnBits)
    (root, if k.testBit (t - 1 - i) then st.2 * root / 2 ^ fnBits else st.2)
  ((List.range t).foldl step (2 * 2 ^ fnBits, 2 ^ fnBits)).2

/-- VEXP2 (R108). An exponent beyond 2,000 in magnitude overflows or rounds to zero in every format.
DEDUCED: log entry 61. -/
def fltExp2 (f : Fmt) (mode : RMode) : FVal → Nat × FlagSet
  | .nan sig => (f.qnan, fIf sig fNV)
  | .inf neg => (if neg then 0 else f.infCode, 0)
  | .zero _ => f.round mode false false ⟨1, 0, false⟩
  | .fin m e =>
    if 0 ≤ e ∨ m.natAbs % 2 ^ (-e).toNat = 0 then
      let n : Int := if 0 ≤ e then m * 2 ^ e.toNat else m / 2 ^ (-e).toNat
      f.round mode false false ⟨1, max (-2000) (min 2000 n), false⟩
    else
      let t := (-e).toNat
      let n : Int := m / 2 ^ t
      if 2000 < n then f.round mode false false ⟨1, 2000, true⟩
      else if n < -2000 then f.round mode false false ⟨1, -2000, true⟩
      else f.round mode false false ⟨exp2Frac (m % 2 ^ t).toNat t / 2 ^ 256, n - 256, true⟩

/-- The first 200 bits of log2 of y / 2^512, for y in [2^512, 2^513), by repeated squaring. -/
def log2Frac (y : Nat) : Nat :=
  let step (st : Nat × Nat) (_ : Nat) : Nat × Nat :=
    let sq := st.1 * st.1 / 2 ^ fnBits
    if 2 * 2 ^ fnBits ≤ sq then (sq / 2, 2 * st.2 + 1) else (sq, 2 * st.2)
  ((List.range 200).foldl step (y, 0)).2

/-- VLOG2 (R108). DEDUCED: log entry 61. -/
def fltLog2 (f : Fmt) (mode : RMode) : FVal → Nat × FlagSet
  | .nan sig => (f.qnan, fIf sig fNV)
  | .zero _ => (f.withSign true f.infCode, fDZ)
  | .inf false => (f.infCode, 0)
  | .inf true => (f.qnan, fNV)
  | .fin m e =>
    if m < 0 then (f.qnan, fNV)
    else
      let n := m.natAbs
      let top := Nat.log2 n
      if n = 2 ^ top then
        let k : Int := top + e
        if k = 0 then (0, 0) else f.roundInt mode false k 0
      else
        let fr := log2Frac (n * 2 ^ fnBits / 2 ^ top)
        let total : Int := ((top : Int) + e) * 2 ^ 200 + fr
        if 0 ≤ total then f.round mode false false ⟨total.toNat, -200, true⟩
        else f.round mode false true ⟨(-total - 1).toNat, -200, true⟩

/-! ## Comparison (R109, R193) -/

/-- A comparison of two non-NaN values; -0 equals +0. -/
def FVal.cmp (a b : FVal) : Ordering :=
  match a, b with
  | .inf m, .inf n => if m = n then .eq else if m then .lt else .gt
  | .inf m, _ => if m then .lt else .gt
  | _, .inf n => if n then .gt else .lt
  | a, b =>
    let v : FVal → Int × Int := fun x => match x with | .fin m e => (m, e) | _ => (0, 0)
    let p := v a
    let q := v b
    let lo := min p.2 q.2
    compare (p.1 * 2 ^ (p.2 - lo).toNat) (q.1 * 2 ^ (q.2 - lo).toNat)

/-- minimumNumber and maximumNumber (R109): -0 is below +0. -/
def fltMinMax (f : Fmt) (greater : Bool) (a b : FVal) : Nat × FlagSet :=
  let sig := fIf (a.isSignalling || b.isSignalling) fNV
  if a.isNan && b.isNan then (f.qnan, sig)
  else if a.isNan then ((f.put .rn false b).1, sig)
  else if b.isNan then ((f.put .rn false a).1, sig)
  else
    let aLess := a.cmp b == .lt || (a.cmp b == .eq && a.isNeg && !b.isNeg)
    ((f.put .rn false (if aLess != greater then a else b)).1, sig)

/-- VCMP on floating-point elements (R193). -/
def fltCompare (c : VCond) (a b : FVal) : Bool × FlagSet :=
  let sig := a.isSignalling || b.isSignalling
  let un := a.isNan || b.isNan
  let o := a.cmp b
  match c with
  | .eq => (!un && o == .eq, fIf sig fNV)
  | .ne => (un || o != .eq, fIf sig fNV)
  | .unord => (un, fIf sig fNV)
  | .lt => (!un && o == .lt, fIf un fNV)
  | .le => (!un && o != .gt, fIf un fNV)
  | .gt => (!un && o == .gt, fIf un fNV)
  | .ge => (!un && o != .lt, fIf un fNV)

end Sys2Proof.Machine
end

