-- ==== Sys2Proof/Machine/Vector.lean ====
section
/-! DEFINITION. The values of the V stream (R182-R211): for every V word that writes a vector or mask register, what
it reads (its plan) and what it writes as a function of its captured operands. -/

namespace Sys2Proof.Machine

/-! ## Elements (R91, R184) -/

/-- The format of a floating-point type; integer types and LOG6 have none. -/
def EType.fmt : EType → Fmt
  | .f32 => fmtF32 | .f16 => fmtF16 | .bf16 => fmtBF16 | .e4m3 => fmtE4M3 | .e5m2 => fmtE5M2
  | .e2m1 => fmtE2M1 | _ => fmtF32

/-- Element i of a register, as a code. -/
def elemAt (t : EType) (v : VReg) (i : Nat) : Nat :=
  match t with
  | .e2m1 => (vbyte v (i / 2)).toNat / 16 ^ (i % 2) % 16
  | .log6 => (vbyte v i).toNat % 64
  | t => vvalue v (i * (t.width / 8)) (t.width / 8)

/-- The byte that holds the lowest bit of element i. -/
def elemByte (t : EType) (i : Nat) : Nat := i * t.width / 8

/-- The elements of a register. -/
def elems (t : EType) (v : VReg) : Array Nat := Array.ofFn fun (i : Fin t.count) => elemAt t v i.val

/-- A code of an array. -/
def codeAt (a : Array Nat) (i : Nat) : Nat := (a[i]?).getD 0

/-- A register packed from codes (R91). -/
def packElems (t : EType) (a : Array Nat) : VReg :=
  VReg.ofFn fun j =>
    match t with
    | .e2m1 => BitVec.ofNat 8 (codeAt a (2 * j) % 16 + 16 * (codeAt a (2 * j + 1) % 16))
    | t => natByte (codeAt a (j / (t.width / 8))) (j % (t.width / 8))

/-- The predicate of element i: the mask bit of its lowest byte (R114). -/
def pred (t : EType) (k : MReg) (i : Nat) : Bool := mbit k (elemByte t i)

/-- The bytes that a predicated write may change: those whose element's predicate is 1 (R185). -/
def enables (t : EType) (k : MReg) : MReg :=
  match t with
  | .e2m1 => k
  | t => MReg.ofFn fun j => mbit k (j / (t.width / 8) * (t.width / 8))

/-! ## Writes -/

/-- A write that a V word makes: data and enable bits. -/
inductive VWrite where
  | vec (r : BitVec 9) (v : VReg) (en : MReg)
  | msk (r : BitVec 4) (m : MReg) (en : MReg)
deriving DecidableEq, Repr

/-- What a V word's captured operands give: its writes and its flags. -/
structure VResult where
  writes : List VWrite
  flags : FlagSet
deriving DecidableEq, Repr

/-- The writes of a predicated element-wise result (R185), with the flags of the elements written (R99). -/
def elemWise (vd : BitVec 9) (t : EType) (k : MReg) (f : Nat → Nat × FlagSet) : VResult :=
  let res := Array.ofFn fun (i : Fin t.count) => if pred t k i.val then f i.val else (0, 0)
  { writes := [.vec vd (packElems t (res.map (·.1))) (enables t k)]
    flags := res.foldl (fun a x => a ||| x.2) 0 }

/-- A result that writes every element, with no flag (selects and permutes that ignore predicates). -/
def elemAll (vd : BitVec 9) (t : EType) (f : Nat → Nat) : VResult :=
  { writes := [.vec vd (packElems t (Array.ofFn fun (i : Fin t.count) => f i.val)) MReg.ones], flags := 0 }

/-- The captured vector operand j, mask operand j and scalar operand j of a word. -/
def opAt (ops : List VReg) (j : Nat) : VReg := (ops[j]?).getD VReg.zero
def mopAt (mops : List MReg) (j : Nat) : MReg := (mops[j]?).getD MReg.zero
def scalAt (scal : List W64) (j : Nat) : W64 := (scal[j]?).getD 0

/-! ## Element operations (R189, R190) -/

/-- An exact integer operation on two elements. -/
def intOp (t : EType) (sat : Bool) (f : Int → Int → Int) (a b : Nat) : Nat × FlagSet :=
  finishInt t.width t.isSigned sat (f (readInt t.width t.isSigned a) (readInt t.width t.isSigned b))

/-- An operation on w-bit patterns. -/
def patOp (t : EType) (f : Nat → Nat → Nat) (a b : Nat) : Nat × FlagSet := (f a b % 2 ^ t.width, 0)

def addE (t : EType) (rm : RMode) (sat : Bool) (a b : Nat) : Nat × FlagSet :=
  if t.isI then intOp t sat (· + ·) a b
  else roundSum (EType.fmt t) rm [(EType.fmt t).decode a, (EType.fmt t).decode b]

def subE (t : EType) (rm : RMode) (sat : Bool) (a b : Nat) : Nat × FlagSet :=
  if t.isI then intOp t sat (· - ·) a b
  else roundSum (EType.fmt t) rm [(EType.fmt t).decode a, ((EType.fmt t).decode b).neg]

def mulE (t : EType) (rm : RMode) (sat : Bool) (a b : Nat) : Nat × FlagSet :=
  if t.isI then intOp t sat (· * ·) a b
  else
    let p := ((EType.fmt t).decode a).mul ((EType.fmt t).decode b)
    let r := (EType.fmt t).put rm false p.1
    (r.1, r.2 ||| p.2)

def mulhE (t : EType) (a b : Nat) : Nat × FlagSet := intOp t false (fun x y => x * y / 2 ^ t.width) a b

def minE (t : EType) (a b : Nat) : Nat × FlagSet :=
  if t.isI then intOp t false min a b else fltMinMax (EType.fmt t) false ((EType.fmt t).decode a) ((EType.fmt t).decode b)

def maxE (t : EType) (a b : Nat) : Nat × FlagSet :=
  if t.isI then intOp t false max a b else fltMinMax (EType.fmt t) true ((EType.fmt t).decode a) ((EType.fmt t).decode b)

/-- VABS and VNEG of a floating-point element: the sign bit only, NaNs canonical (R190). -/
def signE (f : Fmt) (a : Nat) (code : Nat) : Nat × FlagSet :=
  match f.decode a with
  | .nan sig => (f.qnan, fIf sig fNV)
  | _ => (code, 0)

def absE (t : EType) (sat : Bool) (a : Nat) : Nat × FlagSet :=
  if t.isI then intOp t sat (fun x _ => (x.natAbs : Int)) a 0
  else signE (EType.fmt t) a (a % (EType.fmt t).signBit)

def negE (t : EType) (sat : Bool) (a : Nat) : Nat × FlagSet :=
  if t.isI then intOp t sat (fun x _ => -x) a 0
  else signE (EType.fmt t) a (a ^^^ (EType.fmt t).signBit)

def rolN (w a s : Nat) : Nat := a * 2 ^ s % 2 ^ w + a / 2 ^ (w - s)

def sraE (t : EType) (a b : Nat) : Nat × FlagSet :=
  (wrapInt t.width (readInt t.width true a / 2 ^ (b % t.width)), 0)

/-- A fused product and addend (R191), with the product negated for VFNMA and the addend for VFMS. -/
def fmaE (f : Fmt) (rm : RMode) (negP negC : Bool) (a b c : Nat) : Nat × FlagSet :=
  let p := (f.decode a).mul (f.decode b)
  let x := f.decode c
  roundTerms f rm [(if negP then p.1.neg else p.1, p.2), (if negC then x.neg else x, 0)]

/-- The funnel shifts (R192). -/
def funnelL (w a b s : Nat) : Nat := (a * 2 ^ w + b) * 2 ^ (s % w) / 2 ^ w % 2 ^ w
def funnelR (w a b s : Nat) : Nat := (a * 2 ^ w + b) / 2 ^ (s % w) % 2 ^ w

/-- VCMP of one pair of elements (R193). -/
def cmpE (t : EType) (c : VCond) (a b : Nat) : Bool × FlagSet :=
  if t.isI then
    let x := readInt t.width t.isSigned a
    let y := readInt t.width t.isSigned b
    (match c with
      | .eq => x == y | .ne => x != y | .lt => decide (x < y) | .le => decide (x ≤ y)
      | .gt => decide (y < x) | .ge => decide (y ≤ x) | .unord => false, 0)
  else fltCompare c ((EType.fmt t).decode a) ((EType.fmt t).decode b)

/-- The value of an element as a number: for conversions (R196). -/
def numOf (t : EType) (a : Nat) : FVal :=
  if t.isI then .ofMag (readInt t.width t.isSigned a < 0) (readInt t.width t.isSigned a).natAbs 0
  else if t = .log6 then log6Value a
  else (EType.fmt t).decode a

/-- VCVT of one element (R100-R102, R196). DEDUCED: log entry 22. -/
def cvtE (src dst : EType) (rm : RMode) (sat : Bool) (a : Nat) : Nat × FlagSet :=
  if src = dst then
    if src.isI then (a, 0)
    else match numOf src a with
      | .nan sig => (if src = .log6 then 0x30 else (EType.fmt src).qnan, fIf sig fNV)
      | _ => (a, 0)
  else if src.isI && dst.isI then
    finishInt dst.width dst.isSigned (sat && dst.width < src.width) (readInt src.width src.isSigned a)
  else
    let v := match numOf src a with | .zero n => FVal.zero (n && !src.isI) | v => v
    if dst.isI then intPut dst.width dst.isSigned rm v
    else if dst = .log6 then log6Put rm v
    else (EType.fmt dst).put rm sat v

/-! ## MX blocks (R94, R102, R103) -/

def MxFmt.etype? : MxFmt → Option Fmt
  | .e4m3 => some fmtE4M3 | .e5m2 => some fmtE5M2 | .e2m1 => some fmtE2M1 | _ => none

/-- Element width in bits as stored by VQMX: LOG6 takes a byte (R197). -/
def mxWidth : MxFmt → Nat
  | .e2m1 | .int4 => 4
  | _ => 8

/-- emax_F of R102. -/
def mxEmax : MxFmt → Int
  | .e4m3 => 8 | .e5m2 => 15 | .e2m1 => 2 | .int8 | .int4 => 0 | .log6 => 3

/-- Scale a value by 2^d. -/
def FVal.scale (v : FVal) (d : Int) : FVal := match v with | .fin m e => .fin m (e + d) | v => v

/-- round_sat_F of R102. DEDUCED: log entry 21. -/
def mxRound (f : MxFmt) (rm : RMode) (v : FVal) : Nat × FlagSet :=
  match f with
  | .log6 => log6Put rm v
  | .int8 | .int4 =>
    let w := if f = .int8 then 8 else 4
    match v.scale (if f = .int8 then 6 else 2) with
    | .fin m e =>
      let r := (Mag.mk m.natAbs e false).toInteger rm (m < 0)
      let n : Int := if m < 0 then -(r.1 : Int) else r.1
      if n = clampInt w true n then (wrapInt w n, fIf (!r.2) fNX) else (wrapInt w (clampInt w true n), fOF ||| fNX)
    | _ => (0, 0)
  | .e4m3 => fmtE4M3.put rm true v
  | .e5m2 => fmtE5M2.put rm true v
  | .e2m1 => fmtE2M1.put rm true v

/-- quantise_block (R102): the scale, the codes and the flags. DEDUCED: log entry 21. -/
def quantise (f : MxFmt) (rm : RMode) (xs : List FVal) : Nat × List Nat × FlagSet :=
  if xs.any fun x => match x with | .nan _ | .inf _ => true | _ => false then
    (0xFF, xs.map fun _ => 0, fIf (xs.any FVal.isSignalling) fNV)
  else
    let tops := xs.filterMap fun x => match x with | .fin m e => some ((Nat.log2 m.natAbs : Int) + e) | _ => none
    let e : Int := match tops.max? with
      | none => 127
      | some t => min 254 (max 0 (t - mxEmax f + 127))
    let rs := xs.map fun x => mxRound f rm (x.scale (127 - e))
    (e.toNat, rs.map (·.1), fAll (rs.map (·.2)))

/-- The value of an MX element with its scale (R94); a scale of 0xFF makes it NaN. -/
def mxValue (f : MxFmt) (scale code : Nat) : FVal :=
  if scale = 0xFF then .nan false
  else
    let v : FVal := match f with
      | .e4m3 => fmtE4M3.decode code
      | .e5m2 => fmtE5M2.decode code
      | .e2m1 => fmtE2M1.decode code
      | .int8 => .ofMag (readInt 8 true code < 0) (readInt 8 true code).natAbs (-6)
      | .int4 => .ofMag (readInt 4 true code < 0) (readInt 4 true code).natAbs (-2)
      | .log6 => log6Value code
    -- integer elements have one zero
    (match f, v with | .int8, .zero _ | .int4, .zero _ => FVal.zero false | _, v => v).scale ((scale : Int) - 127)

/-- VQMX (R197). -/
def quantiseV (vd vb : BitVec 9) (f : MxFmt) (rm : RMode) (a : VReg) (k : MReg) : VResult :=
  let per := if mxWidth f = 8 then 32 else 16
  let blocks := Array.ofFn fun (b : Fin 16) =>
    if mbit k (128 * b.val) then
      quantise f rm ((List.range 32).map fun i => fmtF32.decode (elemAt .f32 a (32 * b.val + i)))
    else (0, [], 0)
  let blk (b : Nat) := (blocks[b]?).getD (0, [], 0)
  let code (b i : Nat) : Nat := ((blk b).2.1[i]?).getD 0
  -- byte j of slice s: block 2s + j / per, or no block
  let blockOf (j : Nat) : Option Nat := if j % 256 / per < 2 then some (2 * (j / 256) + j % 256 / per) else none
  let scaleOf (j : Nat) : Option Nat := if j % 256 < 2 then some (2 * (j / 256) + j % 256) else none
  let enFor (o : Option Nat) : Bool := match o with | some b => mbit k (128 * b) | none => true
  let codes := VReg.ofFn fun j => match blockOf j with
    | none => 0
    | some b =>
      let p := j % 256 % per
      BitVec.ofNat 8 (if per = 32 then code b p else code b (2 * p) % 16 + 16 * (code b (2 * p + 1) % 16))
  let scales := VReg.ofFn fun j => match scaleOf j with | none => 0 | some b => BitVec.ofNat 8 (blk b).1
  { writes := [.vec vd codes (MReg.ofFn fun j => enFor (blockOf j)),
               .vec vb scales (MReg.ofFn fun j => enFor (scaleOf j))]
    flags := blocks.foldl (fun a x => a ||| x.2.2) 0 }

/-- VDQMX of output element i (R198). -/
def dequantE (f : MxFmt) (t : EType) (rm : RMode) (a b : VReg) (i : Nat) : Nat × FlagSet :=
  let m := 2048 / t.width
  let s := i / m
  let h := i % m / 32
  let p := i % 32
  let base := 256 * s + h * (if mxWidth f = 8 then 32 else 16)
  let code := if mxWidth f = 8 then (vbyte a (base + p)).toNat else (vbyte a (base + p / 2)).toNat / 16 ^ (p % 2) % 16
  let code := if f = .log6 then code % 64 else code
  (EType.fmt t).put rm false (mxValue f (vbyte b (256 * s + h)).toNat code)

/-! ## Reductions (R110, R207, R208) -/

/-- The identity of an empty group of integers (R207). -/
def redIdentity (t : EType) (op : RedOp) : Nat :=
  match op with
  | .add | .or | .xor => 0
  | .min => wrapInt t.width (intMax t.width t.isSigned)
  | .max => wrapInt t.width (intMin t.width t.isSigned)
  | .and => 2 ^ t.width - 1

/-- VRED over the inputs of a group, in element order. -/
def reduce (t : EType) (rm : RMode) (op : RedOp) (xs : List Nat) : Nat × FlagSet :=
  if t.isI then
    (xs.foldl (fun acc x => match op with
      | .add => (acc + x) % 2 ^ t.width
      | .min => (minE t acc x).1
      | .max => (maxE t acc x).1
      | .and => acc &&& x
      | .or => acc ||| x
      | .xor => acc ^^^ x) (redIdentity t op), 0)
  else
    let f := EType.fmt t
    match op with
    | .min | .max =>
      match xs with
      | [] => (f.qnan, 0)
      | x :: rest =>
        rest.foldl (fun acc y =>
          let r := fltMinMax f (op == .max) (f.decode acc.1) (f.decode y)
          (r.1, acc.2 ||| r.2)) (f.put .rn false (f.decode x))
    | _ => if xs.isEmpty then (0, 0) else roundSum f rm (xs.map f.decode)

/-- The inputs of a group up to an element bound. -/
def groupInputs (t : EType) (k : MReg) (a : Array Nat) (lo hi : Nat) : List Nat :=
  ((List.range (hi - lo)).filter fun j => pred t k (lo + j)).map fun j => codeAt a (lo + j)

def reduceV (vd : BitVec 9) (t : EType) (rm : RMode) (op : RedOp) (g : Nat) (a : VReg) (k : MReg) : VResult :=
  let e := elems t a
  let res := Array.ofFn fun (q : Fin (t.count / 2 ^ g)) =>
    reduce t rm op (groupInputs t k e (2 ^ g * q.val) (2 ^ g * (q.val + 1)))
  { writes := [.vec vd (packElems t (Array.ofFn fun (i : Fin t.count) => ((res[i.val / 2 ^ g]?).getD (0, 0)).1)) MReg.ones]
    flags := res.foldl (fun a x => a ||| x.2) 0 }

def scanV (vd : BitVec 9) (t : EType) (rm : RMode) (op : RedOp) (g : Nat) (a : VReg) (k : MReg) : VResult :=
  let e := elems t a
  let res := Array.ofFn fun (i : Fin t.count) =>
    reduce t rm op (groupInputs t k e (i.val / 2 ^ g * 2 ^ g) (i.val + 1))
  { writes := [.vec vd (packElems t (res.map (·.1))) MReg.ones], flags := res.foldl (fun a x => a ||| x.2) 0 }

/-! ## Complex arithmetic (R209) -/

/-- The real or imaginary part, with its addend where there is one. -/
def complexE (f : Fmt) (rm : RMode) (im : Bool) (ar ai br bi : Nat) (c : Option Nat) : Nat × FlagSet :=
  let d := f.decode
  let ps : List (FVal × FlagSet) :=
    if im then [(d ar).mul (d bi), (d ai).mul (d br)]
    else [(d ar).mul (d br), (let p := (d ai).mul (d bi); (p.1.neg, p.2))]
  roundTerms f rm (match c with | none => ps | some x => (d x, 0) :: ps)

def complexV (vd : BitVec 9) (t : EType) (rm : RMode) (a b : VReg) (c : Option VReg) (k : MReg) : VResult :=
  let f := EType.fmt t
  let res := Array.ofFn fun (i : Fin t.count) =>
    let m := i.val / 2 * 2
    if pred t k m then
      complexE f rm (i.val % 2 == 1) (elemAt t a m) (elemAt t a (m + 1)) (elemAt t b m) (elemAt t b (m + 1))
        (c.map fun c => elemAt t c i.val)
    else (0, 0)
  { writes := [.vec vd (packElems t (res.map (·.1))) (MReg.ofFn fun j => pred t k (j / (t.width / 8) / 2 * 2))]
    flags := res.foldl (fun a x => a ||| x.2) 0 }

/-! ## Plans -/

/-- What a V word reads and when it writes: its vector, mask and scalar operands, every vector register it names, its
latency, and whether it uses the unit of R142. -/
structure VPlan where
  srcs : List (BitVec 9)
  msks : List (BitVec 4)
  scal : List (BitVec 6)
  regs : List (BitVec 9)
  lat : Nat
  slow : Bool
deriving DecidableEq, Repr

/-- A binary word's plan (R188). -/
def binPlan (x : VBin) (lat : Nat) (slow : Bool := false) : VPlan :=
  match x.src with
  | .vec b => { srcs := [x.va, b], msks := [x.k], scal := [], regs := [x.vd, x.va, b], lat := lat, slow := slow }
  | .scal b => { srcs := [x.va], msks := [x.k], scal := [b], regs := [x.vd, x.va], lat := lat, slow := slow }

/-- A unary word's plan. -/
def unPlan (x : VUn) (lat : Nat) (slow : Bool := false) : VPlan :=
  { srcs := [x.va], msks := [x.k], scal := [], regs := [x.vd, x.va], lat := lat, slow := slow }

def triPlan (x : VTri) (lat : Nat) : VPlan :=
  { srcs := [x.va, x.vb, x.vc], msks := [x.k], scal := [], regs := [x.vd, x.va, x.vb, x.vc], lat := lat, slow := false }

def duoPlan (x : VDuo) (lat : Nat) : VPlan :=
  { srcs := [x.va, x.vb], msks := [x.k], scal := [], regs := [x.vd, x.va, x.vb], lat := lat, slow := false }

/-- A plan over the given vector and mask operands with a VAL operand. -/
def planVs (srcs : List (BitVec 9)) (vd : BitVec 9) (v : VsVal) (msks : List (BitVec 4)) (lat : Nat) : VPlan :=
  { srcs := srcs, msks := msks, scal := match v with | .imm _ => [] | .reg b => [b], regs := vd :: srcs, lat := lat,
    slow := false }

/-- A plan of the mask family. -/
def planK (msks : List (BitVec 4)) (scal : List (BitVec 6)) : VPlan :=
  { srcs := [], msks := msks, scal := scal, regs := [], lat := 1, slow := false }

/-- Latency of the words whose integer form takes 2 cycles and whose F form takes 4 (R153, R188). -/
def lat24 (t : EType) : Nat := if t.isI then 2 else 4

/-- VRED's latency (R207). -/
def redLat (t : EType) (g : BitVec 4) : Nat := if 2 ^ g.toNat * t.width / 8 ≤ 256 then 6 else 12

/-- The plan of every V word that writes vector or mask registers by slices (R153, R182). -/
def vPlan : Instr → Option VPlan
  | .vadd x | .vsub x | .vmin x | .vmax x => some (binPlan x (lat24 x.ty))
  | .vmul x | .vmulh x => some (binPlan x 4)
  | .vabs x | .vneg x => some (unPlan x (lat24 x.ty))
  | .vand x | .vor x | .vxor x | .vandn x | .vshl x | .vshr x | .vsra x | .vrol x => some (binPlan x 2)
  | .vclz x | .vpopc x => some (unPlan x 2)
  | .vdiv x => some (binPlan x 16 true)
  | .vsqrt x | .vrcp x | .vrsq x | .vexp2 x | .vlog2 x => some (unPlan x 16 true)
  | .vrnd x => some (unPlan x 4)
  | .vfma x | .vfms x | .vfnma x => some (triPlan x 4)
  | .vfshl x | .vfshr x => some (triPlan x 2)
  | .vcmp _ va src k ty _ => some (match src with
      | .vec b => { srcs := [va, b], msks := [k], scal := [], regs := [va, b], lat := lat24 ty, slow := false }
      | .scal b => { srcs := [va], msks := [k], scal := [b], regs := [va], lat := lat24 ty, slow := false })
  | .vsel x => some (duoPlan x 2)
  | .vcvt vd va k _ _ _ _ => some { srcs := [va], msks := [k], scal := [], regs := [vd, va], lat := 4, slow := false }
  | .vqmx vd vb va k _ _ => some { srcs := [va], msks := [k], scal := [], regs := [vd, vb, va], lat := 6, slow := false }
  | .vdqmx vd va vb k _ _ _ =>
      some { srcs := [va, vb], msks := [k], scal := [], regs := [vd, va, vb], lat := 4, slow := false }
  | .vli vd _ k _ => some { srcs := [], msks := [k], scal := [], regs := [vd], lat := 2, slow := false }
  | .vbcast vd v k _ => some (planVs [] vd v [k] 3)
  | .vmov vd va k => some { srcs := [va], msks := [k], scal := [], regs := [vd, va], lat := 2, slow := false }
  | .vins vd sa v _ => some { planVs [] vd v [] 3 with scal := sa :: (match v with | .imm _ => [] | .reg b => [b]) }
  | .vidx vd v k _ => some (planVs [] vd v [k] 2)
  | .vperm x => some (triPlan x 11)
  | .vrot vd va v k _ | .vshup vd va v k _ => some (planVs [va] vd v [k] 11)
  | .vzip x | .vunzip x => some (duoPlan x 11)
  | .vtrn x => some (duoPlan x 3)
  | .vcomp vd va k _ | .vexpd vd va k _ =>
      some { srcs := [va], msks := [k], scal := [], regs := [vd, va], lat := 11, slow := false }
  | .vred vd va k ty _ _ g =>
      some { srcs := [va], msks := [k], scal := [], regs := [vd, va], lat := redLat ty g, slow := false }
  | .vscan vd va k _ _ _ _ => some { srcs := [va], msks := [k], scal := [], regs := [vd, va], lat := 14, slow := false }
  | .vcmul x => some (duoPlan x 4)
  | .vcmac x => some (triPlan x 4)
  | .kand _ a b | .kor _ a b | .kxor _ a b => some (planK [a, b] [])
  | .knot _ a | .kmov _ a => some (planK [a] [])
  | .kfroms _ sa => some (planK [] [sa])
  | .kbytes _ sa sb => some (planK [] [sa, sb])
  | _ => none

/-! ## Results -/

/-- An element's second operand: a captured register, or a scalar for every element (R184). -/
def secondOp (t : EType) (src : VSrc) (scal : List W64) (ops : List VReg) (i : Nat) : Nat :=
  match src with
  | .vec _ => elemAt t (opAt ops 1) i
  | .scal _ => (scalAt scal 0).toNat % 2 ^ t.width

/-- A binary word over its elements. -/
def binV (x : VBin) (scal : List W64) (ops : List VReg) (mops : List MReg) (f : Nat → Nat → Nat × FlagSet) : VResult :=
  elemWise x.vd x.ty (mopAt mops 0) fun i => f (elemAt x.ty (opAt ops 0) i) (secondOp x.ty x.src scal ops i)

/-- A unary word over its elements. -/
def unV (x : VUn) (ops : List VReg) (mops : List MReg) (f : Nat → Nat × FlagSet) : VResult :=
  elemWise x.vd x.ty (mopAt mops 0) fun i => f (elemAt x.ty (opAt ops 0) i)

/-- A three-source word over its elements. -/
def triV (x : VTri) (ops : List VReg) (mops : List MReg) (f : Nat → Nat → Nat → Nat × FlagSet) : VResult :=
  elemWise x.vd x.ty (mopAt mops 0) fun i =>
    f (elemAt x.ty (opAt ops 0) i) (elemAt x.ty (opAt ops 1) i) (elemAt x.ty (opAt ops 2) i)

/-- VLI's element (R199). -/
def liVal (val : BitVec 18) (t : EType) : Nat :=
  if t.isI then wrapInt t.width val.toInt else if t = .f32 then val.toNat * 2 ^ 14 else val.toNat % 2 ^ 16

/-- A VAL operand read unsigned, or the scalar (R201, R204). -/
def vsNat (v : VsVal) (w : W64) : Nat := match v with | .imm x => x.toNat | .reg _ => w.toNat

/-- A mask result. -/
def maskResult (kd : BitVec 4) (f : Nat → Bool) : VResult :=
  { writes := [.msk kd (MReg.ofFn f) MReg.ones], flags := 0 }

/-- The lowest elements of a that the mask selects, in order (R206). -/
def selected (t : EType) (k : MReg) (a : VReg) : Array Nat :=
  (((List.range t.count).filter fun i => pred t k i).map fun i => elemAt t a i).toArray

/-- VEXPD: how many elements before i the mask selects. -/
def rankBelow (t : EType) (k : MReg) : Array Nat :=
  ((List.range t.count).foldl (fun (acc : Array Nat × Nat) i =>
    (acc.1.push acc.2, if pred t k i then acc.2 + 1 else acc.2)) (#[], 0)).1

/-- What every V word with a plan writes, from its captured operands (R188-R210). -/
def vEval (i : Instr) (scal : List W64) (ops : List VReg) (mops : List MReg) : VResult :=
  let a := opAt ops 0
  let b := opAt ops 1
  let k := mopAt mops 0
  match i with
  | .vadd x => binV x scal ops mops (addE x.ty x.rm x.sat)
  | .vsub x => binV x scal ops mops (subE x.ty x.rm x.sat)
  | .vmul x => binV x scal ops mops (mulE x.ty x.rm x.sat)
  | .vmulh x => binV x scal ops mops (mulhE x.ty)
  | .vmin x => binV x scal ops mops (minE x.ty)
  | .vmax x => binV x scal ops mops (maxE x.ty)
  | .vabs x => unV x ops mops (absE x.ty x.sat)
  | .vneg x => unV x ops mops (negE x.ty x.sat)
  | .vand x => binV x scal ops mops (patOp x.ty (· &&& ·))
  | .vor x => binV x scal ops mops (patOp x.ty (· ||| ·))
  | .vxor x => binV x scal ops mops (patOp x.ty (· ^^^ ·))
  | .vandn x => binV x scal ops mops (patOp x.ty fun p q => p &&& (2 ^ x.ty.width - 1 - q))
  | .vshl x => binV x scal ops mops (patOp x.ty fun p q => p * 2 ^ (q % x.ty.width))
  | .vshr x => binV x scal ops mops (patOp x.ty fun p q => p / 2 ^ (q % x.ty.width))
  | .vsra x => binV x scal ops mops (sraE x.ty)
  | .vrol x => binV x scal ops mops (patOp x.ty fun p q => rolN x.ty.width p (q % x.ty.width))
  | .vclz x => unV x ops mops fun p => (leadZeros x.ty.width p, 0)
  | .vpopc x => unV x ops mops fun p => (oneBits x.ty.width p, 0)
  | .vdiv x => binV x scal ops mops fun p q =>
      fltDiv (EType.fmt x.ty) x.rm ((EType.fmt x.ty).decode p) ((EType.fmt x.ty).decode q)
  | .vsqrt x => unV x ops mops fun p => fltSqrt (EType.fmt x.ty) x.rm ((EType.fmt x.ty).decode p)
  | .vrcp x => unV x ops mops fun p => fltRcp (EType.fmt x.ty) x.rm ((EType.fmt x.ty).decode p)
  | .vrsq x => unV x ops mops fun p => fltRsq (EType.fmt x.ty) x.rm ((EType.fmt x.ty).decode p)
  | .vexp2 x => unV x ops mops fun p => fltExp2 (EType.fmt x.ty) x.rm ((EType.fmt x.ty).decode p)
  | .vlog2 x => unV x ops mops fun p => fltLog2 (EType.fmt x.ty) x.rm ((EType.fmt x.ty).decode p)
  | .vrnd x => unV x ops mops fun p => fltRnd (EType.fmt x.ty) x.rm ((EType.fmt x.ty).decode p)
  | .vfma x => triV x ops mops (fmaE (EType.fmt x.ty) x.rm false false)
  | .vfms x => triV x ops mops (fmaE (EType.fmt x.ty) x.rm false true)
  | .vfnma x => triV x ops mops (fmaE (EType.fmt x.ty) x.rm true false)
  | .vfshl x => triV x ops mops fun p q r => (funnelL x.ty.width p q r, 0)
  | .vfshr x => triV x ops mops fun p q r => (funnelR x.ty.width p q r, 0)
  | .vcmp kd _ src _ ty c =>
      let res := Array.ofFn fun (e : Fin ty.count) =>
        if pred ty k e.val then cmpE ty c (elemAt ty a e.val) (secondOp ty src scal ops e.val) else (false, 0)
      { writes := [.msk kd (MReg.ofFn fun j => ((res[j / (ty.width / 8)]?).getD (false, 0)).1) (enables ty k)]
        flags := res.foldl (fun f x => f ||| x.2) 0 }
  | .vsel x => elemAll x.vd x.ty fun e => if pred x.ty k e then elemAt x.ty a e else elemAt x.ty b e
  | .vcvt vd _ _ src rm dst sat =>
      let m := 2048 / max src.width dst.width
      let from_ (e : Nat) : Nat := e / (2048 / dst.width) * (2048 / src.width) + e % (2048 / dst.width)
      let live (e : Nat) : Bool := e % (2048 / dst.width) < m && pred dst k e
      let res := Array.ofFn fun (e : Fin dst.count) =>
        if live e.val then cvtE src dst rm sat (elemAt src a (from_ e.val)) else (0, 0)
      { writes := [.vec vd (packElems dst (res.map (·.1))) (MReg.ofFn fun j => live (j * 8 / dst.width))]
        flags := res.foldl (fun f x => f ||| x.2) 0 }
  | .vqmx vd vb _ _ rm f => quantiseV vd vb f rm a k
  | .vdqmx vd _ _ _ ty rm f => elemWise vd ty k (dequantE f ty rm a b)
  | .vli vd v _ ty => elemWise vd ty k fun _ => (liVal v ty, 0)
  | .vbcast vd v _ ty => elemWise vd ty k fun _ =>
      (match v with | .imm x => liVal x ty | .reg _ => (scalAt scal 0).toNat % 2 ^ ty.width, 0)
  | .vmov vd _ _ => { writes := [.vec vd a k], flags := 0 }
  | .vins vd _ v ty =>
      let idx := vsNat v (scalAt scal 1) % ty.count
      let w := ty.width / 8
      { writes := [.vec vd (packElems ty (Array.ofFn fun (_ : Fin ty.count) => (scalAt scal 0).toNat % 2 ^ ty.width))
          (MReg.ofFn fun j => j / w == idx)], flags := 0 }
  | .vidx vd v _ ty =>
      let start : Int := match v with | .imm x => x.toInt | .reg _ => (scalAt scal 0).toNat
      elemWise vd ty k fun e => (wrapInt ty.width (start + e), 0)
  | .vperm x => elemWise x.vd x.ty k fun e =>
      let j := elemAt x.ty (opAt ops 2) e % (2 * x.ty.count)
      (if j < x.ty.count then elemAt x.ty a j else elemAt x.ty b (j - x.ty.count), 0)
  | .vrot vd _ v _ ty => elemWise vd ty k fun e =>
      (elemAt ty a ((e + ty.count - vsNat v (scalAt scal 0) % ty.count) % ty.count), 0)
  | .vshup vd _ v _ ty => elemWise vd ty k fun e =>
      let c := vsNat v (scalAt scal 0)
      (if c ≤ e then elemAt ty a (e - c) else 0, 0)
  | .vzip x => elemWise x.vd x.ty k fun e =>
      let n := x.ty.count
      (elemAt x.ty (if e % 2 = 0 then a else b) ((if x.half then n / 2 else 0) + e / 2), 0)
  | .vunzip x => elemWise x.vd x.ty k fun e =>
      let n := x.ty.count
      (elemAt x.ty (if e < n / 2 then a else b) (2 * (e % (n / 2)) + (if x.half then 1 else 0)), 0)
  | .vtrn x => elemWise x.vd x.ty k fun e =>
      (elemAt x.ty (if e % 2 = 0 then a else b) (e / 2 * 2 + (if x.half then 1 else 0)), 0)
  | .vcomp vd _ _ ty => let sel := selected ty k a; elemAll vd ty fun e => codeAt sel e
  | .vexpd vd _ _ ty => let rk := rankBelow ty k; elemAll vd ty fun e => if pred ty k e then elemAt ty a (codeAt rk e) else 0
  | .vred vd _ _ ty rm op g => reduceV vd ty rm op g.toNat a k
  | .vscan vd _ _ ty rm op g => scanV vd ty rm op g.toNat a k
  | .vcmul x => complexV x.vd x.ty x.rm a b none k
  | .vcmac x => complexV x.vd x.ty x.rm a b (some (opAt ops 2)) k
  | .kand kd _ _ => maskResult kd fun j => mbit k j && mbit (mopAt mops 1) j
  | .kor kd _ _ => maskResult kd fun j => mbit k j || mbit (mopAt mops 1) j
  | .kxor kd _ _ => maskResult kd fun j => mbit k j != mbit (mopAt mops 1) j
  | .knot kd _ => maskResult kd fun j => !mbit k j
  | .kmov kd _ => maskResult kd fun j => mbit k j
  | .kfroms kd _ => maskResult kd fun j => j < 64 && (scalAt scal 0).getLsbD j
  | .kbytes kd _ _ => maskResult kd fun j =>
      (scalAt scal 0).toNat ≤ j && j < (scalAt scal 0).toNat + (scalAt scal 1).toNat
  | _ => { writes := [], flags := 0 }

/-- The word forms slice k of its result from operand slices other than k (R182). -/
def crossSlice : Instr → Bool
  | .vperm _ | .vrot .. | .vshup .. | .vzip _ | .vunzip _ | .vcomp .. | .vexpd .. | .vscan .. => true
  | .vred _ _ _ ty _ _ g => redLat ty g == 12
  | _ => false

end Sys2Proof.Machine
end

