-- ==== Sys2Proof/Machine/Matrix.lean ====
section
/-! DEFINITION. The X stream (R213-R234): format words, the values of MMA and MMAC, and every X word at issue. -/

namespace Sys2Proof.Machine

/-! ## Format words (R217-R219) -/

/-- AFMT and BFMT codes 0 to 8 (R217). -/
inductive MFmt where
  | f32 | bf16 | f16 | e4m3 | e5m2 | e2m1 | int8 | int4 | log6
deriving DecidableEq, Repr

def MFmt.ofCode (n : Nat) : Option MFmt :=
  match n with
  | 0 => some .f32 | 1 => some .bf16 | 2 => some .f16 | 3 => some .e4m3 | 4 => some .e5m2
  | 5 => some .e2m1 | 6 => some .int8 | 7 => some .int4 | 8 => some .log6 | _ => none

/-- Element width (R218). -/
def MFmt.width : MFmt → Nat
  | .f32 => 32 | .bf16 | .f16 => 16 | .e4m3 | .e5m2 | .int8 => 8 | .e2m1 | .int4 => 4 | .log6 => 6

/-- The format of a floating-point element. -/
def MFmt.fmt : MFmt → Fmt
  | .f32 => fmtF32 | .bf16 => fmtBF16 | .f16 => fmtF16 | .e4m3 => fmtE4M3 | .e5m2 => fmtE5M2 | .e2m1 => fmtE2M1
  | _ => fmtF32

/-- A format word that R218 admits for the A source and word. -/
structure FormatWord where
  a : MFmt
  b : MFmt
  rm : RMode
  asc : Bool
  bsc : Bool
  ascl : Nat
  bscl : Nat
  dsat : Bool
deriving DecidableEq, Repr

/-- MX scales are admitted on formats of 8 bits or fewer (R218). -/
def scaleOk (sc : Bool) (f : MFmt) : Bool := !sc || f.width ≤ 8

/-- The tests of R218. -/
def parseFormat (w : W64) (slotA complex : Bool) : Option FormatWord :=
  match MFmt.ofCode (bits w 60 4), MFmt.ofCode (bits w 56 4) with
  | some a, some b =>
    let f : FormatWord :=
      { a := a, b := b, rm := RMode.ofCode (w.extractLsb' 54 2), asc := w.getLsbD 53, bsc := w.getLsbD 52,
        ascl := 64 * bits w 32 16, bscl := 64 * bits w 16 16, dsat := w.getLsbD 15 }
    let downOk := a == .bf16 || a == .f16 || a == .e4m3 || a == .e5m2
    if a.width == b.width && scaleOk f.asc a && scaleOk f.bsc b && bits w 48 4 == 0 && bits w 0 15 == 0
        && (!slotA || (downOk && !f.asc)) && (!f.dsat || slotA) && !(complex && a == .log6) then some f
    else none
  | _, _ => none

/-- Depth K (R219). -/
def depthOf (f : FormatWord) (slotA : Bool) : Nat :=
  if slotA then 64
  else match f.a.width with | 32 => 48 | 16 => 96 | 8 => 192 | 4 => 384 | _ => 256

/-- Pass time (R219). -/
def passOf (f : FormatWord) (complex : Bool) : Nat :=
  let p := if f.a.width = 32 then 12 else if f.a = .log6 then 4 else 6
  if complex then 2 * p else p

/-! ## Operand values (R221, R223-R225) -/

/-- Element k of a row or column of 192 bytes that starts at byte base (R91, R92, R221). -/
def packedCode (f : MFmt) (bs : Array Byte) (base k : Nat) : Nat :=
  let byte (j : Nat) : Nat := ((bs[base + j]?).getD 0).toNat
  match f.width with
  | 32 => leValue ((List.range 4).map fun j => (bs[base + 4 * k + j]?).getD 0)
  | 16 => byte (2 * k) + 256 * byte (2 * k + 1)
  | 8 => byte k
  | 4 => byte (k / 2) / 16 ^ (k % 2) % 16
  | _ =>
    let bit := 6 * (k % 32)
    let j := 24 * (k / 32) + bit / 8
    (byte j + 256 * byte (j + 1)) / 2 ^ (bit % 8) % 64

/-- The value of a non-LOG6 element, with its block scale where one applies (R87, R90, R94). -/
def matValue (f : MFmt) (scale : Option Nat) (code : Nat) : FVal :=
  match f, scale with
  | .int8, none => .ofMag (readInt 8 true code < 0) (readInt 8 true code).natAbs 0
  | .int4, none => .ofMag (readInt 4 true code < 0) (readInt 4 true code).natAbs 0
  | .int8, some e => mxValue .int8 e code
  | .int4, some e => mxValue .int4 e code
  | f, none => f.fmt.decode code
  | f, some e => if e = 0xFF then .nan false else (f.fmt.decode code).scale ((e : Int) - 127)

/-- What the array reads of one operand: its bytes, its scales, the depth. -/
structure MatOperand where
  fmt : MFmt
  bytes : Array Byte
  scales : Option (Array Byte)
  depth : Nat

/-- The scale of element k of row i (R221). -/
def MatOperand.scale (o : MatOperand) (i k : Nat) : Option Nat :=
  o.scales.map fun a => ((a[i * (o.depth / 32) + k / 32]?).getD 0).toNat

def MatOperand.code (o : MatOperand) (i k : Nat) : Nat := packedCode o.fmt o.bytes (192 * i) k

def MatOperand.value (o : MatOperand) (i k : Nat) : FVal := matValue o.fmt (o.scale i k) (o.code i k)

/-- The product of element k of A's row i and B's column j: R93 for LOG6, R105 otherwise. -/
def matProduct (a b : MatOperand) (i ka j kb : Nat) : FVal × FlagSet :=
  if a.fmt = .log6 then
    let e1 := (a.scale i ka).getD 127
    let e2 := (b.scale j kb).getD 127
    if e1 = 0xFF ∨ e2 = 0xFF then (.nan false, 0)
    else log6Mul (a.code i ka) (b.code j kb) ((e1 : Int) + e2 - 254)
  else (a.value i ka).mul (b.value j kb)

/-- The W40 value of a tile element. -/
def w40Value (c : BitVec 40) : FVal := fmtW40.decode c.toNat

/-- Element (i, j) of MMA's result (R105). -/
def mmaElem (a b : MatOperand) (rm : RMode) (c : Tile) (i j : Nat) : Nat × FlagSet :=
  roundTerms fmtW40 rm
    ((w40Value (tileAt c i j), 0) :: (List.range a.depth).map fun k => matProduct a b i k j k)

/-- Element (i, j) of MMAC's result: the real part at even j, the imaginary part at odd j (R106, R224). -/
def mmacElem (a b : MatOperand) (rm : RMode) (c : Tile) (i j : Nat) : Nat × FlagSet :=
  let m := j / 2
  let neg (p : FVal × FlagSet) : FVal × FlagSet := (p.1.neg, p.2)
  let terms := (List.range (a.depth / 2)).flatMap fun k =>
    if j % 2 = 0 then [matProduct a b i (2 * k) m (2 * k), neg (matProduct a b i (2 * k + 1) m (2 * k + 1))]
    else [matProduct a b i (2 * k) m (2 * k + 1), matProduct a b i (2 * k + 1) m (2 * k)]
  roundTerms fmtW40 rm ((w40Value (tileAt c i j), 0) :: terms)

/-- The down-converted A operand (R225): its BF16, FP16, E4M3 or E5M2 rows of 64 elements, and the flags. -/
def downConvert (f : FormatWord) (hs : Tile) : Array Byte × FlagSet :=
  let w := f.a.width / 8
  let rs := hs.toArray.map fun c => f.a.fmt.put f.rm f.dsat (w40Value c)
  (Array.ofFn fun (n : Fin (64 * 192)) =>
      let i := n.val / 192
      let p := n.val % 192
      if p / w < 64 then natByte ((rs[64 * i + p / w]?).getD (0, 0)).1 (p % w) else 0,
    rs.foldl (fun a x => a ||| x.2) 0)

/-- The tile and flags that MMA or MMAC writes (R223, R224). -/
def matResult (f : FormatWord) (complex slotA : Bool) (abytes bbytes asc bsc : List Byte) (hs c : Tile) :
    Tile × FlagSet :=
  let depth := depthOf f slotA
  let down := if slotA then downConvert f hs else (abytes.toArray, 0)
  let a : MatOperand := { fmt := f.a, bytes := down.1, scales := if f.asc then some asc.toArray else none, depth := depth }
  let b : MatOperand :=
    { fmt := f.b, bytes := bbytes.toArray, scales := if f.bsc then some bsc.toArray else none, depth := depth }
  let rs := Array.ofFn fun (n : Fin 4096) =>
    if complex then mmacElem a b f.rm c (n.val / 64) (n.val % 64) else mmaElem a b f.rm c (n.val / 64) (n.val % 64)
  (Vector.ofFn fun n => BitVec.ofNat 40 ((rs[n.val]?).getD (0, 0)).1,
    rs.foldl (fun a x => a ||| x.2) down.2)

/-! ## Handles and slots (R116, R213, R214) -/

/-- The slot of a handle. -/
def Core.slotOf (c : Core) (h : BitVec 4) : Option (Fin 32) := c.acc.h[h.toNat]'h.isLt

/-- The tile of a slot. -/
def Core.tile (c : Core) (t : Fin 32) : Tile := c.acc.tiles[t]

/-- The lowest-numbered free slot. -/
def Core.freeSlot (c : Core) : Option (Fin 32) := (List.finRange 32).find? fun t => c.acc.free[t]

/-- Bind a handle to a slot; the slot's contents are undefined until the binding write.
DESIGN CHOICE: log entry 13. -/
def Core.bind (c : Core) (h : BitVec 4) (t : Fin 32) (serial : Nat) : Core :=
  { c with acc :=
      { h := c.acc.h.set h.toNat (some t) h.isLt
        tiles := c.acc.tiles.set t (Vector.ofFn fun i => Config.boundTile serial i.val)
        free := c.acc.free.set t false } }

/-- Unbind a handle in its issue cycle (R214). -/
def Core.unbind (c : Core) (h : BitVec 4) : Core :=
  { c with acc := { c.acc with h := c.acc.h.set h.toNat none h.isLt } }

/-- The last cycle at which a write issued so far performs on a slot. -/
def Core.lastWrite (c : Core) (t : Fin 32) : Nat :=
  c.pipe.latches.foldl (fun m l => match l.kind with
    | .tile u _ | .elem u _ _ | .xword u _ _ _ _ _ _ _ => if u = t then max m l.base else m
    | _ => m) 0

/-- Cycles from issue to the release of a slot that would be released after n cycles: it waits for a write of the slot that
performs later than that (R214). -/
def Core.releaseLat (c : Core) (t : Fin 32) (n : Nat) : Nat :=
  let w := c.lastWrite t - c.sp.cyc
  if n < w then w + 1 else n

namespace State

/-- An own terrace 0 read of an X word in this cycle: it asks for the banks and touches guards. -/
def readOwn (s : State) (off n : Nat) : State :=
  s.ownRead off n

/-- The slot an X word writes through hd: the bound one, or the lowest free one, which it binds (R116, R213). -/
def bindFor (s : State) (h : BitVec 4) : Option (State × Fin 32) :=
  match s.me.slotOf h with
  | some t => some (s, t)
  | none => match s.me.freeSlot with
    | none => none
    | some t =>
      let u : IssueUndo := { strm := .x, issue := s.cyc, popped := none, bound := some h, pushed := none }
      some ((s.modMe fun c =>
        let c := c.bind h t s.serial
        { c with pipe := { c.pipe with undo := c.pipe.undo ++ [u] } }).bump, t)

/-- ACCEXH or ACCHANDLE: FADDR the word, FAUX the handle (R154). -/
def trapHandle (s : State) (cause : Cause) (h : BitVec 4) : State :=
  s.trap cause (t0Ptr s.focus.rank s.focus.off) (h.setWidth 64)

end State

/-! ## MMA and MMAC (R220-R227) -/

/-- The pointers and scale arrays that an MMA reads, with their sizes, in the order they are tested: of several that fail with
one cause FADDR names the first. DESIGN CHOICE: log entry 99. -/
def mmaSpans (s : State) (f : FormatWord) (a : ASrc) (ab : BitVec 5) : List (W64 × Nat) :=
  let slotA := match a with | .slot _ => true | _ => false
  let n := 2 * depthOf f slotA
  (match a with | .t0 aa => [(s.ra aa, 12288)] | _ => []) ++ [(s.ra ab, 12288)]
    ++ (if f.asc then [(t0Ptr s.focus.rank f.ascl, n)] else [])
    ++ (if f.bsc then [(t0Ptr s.focus.rank f.bscl, n)] else [])

/-- The first span that fails, BADSPACE before WORLD (R221, R227). -/
def State.spansFail (s : State) (spans : List (W64 × Nat)) : Option (Cause × W64) :=
  let bad (c : Cause) := spans.find? fun p => match s.ownSpan p.1 64 p.2 with | .error e => e == c | .ok _ => false
  match bad .badspace with
  | some p => some (.badspace, p.1)
  | none => (bad .world).map fun p => (.world, p.1)

/-- MMA and MMAC at issue (R227): the tests in order, the pop, the binding, and the reads of the issue cycle
(R222). Where hd and hs are both read and both unbound, ACCHANDLE names hd. DESIGN CHOICE: log entry 86. -/
def State.issueMma (s : State) (complex : Bool) (hd : BitVec 4) (a : ASrc) (ab : BitVec 5) (acc : Bool) : Out :=
  let slotA : Bool := match a with | .slot _ => true | _ => false
  let group : Bool := match a with | .vec v => decide (378 < v.toNat) | _ => false
  if s.cyc < s.me.pipe.mmaFree then .next (s.trapWord .illop)
  else if group then .next (s.trapWord .illreg)
  else match s.me.regs.fq with
    | [] => .next (s.trap .fmtunder 0 0)
    | w :: rest => match parseFormat w slotA complex with
      | none => .next (s.trapWord .illop)
      | some f =>
        if acc && (s.me.slotOf hd).isNone then .next (s.trapHandle .acchandle hd)
        else
          let hs := match a with | .slot h => s.me.slotOf h | _ => some 0
          match hs with
          | none => .next (s.trapHandle .acchandle (match a with | .slot h => h | _ => 0))
          | some ht => match s.spansFail (mmaSpans s f a ab) with
            | some (c, p) => .next (s.trapPtr c p)
            | none => match s.bindFor hd with
              | none => .next (s.trapHandle .accexh hd)
              | some (s1, t) =>
                let pass := passOf f complex
                let u : IssueUndo := { strm := .x, issue := s.cyc, popped := some w, bound := none, pushed := none }
                let s2 := s1.modMe fun c =>
                  { c with regs := { c.regs with fq := rest }
                           pipe := { c.pipe with undo := c.pipe.undo ++ [u], mmaFree := c.sp.cyc + pass } }
                let aptr := match a with | .t0 aa => s.ra aa | _ => 0
                let abytes := match a with
                  | .t0 _ => s.bytesAt s.own (ptrOff aptr) 6144
                  | .vec v => (List.range 6).flatMap fun j => (s.me.readV (v + BitVec.ofNat 9 j)).toList
                  | .slot _ => []
                let s3 := match a with | .t0 _ => s2.readOwn (ptrOff aptr) 6144 | _ => s2
                let tile := match a with | .slot _ => s.me.tile ht | _ => Tile.zero
                .next (s3.latch (pass + 10) (.xword t [aptr, s.ra ab] w abytes [] [] [] tile))

def execMma (hd : BitVec 4) (a : ASrc) (ab : BitVec 5) (acc : Bool) (s : State) : Out := s.issueMma false hd a ab acc
def execMmac (hd : BitVec 4) (a : ASrc) (ab : BitVec 5) (acc : Bool) (s : State) : Out := s.issueMma true hd a ab acc

/-! ## Tile and element words (R228-R233) -/

/-- ACZ (R228). -/
def execAcz (hd : BitVec 4) (s : State) : Out :=
  match s.bindFor hd with
  | none => .next (s.trapHandle .accexh hd)
  | some (s, t) => .next (s.latch 1 (.tile t Tile.zero))

/-- ACLD reads sixteen lines a cycle for twenty cycles (R228). -/
def execAcld (hd : BitVec 4) (aa : BitVec 5) (s : State) : Out :=
  match s.ownSpan (s.ra aa) 64 20480 with
  | .error c => .next (s.trapPtr c (s.ra aa))
  | .ok off => match s.bindFor hd with
    | none => .next (s.trapHandle .accexh hd)
    | some (s1, t) =>
      .next ((s1.readOwn off 1024).latch 24 (.xword t [s.ra aa, 0] 0 (s.bytesAt s.own off 1024) [] [] [] Tile.zero))

/-- ACST reads its slot whole at issue; with .rel it unbinds the handle (R214, R228). -/
def execAcst (hd : BitVec 4) (aa : BitVec 5) (rel : Bool) (s : State) : Out :=
  match s.me.slotOf hd with
  | none => .next (s.trapHandle .acchandle hd)
  | some t => match s.ownSpan (s.ra aa) 64 20480 with
    | .error c => .next (s.trapPtr c (s.ra aa))
    | .ok off =>
      let s1 := s.latch 5 (.tileStore off (s.me.tile t) rel)
      if rel then
        .next ((s1.latch (s.me.releaseLat t 24) (.release t)).modMe fun c => c.unbind hd)
      else .next s1

/-- ACREL (R214, R228). -/
def execAcrel (hd : BitVec 4) (s : State) : Out :=
  match s.me.slotOf hd with
  | none => .next (s.trapHandle .acchandle hd)
  | some t =>
    .next ((s.latch (s.me.releaseLat t 1) (.release t)).modMe fun c => c.unbind hd)

/-- ACADD (R228): both slots read whole at issue, one rounding to nearest an element. Where both are unbound ACCHANDLE
names hd. DESIGN CHOICE: log entry 86. -/
def execAcadd (hd hs : BitVec 4) (s : State) : Out :=
  match s.me.slotOf hd, s.me.slotOf hs with
  | none, _ => .next (s.trapHandle .acchandle hd)
  | _, none => .next (s.trapHandle .acchandle hs)
  | some t, some u =>
    let rs := Array.ofFn fun (n : Fin 4096) =>
      roundSum fmtW40 .rn [w40Value ((s.me.tile t)[n]), w40Value ((s.me.tile u)[n])]
    .next (s.latch 8 (.tile t (Vector.ofFn fun n => BitVec.ofNat 40 ((rs[n.val]?).getD (0, 0)).1))
      (rs.foldl (fun a x => a ||| x.2) 0))

/-- ACCPY (R228): the destination gets the tile as the source stood at issue, also where the two are one slot.
DESIGN CHOICE: log entry 87. -/
def execAccpy (hd hs : BitVec 4) (s : State) : Out :=
  match s.me.slotOf hs with
  | none => .next (s.trapHandle .acchandle hs)
  | some u => match s.bindFor hd with
    | none => .next (s.trapHandle .accexh hd)
    | some (s1, t) => .next (s1.latch 8 (.tile t (s.me.tile u)))

/-- ACRD (R229): eight rows as FP32 lanes. A magnitude that rounds above the FP32 maximum gives infinity, with OF and NX.
DESIGN CHOICE: log entry 98. -/
def execAcrd (hd : BitVec 4) (vd : BitVec 9) (row : BitVec 6) (s : State) : Out :=
  if beyond vd then .next (s.trapWord .illreg)
  else match s.me.slotOf hd with
    | none => .next (s.trapHandle .acchandle hd)
    | some t =>
      let rs := Array.ofFn fun (n : Fin 512) => fmtF32.put .rn false (w40Value (tileAt (s.me.tile t) (row.toNat + n.val / 64) (n.val % 64)))
      .next (s.latch 12 (.vec vd (packElems .f32 (rs.map (·.1))) MReg.ones true) (rs.foldl (fun a x => a ||| x.2) 0))

/-- The pair hi, lo of R230 for the terms of a row or column. -/
def sumPair (xs : List FVal) : (Nat × FlagSet) × (Nat × FlagSet) :=
  let e := exactSum xs .rn
  let hi := fmtF32.put .rn false e.1
  let lo : Nat × FlagSet := match e.1, fmtF32.decode hi.1 with
    | .fin m x, .fin n y => roundSum fmtF32 .rn [.fin m x, .fin (-n) y]
    | .fin m x, .zero _ => fmtF32.put .rn false (.fin m x)
    | _, _ => (0, 0)
  ((hi.1, hi.2 ||| e.2), lo)

/-- ACSUM (R230). -/
def execAcsum (hd : BitVec 4) (vd : BitVec 9) (col : Bool) (s : State) : Out :=
  if 383 ≤ vd.toNat then .next (s.trapWord .illreg)
  else match s.me.slotOf hd with
    | none => .next (s.trapHandle .acchandle hd)
    | some t =>
      let c := s.me.tile t
      let rs := Array.ofFn fun (m : Fin 64) =>
        sumPair ((List.range 64).map fun j => w40Value (if col then tileAt c j m.val else tileAt c m.val j))
      let fl := rs.foldl (fun a x => a ||| x.1.2 ||| x.2.2) 0
      let hi := packElems .f32 (rs.map (·.1.1))
      let lo := packElems .f32 (rs.map (·.2.1))
      .next ((s.latch 16 (.vec vd hi MReg.ones true) fl).latch 16 (.vec (vd + 1) lo MReg.ones true))

/-- ACSET (R231). -/
def execAcset (hd : BitVec 4) (vs : BitVec 9) (row col : BitVec 6) (s : State) : Out :=
  if beyond vs then .next (s.trapWord .illreg)
  else match s.me.slotOf hd with
    | none => .next (s.trapHandle .acchandle hd)
    | some t =>
      let v := s.me.readV vs
      let r := roundSum fmtW40 .rn [fmtF32.decode (elemAt .f32 v 0), fmtF32.decode (elemAt .f32 v 1)]
      .next (s.latch 2 (.elem t (64 * row.toNat + col.toNat) (BitVec.ofNat 40 r.1)) r.2)

/-- ACFLIP needs the debug privilege of its context (R150, R232). -/
def execAcflip (hd : BitVec 4) (row col bit : BitVec 6) (s : State) : Out :=
  if !s.me.attr.debug then .next (s.trapWord .illop)
  else match s.me.slotOf hd with
    | none => .next (s.trapHandle .acchandle hd)
    | some t =>
      let e := tileAt (s.me.tile t) row.toNat col.toNat
      .next (s.latch 2 (.elem t (64 * row.toNat + col.toNat) (e ^^^ (1#40 <<< bit.toNat))))

/-- XKAT reads its slot whole at issue and twenty lines of the image a cycle for sixteen cycles (R233). -/
def execXkat (hd : BitVec 4) (aa : BitVec 5) (s : State) : Out :=
  match s.me.slotOf hd with
  | none => .next (s.trapHandle .acchandle hd)
  | some t => match s.ownSpan (s.ra aa) 64 20480 with
    | .error c => .next (s.trapPtr c (s.ra aa))
    | .ok off =>
      .next ((s.readOwn off 1280).latch 16
        (.compare true hd.toNat off (s.bytesAt s.own off 1280) (Tile.image (s.me.tile t))))

end Sys2Proof.Machine
end

