-- ==== Sys2Proof/Machine/Segment.lean ====
section
/-! DEFINITION. Compressed segments: header, tests and expansion (R61-R66). -/

namespace Sys2Proof.Machine

/-- A segment header (R62). -/
structure SegHead where
  xpt : Nat
  fmt : Nat
  sliced : Bool
  nblk : Nat
  resv : Bool
  check : Nat
  next : Nat
  voff : Nat
deriving DecidableEq, Repr

/-- The header in 16 bytes. -/
def SegHead.ofBytes (bs : List Byte) : SegHead :=
  let w0 := BitVec.ofNat 64 (leValue (bs.take 8))
  let w1 := BitVec.ofNat 64 (leValue ((bs.drop 8).take 8))
  let f (w : W64) (lo len : Nat) : Nat := (w.extractLsb' lo len).toNat
  { xpt := f w0 62 2, fmt := f w0 58 4, sliced := w0.getLsbD 57, nblk := f w0 44 13,
    resv := f w0 32 12 != 0 || f w0 0 16 != 0, check := f w0 16 16, next := f w1 32 32, voff := f w1 0 32 }

/-- The element format of FMT. -/
def segFmt (n : Nat) : Option MxFmt :=
  match n with
  | 0 => some .e4m3 | 1 => some .e5m2 | 2 => some .e2m1 | 3 => some .int8 | 4 => some .int4 | 5 => some .log6
  | _ => none

/-- Element width of a segment; LOG6 codes take six bits (R61). -/
def segWidth (f : MxFmt) : Nat := match f with | .log6 => 6 | .e2m1 | .int4 => 4 | _ => 8

/-- NBLK, with a value above 4,096 taken as 0 (R252). -/
def SegHead.blocks (h : SegHead) : Nat := if h.nblk ≤ 4096 then h.nblk else 0

/-- Element width by FMT; a reserved format has none. -/
def SegHead.width (h : SegHead) : Nat := match segFmt h.fmt with | some f => segWidth f | none => 0

/-- Bytes of the value array. -/
def SegHead.valueBytes (h : SegHead) : Nat := 4 * h.width * h.blocks

/-- Bytes from the header to the end of the value array (R252). -/
def SegHead.span (h : SegHead) : Nat := h.voff + h.valueBytes

/-- The least precision (R63). -/
def leastQ (f : MxFmt) : Nat := match f with | .e4m3 => 5 | .e5m2 => 6 | _ => 3

/-- The sum of little-endian halfwords, an odd last byte standing alone (R62). -/
def halfSum : List Byte → Nat
  | [] => 0
  | [a] => a.toNat
  | a :: b :: rest => a.toNat + 256 * b.toNat + halfSum rest

/-- The tests of R66 but for CHECK; q = 0 reads all planes. DEDUCED: log entry 36. -/
def SegHead.bad (h : SegHead) (level q : Nat) : Bool :=
  match segFmt h.fmt with
  | none => true
  | some f =>
    (h.sliced && (f == .int8 || f == .int4 || f == .log6))
      || (h.sliced && q != 0 && q < segWidth f && q < leastQ f)
      || h.nblk == 0 || 4096 < h.nblk || h.resv || decide (h.voff < 16 + h.nblk) || decide (h.xpt < level)

/-- CHECK matches the scale and value arrays (R62), summed apart, each odd last byte as its own halfword.
DESIGN CHOICE: log entry 75. -/
def SegHead.checks (h : SegHead) (scales values : List Byte) : Bool :=
  (halfSum scales + halfSum values) % 65536 == h.check

/-- The code of element i of a block of 4w bytes, with the planes from q on cleared (R61, R63). -/
def segCode (sliced : Bool) (w q : Nat) (block : Array Byte) (i : Nat) : Nat :=
  let bit (n : Nat) : Bool := ((block[n / 8]?).getD 0).getLsbD (n % 8)
  let code := (List.range w).foldl (fun acc p =>
    -- p counts from the most significant bit of the element
    let b := if sliced then bit (32 * p + i) else bit (w * i + (w - 1 - p))
    2 * acc + (if b && !(sliced && q != 0 && q ≤ p) then 1 else 0)) 0
  code

/-- The output formats of an expander: 1 BF16, 2 FP16, 3 FP32 (R253, R239). -/
def expFmt (out : Nat) : Fmt := if out = 1 then fmtBF16 else if out = 2 then fmtF16 else fmtF32

/-- Bytes of an output element. -/
def expBytes (out : Nat) : Nat := if out = 3 then 4 else 2

/-- The output bytes of n blocks (R65). -/
def SegHead.expand (h : SegHead) (out q n : Nat) (scales values : List Byte) : List Byte :=
  match segFmt h.fmt with
  | none => []
  | some f =>
    let w := segWidth f
    let sa := scales.toArray
    let va := values.toArray
    (List.range n).flatMap fun b =>
      let block := va.extract (4 * w * b) (4 * w * (b + 1))
      let scale := ((sa[b]?).getD 0).toNat
      (List.range 32).flatMap fun i =>
        leBytes (expBytes out) ((expFmt out).put .rn false (mxValue f scale (segCode h.sliced w q block i))).1

end Sys2Proof.Machine
end

