-- ==== Sys2Proof/Machine/MoveOps.lean ====
section
/-! DEFINITION. The M stream at issue (R235-R247, R260-R267): terrace 0 loads and stores, landings, copy commands,
atomics, stamps, fences and captures. What a landing, an atomic, a stamp or a capture does later stands in PortOps and
RingOps. -/

namespace Sys2Proof.Machine

/-! ## Terrace 0 (R237, R238) -/

namespace State

/-- A terrace 0 load: it asks for its banks, touches guards, and reads the bytes of its issue cycle. -/
def ownLoad (s : State) (aa : BitVec 5) (off : BitVec 28) (n : Nat) : Except (Cause × W64) (State × List Byte) :=
  match s.accessOff .tld (s.ra aa) off.toInt n with
  | .error e => .error e
  | .ok (.place pl o, _) => .ok (s.ownRead o n, s.bytesAt pl o n)
  | .ok (_, p) => .error (.badspace, p)

/-- An access that a core's running task issues at a cycle joins the memory port; it performs after a free delay
(R33, R50). DESIGN CHOICE: log entry 6. -/
def accessOf (s : State) (c : Core) (id : Nat) (k : AccKind) (p : W64) (issue : Nat) : Access :=
  { id := id, kind := k, ptr := p, issue := issue, slot := c.slot, ctxid := c.ctxid, world := c.secure,
    due := s.now + Config.delay .port id, held := none, reason := 0, addr := 0, order := 0, freezes := false,
    handed := false, ended := false, framed := false, first := none, under := [], ask := none, hurried := false,
    owes := false }

/-- A new access of the word in focus. -/
def newAccess (s : State) (id : Nat) (k : AccKind) (p : W64) : Access := s.accessOf s.me id k p s.cyc

/-- The access joins the memory port under a fresh id. -/
def portAdd (s : State) (k : AccKind) (p : W64) : State :=
  (s.modMe fun c => { c with mem := { c.mem with port := c.mem.port ++ [s.newAccess s.serial k p] } }).bump

/-- A terrace 0 store: banks at issue + 3, performed at issue + 4. -/
def ownStore (s : State) (aa : BitVec 5) (off : BitVec 28) (bs : List (Byte × Bool)) (scalar : Bool) : Out :=
  match s.accessOff .tld (s.ra aa) off.toInt bs.length with
  | .error (c, p) => .next (s.trapPtr c p)
  | .ok (.place _ o, p) => .next ((s.portAdd (.store bs.length) p).latch 4 (.store o bs scalar))
  | .ok (_, p) => .next (s.trapPtr .badspace p)

end State

def execTld (vd : BitVec 9) (aa : BitVec 5) (off : BitVec 28) (s : State) : Out :=
  if beyond vd then .next (s.trapWord .illreg)
  else match s.ownLoad aa off 2048 with
    | .error (c, p) => .next (s.trapPtr c p)
    | .ok (s1, bs) => .next (s1.latch 6 (.vec vd (VReg.ofBytes bs) MReg.ones true))

def execTlds (sd : BitVec 6) (aa : BitVec 5) (off : BitVec 28) (s : State) : Out :=
  match s.ownLoad aa off 8 with
  | .error (c, p) => .next (s.trapPtr c p)
  | .ok (s1, bs) => .next (s1.latchS 5 sd (w64 (leValue bs)))

def execTldk (kd : BitVec 4) (aa : BitVec 5) (off : BitVec 28) (s : State) : Out :=
  match s.ownLoad aa off 256 with
  | .error (c, p) => .next (s.trapPtr c p)
  | .ok (s1, bs) => .next (s1.latch 6 (.msk kd (MReg.ofBytes bs) MReg.ones true))

def execTst (vs : BitVec 9) (aa : BitVec 5) (k : BitVec 4) (off : BitVec 28) (s : State) : Out :=
  if beyond vs then .next (s.trapWord .illreg)
  else s.ownStore aa off ((s.me.readV vs).toList.zip (s.me.readK k).toList) false

def execTsts (ss : BitVec 6) (aa : BitVec 5) (off : BitVec 28) (s : State) : Out :=
  s.ownStore aa off ((leBytes 8 (s.rs ss).toNat).map fun b => (b, true)) true

/-! ## Landings (R47, R239, R241) -/

namespace State

/-- The landing buffer holds 64 entries (R47). -/
def landFull (s : State) : Bool := 64 ≤ s.me.mem.landings.length

/-- A landing-buffer entry of the word in focus, with its arrival offset and the operands of an ATOM. -/
def newLanding (s : State) (id : Nat) (k : LandKind) (src : W64) (arr : Nat) (opnds : W64 × W64) : Landing :=
  { id := id, kind := k, source := src, issue := s.cyc, arrive := s.cyc + arr, value := none, ready := 0,
    poison := false, faulted := false, faux := 0, counted := false, late := none, word := s.focus.word, opnds := opnds }

/-- The word takes a landing-buffer entry and a place in the memory port. -/
def landVia (s : State) (k : LandKind) (a : AccKind) (p : W64) (arr : Nat) (opnds : W64 × W64 := (0, 0)) : Out :=
  if s.landFull then .next (s.trapWord .landfull)
  else
    let l := s.newLanding s.serial k p arr opnds
    .next ((s.modMe fun c => { c with mem := { c.mem with landings := c.mem.landings ++ [l] } }).portAdd a p)

/-- The 16 bytes that stand where a segment header is expected, for a context, as a landing would read them (R236). -/
def headBytes (s : State) (id : BitVec 16) (t : Target) : List Byte :=
  match t with
  | .place pl off => s.seen.bytesAt pl off 16
  | .global va => match (s.ctx? id).bind fun x => s.whereIs x va with
    | some (pl, pa) => s.seen.bytesAt pl pa 16
    | none => []
  | _ => []

/-- The bytes that an expanding landing spans, by the header that stands there now: the header alone where the segment
is malformed, else the whole segment, and 2,048 bytes where XPT is 3 (R235, R241). DEDUCED: log entry 28. -/
def landSpan (s : State) (id : BitVec 16) (p : W64) (t : Target) : Nat :=
  let h := SegHead.ofBytes (s.headBytes id t)
  if ptrOff p % 16 != 0 || h.bad 2 0 then 16
  else max (max 16 h.span) (if h.xpt = 3 then 2048 else 0)

end State

/-- LAND: an expanding landing tests every byte of its segment at issue (R235, R241). DEDUCED: log entry 28. -/
def execLand (vd : BitVec 9) (aa : BitVec 5) (off : BitVec 18) (arr : BitVec 10) (xf : BitVec 2) (s : State) : Out :=
  if beyond vd then .next (s.trapWord .illreg)
  else match s.accessOff .land (s.ra aa) (64 * off.toInt) (if xf = 0 then 2048 else 16) with
    | .error (c, p) => .next (s.trapPtr c p)
    | .ok (t, p) =>
      let n := if xf = 0 then 2048 else s.landSpan s.me.ctxid p t
      match s.access .land p n with
      | .error c => .next (s.trapPtr c p)
      | .ok _ => s.landVia (.land vd xf) (.read xf n) p arr.toNat

def execLands (sd : BitVec 6) (aa : BitVec 5) (off : BitVec 18) (arr : BitVec 10) (s : State) : Out :=
  match s.accessOff .land (s.ra aa) (64 * off.toInt) 8 with
  | .error (c, p) => .next (s.trapPtr c p)
  | .ok (_, p) => s.landVia (.lands sd) (.read 0 8) p arr.toNat

/-! ## Copy commands (R242, R243) -/

/-- The engine operand. -/
def State.engineOf (s : State) (e : EngSrc) : W64 × Bool :=
  match e with | .imm n => (n.setWidth 64, false) | .reg b => (s.rs b, true)

/-- COPY and CSTAT test aa at issue and the engine at issue + 2. -/
def State.toEngine (s : State) (sd : BitVec 6) (aa : BitVec 5) (e : EngSrc) (copy : Bool) : Out :=
  match s.ownSpan (s.ra aa) 32 32 with
  | .error c => .next (s.trapPtr c (s.ra aa))
  | .ok off => .next (s.latch 2 (.engineTest sd (s.engineOf e).1 (s.engineOf e).2 off copy))

def execCopy (sd : BitVec 6) (aa : BitVec 5) (e : EngSrc) (s : State) : Out := s.toEngine sd aa e true
def execCstat (sd : BitVec 6) (aa : BitVec 5) (e : EngSrc) (s : State) : Out := s.toEngine sd aa e false

/-! ## Atomics, reductions, stamps, fences (R244-R247) -/

/-- The tests of an aligned access at aa: its space and alignment before its world (R244, R261). -/
def State.aligned (s : State) (u : Use) (p : W64) (n : Nat) : Option Cause :=
  match s.access u p n with
  | .error c => some (if ptrOff p % n = 0 then c else .badspace)
  | .ok _ => if ptrOff p % n = 0 then none else some .badspace

/-- Width in bytes of an atomic. -/
def atomBytes (wide : Bool) : Nat := if wide then 8 else 4

def execAtom (sd : BitVec 6) (aa : BitVec 5) (sb sc : BitVec 6) (op : AtomOp) (wide : Bool) (arr : BitVec 10)
    (s : State) : Out :=
  match s.aligned .atom (s.ra aa) (atomBytes wide) with
  | some c => .next (s.trapPtr c (s.ra aa))
  | none =>
    s.landVia (.atom sd) (.atom op wide (s.rs sb) (s.rs sc)) (s.ra aa) arr.toNat (s.rs sb, s.rs sc)

def execRed (aa : BitVec 5) (sb : BitVec 6) (op : AtomOp) (wide : Bool) (s : State) : Out :=
  match s.aligned .atom (s.ra aa) (atomBytes wide) with
  | some c => .next (s.trapPtr c (s.ra aa))
  | none => .next (s.portAdd (.red op wide (s.rs sb)) (s.ra aa))

def execStamp (aa : BitVec 5) (sb : BitVec 6) (s : State) : Out :=
  match s.aligned .stamp (s.ra aa) 8 with
  | some c => .next (s.trapPtr c (s.ra aa))
  | none => .next (s.portAdd (.stamp (s.rs sb)) (s.ra aa))

/-- FENCE stands in the port among the accesses it orders; it never stops issue (R247). -/
def execFence (sc : Scope) (k : FenceKind) (s : State) : Out :=
  if s.me.mem.port.isEmpty then .next s else .next (s.portAdd (.fence sc k) 0)

/-! ## Captures (R260-R267) -/

/-- FAUX of RINGFAULT (R84). -/
def ringFaux (cyc track slot reason : Nat) : W64 := w64 (cyc % 2 ^ 32 * 2 ^ 32 + track * 2 ^ 17 + slot * 2 ^ 7 + reason)

/-- What a capture word asks for. -/
structure CapReq where
  op : CapOp
  track : BitVec 3
  find : CapFind
  wd : BitVec 3
  b : W64
  e : W64
  arr : Nat
  kind : LandKind

namespace State

/-- How a capture finds its slot. -/
def capFind (s : State) (n : SlotName) : CapFind :=
  match n with
  | .index i => .index ⟨i.toNat, i.isLt⟩
  | .key k => .key ((s.rs k).setWidth 32)

/-- Tests 1, 2 and 4 of R261, with test 3 given; TRACK and SLOT of RINGFAULT are zero for a keyed capture (R85), and a QBRD,
which is none, has no slot yet. -/
def capFail (s : State) (q : CapReq) (third : Option Cause) (ptr : W64) : Option State :=
  if s.ring.secure[q.track.toNat]'q.track.isLt && !s.me.secure then some (s.trap .world 0 s.focus.word)
  else if s.me.view.stationLost || s.cairn.stationLost[s.focus.rank] then
    some (s.trap .ringfault 0 (match q.find with
      | .index i => ringFaux s.cyc q.track.toNat i.val 2
      | .firstFree _ => ringFaux s.cyc q.track.toNat 0 2
      | .key _ => ringFaux s.cyc 0 0 2))
  else match third with
    | some c => some (s.trapPtr c ptr)
    | none => if s.landFull then some (s.trapWord .landfull) else none

/-- The captures and QALT writes of the last QFENCE that are still outstanding (R267). -/
def heldBy (s : State) : List Nat :=
  s.me.mem.qwaits.filter fun i =>
    s.me.mem.captures.any (fun c => c.id == i) || s.me.mem.port.any (fun a => a.id == i)

/-- The capture stands at the station, ready at issue + 2 (R73), and holds a landing-buffer entry (R76). -/
def capAdd (s : State) (q : CapReq) : State :=
  let k : Capture :=
    { id := s.serial, op := q.op, track := ⟨q.track.toNat, q.track.isLt⟩, find := q.find,
      wd := ⟨q.wd.toNat, q.wd.isLt⟩, b := q.b, e := q.e, ctxid := s.me.ctxid, world := s.me.secure,
      ready := s.now + 2, examined := 0, waits := s.heldBy, parked := false }
  let l := s.newLanding s.serial q.kind s.focus.word q.arr (0, 0)
  (s.modMe fun c => { c with mem := { c.mem with
      captures := c.mem.captures ++ [k], landings := c.mem.landings ++ [l] } }).bump

/-- A payload capture at issue. -/
def capture (s : State) (op : CapOp) (x : QArgs) (kind : LandKind) : Out :=
  let q : CapReq :=
    { op := op, track := x.trk, find := s.capFind x.name, wd := x.wd, b := s.rs x.sb, e := s.rs x.sa,
      arr := x.arr.toNat, kind := kind }
  match s.capFail q none 0 with
  | some t => .next t
  | none => .next (s.capAdd q)

end State

def execQrd (x : QArgs) (s : State) : Out := s.capture .rd x (.capture x.sd true false)
def execQwr (x : QArgs) (s : State) : Out := s.capture .wr x (.capture 0 false false)
def execQadd (x : QArgs) (s : State) : Out := s.capture .add x (.capture x.sd true false)
def execQmin (x : QArgs) (s : State) : Out := s.capture .min x (.capture x.sd true false)
def execQmax (x : QArgs) (s : State) : Out := s.capture .max x (.capture x.sd true false)
def execQor (x : QArgs) (s : State) : Out := s.capture .or x (.capture x.sd true false)
def execQxchg (x : QArgs) (s : State) : Out := s.capture .xchg x (.capture x.sd true false)
def execQcas (x : QArgs) (s : State) : Out := s.capture .cas x (.capture x.sd true false)

/-- QBRD: its key is sa, its word sb (R265). -/
def execQbrd (sd : BitVec 6) (trk : BitVec 3) (sa sb : BitVec 6) (wd : BitVec 3) (arr : BitVec 11) (s : State) : Out :=
  let q : CapReq :=
    { op := .brd, track := trk, find := .firstFree ((s.rs sa).setWidth 32), wd := wd, b := s.rs sb, e := 0,
      arr := arr.toNat, kind := .capture sd false true }
  match s.capFail q none 0 with
  | some t => .next t
  | none => .next (s.capAdd q)

/-- QALT: test 3 of R261 on its address; its write takes its place in the memory port now (R266). -/
def execQalt (sd : BitVec 6) (trk : BitVec 3) (name : SlotName) (aa : BitVec 5) (arr : BitVec 11) (s : State) : Out :=
  let q : CapReq :=
    { op := .alt, track := trk, find := s.capFind name, wd := 0, b := 0, e := 0, arr := arr.toNat,
      kind := .capture sd false true }
  match s.capFail q (s.aligned .qalt (s.ra aa) 64) (s.ra aa) with
  | some t => .next t
  | none => .next ((s.capAdd q).portAdd (.qalt none) (s.ra aa))

/-- QFENCE: later captures wait for the captures and QALT writes outstanding now (R267). -/
def execQfence (s : State) : Out :=
  .next (s.modMe fun c =>
    { c with mem := { c.mem with
        qwaits := c.mem.captures.map (·.id)
          ++ (c.mem.port.filter fun a => match a.kind with | .qalt _ => true | _ => false).map (·.id) } })

end Sys2Proof.Machine
end

