-- ==== Sys2Proof/Machine/PortOps.lean ====
section
/-! DEFINITION. What a core's memory port does after issue (R236, R239-R247, R266): landings read their source,
atomics and reductions perform at the word's home, stamps and alighted payloads are written; GLOBAL addresses go through
a map unit of the core's die, and an access whose walk fails is held (R349). -/

namespace Sys2Proof.Machine

/-- What an admitted tagged pointer names; the tests of R36 were made when it was issued. -/
def targetOf (p : W64) : Target :=
  match ptrSpace p with
  | 1 => .global (ptrOff p)
  | 2 => .place (.t0 (ptrRank p)) (ptrOff p)
  | 7 => .remote (bits p 47 12) (bits p 0 47)
  | 8 => .barrier (ptrRank p) (ptrOff p / 8)
  | 10 => .place .host (ptrOff p)
  | _ => .place (.layer (layerOf p)) (ptrOff p)

/-- A pointer with its offset advanced. -/
def ptrPlus (p : W64) (n : Nat) : W64 := ptrAdd p (n : Nat)

/-- A target lies in a lost layer (R386). -/
def State.lostTarget (s : State) (t : Target) : Bool :=
  match t with
  | .place (.layer e) _ => match s.cairn.layers[e]? with | some l => l.state == 2 | none => true
  | _ => false

/-- The start of the bytes that a read or write reaches, or why it does not. -/
inductive Reach where
  | bytes (bs : List Byte)
  | lost
  | foreign
  /-- REASON, whether a table read failed, and the pointer of the first byte that fails -/
  | fault (reason : Nat) (table : Bool) (ptr : W64)
deriving DecidableEq, Repr

namespace State

/-- The first live port of a package's route, in order of preference (R399). -/
def routePort (s : State) (pkg : Nat) : Option (Fin 16) :=
  match s.mgmt.routes[pkg]? with
  | none => none
  | some w => (List.range 4).findSome? fun k =>
      (List.finRange 16).find? fun p => bits (w.setWidth 64) (8 * k) 8 == p.val && s.cairn.port.getLsbD p.val

/-- A package number has a live route, or is this package's own (R399, R401). -/
def routeLive (s : State) (pkg : Nat) : Bool := pkg == s.mgmt.number.toNat || (s.routePort pkg).isSome

/-- Flits that bytes take: 240 bytes to a flit, and one at least (R398). -/
def flitCount (bs : List Byte) : Nat := max 1 ((bs.length + 239) / 240)

/-- What goes to another package leaves by the first live port of its route, and stands in that port's replay buffer until
it is acknowledged (R398, R399). -/
def passOn (s : State) (x : SentFlit) : State :=
  match s.routePort x.dest with
  | none => s
  | some p =>
    let f : SentFlit := { x with port := p }
    { s with
      sent := s.sent ++ [f]
      links := vecMod s.links p.val fun l => { l with flits := l.flits + flitCount x.bytes, unacked := l.unacked ++ [f] } }

/-- Bytes, or what is asked for them, leave this package for another (R398, R401). -/
def sendFlit (s : State) (pkg : Nat) (kind : FlitKind) (id : BitVec 16) (world : Bool) (off : Nat) (bs : List Byte) : State :=
  s.passOn { dest := pkg, src := s.mgmt.number.toNat, port := 0, kind := kind, ctxid := id, world := world, off := off, bytes := bs }

/-- The world in which a context's accesses go out (R401). -/
def worldOf (s : State) (id : BitVec 16) : Bool := match s.ctx? id with | some x => x.secure | none => false

/-- The map unit keeps the leaves of a translated span (R348). -/
def cacheSpan (s : State) (eng : Option (Fin 96)) (x : Context) (va n : Nat) (ps : List (Place × Nat × Nat × Leaf)) :
    State :=
  ((s.spanPieces eng x va n).zip ps).foldl (fun acc q => acc.cacheLeaf eng x.id q.1.1 q.2.2.2.2) s

/-- Bytes read from a target through a map unit, with the leaves cached (R348). DESIGN CHOICE: log entry 16. -/
def readAt (s : State) (eng : Option (Fin 96)) (id : BitVec 16) (p : W64) (n : Nat) : State × Reach :=
  match targetOf p with
  | .place .host off => (s, .bytes (memReadN s.mem (Place.host.key off) n))
  | .place pl off => if s.lostTarget (.place pl off) then (s, .lost) else (s, .bytes (s.seen.bytesAt pl off n))
  | .global va => match s.ctx? id with
    | none => (s, .fault 4 false p)
    | some x => match s.translateSpan eng x va n false with
      | .error (r, t, a) => (s, .fault r t (ptrPlus p (a - va)))
      | .ok ps => (s.cacheSpan eng x va n ps, .bytes (s.readPieces ps))
  | .remote pkg off =>
    if pkg = s.mgmt.number.toNat then
      match s.ctx? id with
      | none => (s, .fault 4 false p)
      | some x => match s.translateSpan eng x off n false with
        | .error (r, t, a) => (s, .fault r t (ptrPlus p (a - off)))
        | .ok ps => (s, .bytes (s.readPieces ps))
    else ((s.sendFlit pkg (.read n) id (s.worldOf id) off []).bump,
      .bytes ((List.range n).map fun j => Config.remoteByte s.serial (off + j)))
  | .barrier _ _ => (s, .bytes [])

/-- Bytes that are written hold poison no longer. DESIGN CHOICE: log entry 77. -/
def heal (s : State) (pl : Place) (off n : Nat) : State :=
  { s with poison := s.poison.filter fun k => !(decide (pl.key off ≤ k) && decide (k < pl.key off + n)) }

/-- The first line of T1-T4 with poison among n bytes that a pointer names, and its bank (R381). -/
def spoiltLine (s : State) (p : W64) (n : Nat) : Option (W64 × Nat) :=
  match targetOf p with
  | .place (.layer e) off =>
    if s.poison.isEmpty then none
    else ((List.range n).find? fun j => s.poison.contains ((Place.layer e).key (off + j))).map fun j =>
      (w64 (p.toNat / 2 ^ 50 * 2 ^ 50 + (off + j) / 128 * 128), bankOf (.layer e) (off + j))
  | _ => none

/-- Bytes written to a target where their enable is set; guard granules drop theirs (R45). -/
def writeAt (s : State) (eng : Option (Fin 96)) (id : BitVec 16) (p : W64) (bs : List (Byte × Bool)) : State × Reach :=
  let n := bs.length
  match targetOf p with
  | .place .host off =>
    (({ s with mem := memWriteEn s.mem (Place.host.key off) bs } : State).noteWrite .host off n, .bytes [])
  | .place pl off =>
    if s.lostTarget (.place pl off) then (s, .lost)
    else ((s.storeOver s.prot.guards pl off bs).heal pl off n, .bytes [])
  | .global va => match s.ctx? id with
    | none => (s, .fault 4 false p)
    | some x => match s.translateSpan eng x va n true with
      | .error (r, t, a) => (s, .fault r t (ptrPlus p (a - va)))
      | .ok ps => (((s.cacheSpan eng x va n ps).writePieces ps bs).noteWrites ps, .bytes [])
  | .remote pkg off =>
    if pkg = s.mgmt.number.toNat then
      match s.ctx? id with
      | none => (s, .fault 4 false p)
      | some x => match s.translateSpan eng x off n true with
        | .error (r, t, a) => (s, .fault r t (ptrPlus p (a - off)))
        | .ok ps => ((s.writePieces ps bs).noteWrites ps, .bytes [])
    else (s.sendFlit pkg .write id (s.worldOf id) off ((bs.filter (·.2)).map (·.1)), .bytes [])
  | .barrier _ _ => (s, .bytes [])

/-- Why the walk at another package fails, if it does: REASON, whether a table's read failed, and the pointer. What stands
there is not this package's, so each page ends as it may (R347, R401); only a write meets REASON 2.
DESIGN CHOICE: log entry 16. -/
def remoteWalk (s : State) (p : W64) (pkg off n : Nat) (write : Bool) : Option (Nat × Bool × W64) :=
  if pkg = s.mgmt.number.toNat then none
  else (pagePieces off n).findSome? fun q =>
    let k := Config.remoteWalk s.serial q.1
    if k % 6 = 0 ∨ (k % 6 = 2 ∧ write = false) then none
    else some (k % 6, k % 6 == 4 && k / 6 % 2 == 1, ptrPlus p (q.1 - off))

/-- Guard touches of a span named by a pointer, on behalf of a core and a context (R46). -/
def touchAt (s : State) (r : Nat) (id : BitVec 16) (p : W64) (n source : Nat) (write rel : Bool) : State :=
  match targetOf p with
  | .place pl off => s.touchSpan r id p pl off n source write rel
  | _ => s

end State

/-! ## Order in the port (R236, R246, R247) -/

/-- The access reads memory. -/
def AccKind.reads : AccKind → Bool
  | .read .. | .atom .. => true
  | _ => false

/-- Bytes the access spans, of an expanding landing as its issue found them. -/
def AccKind.span : AccKind → Nat
  | .read _ n => n
  | .atom _ w _ _ => atomBytes w
  | .red _ w _ => atomBytes w
  | .stamp _ => 8
  | .qalt _ => 64
  | .store n => n
  | .fence .. => 0

/-- Two spans of one place share a byte. -/
def overlap (x y : Place × Nat × Nat) : Bool :=
  x.1 == y.1 && decide (x.2.1 < y.2.1 + y.2.2 ∧ y.2.1 < x.2.1 + x.2.2)

/-- Bytes the access spans now: an expanding landing reaches what its header of this moment says (R236, R241).
DEDUCED: log entry 28. -/
def State.spanOf (s : State) (a : Access) : Nat :=
  match a.kind with
  | .read xf n => if xf = 0 then n else max n (s.landSpan a.ctxid a.ptr (targetOf a.ptr))
  | k => k.span

/-- A landing that expands (R241). -/
def AccKind.expands : AccKind → Bool
  | .read xf _ => xf != 0
  | _ => false

/-- The bytes that an access touches, wherever its pages place them (R236). -/
def State.bytesOf (s : State) (a : Access) : List (Place × Nat × Nat) :=
  let n := s.spanOf a
  let mapped (va : Nat) : List (Place × Nat × Nat) :=
    match s.ctx? a.ctxid with | some x => s.physical x va n | none => []
  match targetOf a.ptr with
  | .place pl off => [(pl, off, n)]
  | .global va => mapped va
  | .remote pkg off => if pkg = s.mgmt.number.toNat then mapped off else []
  | .barrier .. => []

/-- Two accesses touch a common byte, whatever their spaces: they name it by one kind of address, or their pages place
both on it (R236). -/
def State.meets (s : State) (a b : Access) : Bool :=
  let near (x y : Nat) : Bool := decide (x < y + s.spanOf b ∧ y < x + s.spanOf a)
  let same : Bool := match targetOf a.ptr, targetOf b.ptr with
    | .place p x, .place q y => p == q && near x y
    | .global x, .global y => a.ctxid == b.ctxid && near x y
    | .remote p x, .remote q y => p == q && a.ctxid == b.ctxid && near x y
    | _, _ => false
  s.spanOf a != 0 && s.spanOf b != 0
    && (same || (s.bytesOf a).any fun x => (s.bytesOf b).any fun y => overlap x y)

/-- A fence of this kind stands between the earlier access b and the later access a, and orders them (R247, R304).
DEDUCED: log entry 29. -/
def fenceHolds (k : FenceKind) (b a : Access) : Bool :=
  match k with
  | .acquire => b.kind.reads
  | .release => b.kind.writes && a.kind.writes
  | .sc => b.kind.reads || b.kind.writes

/-- Two accesses of one task slot's task. -/
def Access.sameTask (a b : Access) : Bool := a.slot == b.slot && a.ctxid == b.ctxid && !b.ended

/-- An earlier access b, with these accesses issued after it, must perform before a: they touch a common byte, or may come to
where b is an expanding landing and a writes; a is a STAMP and b a write; or a fence between them orders them (R236, R246,
R304). What a frame holds orders only its own task, and one that has met a lost layer is over. -/
def State.blocks (s : State) (b : Access) (between : List Access) (a : Access) : Bool :=
  (!b.framed || a.sameTask b) && !b.owes
    && (s.meets b a || (b.kind.expands && a.kind.writes)
      || (match a.kind with | .stamp _ => b.kind.writes | _ => false)
      || between.any fun f => match f.kind with | .fence _ k => fenceHolds k b a | _ => false)

/-- An access that has still to be performed by the port itself: not held, not with a link engine, not in a frame, no
terrace 0 store but one that other agents do not see yet, and no QALT whose capture has still to meet its slot. -/
def Access.waiting (a : Access) : Bool :=
  a.held.isNone && !a.handed && !a.framed
    && (match a.kind with | .store _ => !a.under.isEmpty | .fence .. | .qalt none => false | _ => true)

/-- An access waits for accesses issued before it. -/
def State.waits (s : State) : List Access → Access → Bool
  | [], _ => false
  | b :: rest, a => s.blocks b rest a || s.waits rest a

/-- The accesses that must perform before any of these, latest first: those of the port, given latest first with the
ones issued after each, that block one of them or one that must itself perform before them. -/
def State.ahead (s : State) : List Access → List Access → List Access → List Access
  | [], _, found => found
  | b :: earlier, after, found =>
    s.ahead earlier (b :: after)
      (if found.any fun a => s.blocks b (after.takeWhile fun x => x.id != a.id) a then found ++ [b] else found)

/-- Fences with nothing left to order leave the port. -/
def stripFences : List Access → List Access
  | [] => []
  | a :: rest => match a.kind with | .fence .. => stripFences rest | _ => a :: rest

namespace State

/-- An access has performed: it leaves the port, and what waited for it goes on from the next cycle (R177, R267). -/
def portDone (s : State) (r : Fin 288) (id : Nat) : State :=
  let s := s.modCore r fun c =>
    { c with mem := { c.mem with
        port := stripFences (c.mem.port.filter fun a => a.id != id)
        captures := c.mem.captures.map fun k =>
          if k.waits.contains id then
            { k with waits := k.waits.filter (· != id), ready := max k.ready (s.now + 1) } else k } }
  { s with adds := s.adds.map fun (x : BarrierAdd) =>
      if x.from_ == some r && x.after.contains id then
        let left := x.after.filter (· != id)
        { x with after := left, due := if left.isEmpty then max x.due (s.now + 1) else x.due }
      else x }

/-- A landing's value reaches the core. -/
def deliver (s : State) (r : Fin 288) (id : Nat) (v : LandValue) (ready : Nat) (poison : Bool) : State :=
  let put (l : Landing) : Landing := if l.id == id then { l with value := some v, ready := ready, poison := poison } else l
  s.modCore r fun c =>
    { c with mem := { c.mem with
        landings := c.mem.landings.map put
        orphans := c.mem.orphans.map fun o => (o.1, o.2.1, put o.2.2) } }

/-- A record of a core's access (R351, R409). -/
def coreRecord (s : State) (r : Fin 288) (a : Access) (cause : Byte) (reason akind : Nat) (held lost : Bool) (ptr : W64) :
    State :=
  let eng := match targetOf a.ptr with | .global _ => (mapUnit r).val | _ => 0xFF
  s.record a.ctxid
    { FaultRec.zero with cause := cause, src := 0, reason := reason, engine := eng, held := held, lost := lost,
                         akind := akind, rank := r.val, slot := a.slot.val, addr := ptr, detail := w64 a.issue }

/-- AKIND of an access (R351). -/
def akindOf (k : AccKind) (table : Bool) : Nat :=
  if table then 3 else match k with | .atom .. | .red .. => 2 | .read .. => 0 | _ => 1

/-- A walk failed: the access is held and freezes its core (R349); a landing or ATOM of a core that is stopped is
marked instead, its record naming the effective pointer (R362, R393, R409). -/
def holdAccess (s : State) (r : Fin 288) (a : Access) (reason : Nat) (table : Bool) (ptr : W64) : State :=
  let land := s.core r |>.mem.landings.any (fun l => l.id == a.id)
  let stopped := (s.core r).stop.isSome && land
  let at_ := if stopped then a.ptr else ptr
  let s1 := s.coreRecord r a Cause.xlate.code reason (akindOf a.kind table) (!stopped) false at_
  let faux := w64 ((s.genOf a.ctxid).toNat * 2 ^ 32 + reason * 16)
  if stopped then
    s1.modCore r fun c => { c with mem := { c.mem with
      landings := c.mem.landings.map fun l => if l.id == a.id then { l with faulted := true, faux := faux } else l
      port := c.mem.port.map fun x => if x.id == a.id then { x with framed := true, first := none } else x } }
  else
    s1.modCore r fun c => { c with mem := { c.mem with
      port := c.mem.port.map fun x =>
        if x.id == a.id then
          { x with held := some (s.genOf a.ctxid), reason := reason, addr := at_, order := s.serial, freezes := true }
        else x } }

/-- A landing of poison: its task consumes the error as it arrives (R367, R381). -/
def landSpoilt (s : State) (r : Fin 288) (a : Access) (q : W64 × Nat) : State :=
  ((s.deliver r a.id (.spoilt q.1 q.2) (s.now + Config.delay .port s.serial) false).bump).portDone r a.id

/-- The bytes of a landing whose source cannot be had (R66, R240): 0xFF, with one record. -/
def landPoison (s : State) (r : Fin 288) (a : Access) (n : Nat) (cause : Byte) (reason akind : Nat) (ptr : W64) : State :=
  ((s.coreRecord r a cause reason akind false false ptr).deliver r a.id
    (.bytes (List.replicate n 0xFF)) s.now true).portDone r a.id

/-- An access meets a lost layer: a landing or ATOM has 0xFF at once, a write is dropped, and one record is owed; nothing waits
for the place of the record but the record (R350, R386). -/
def meetLost (s : State) (r : Fin 288) (a : Access) : State :=
  let s1 := match a.kind with
    | .read xf n => s.deliver r a.id (.bytes (List.replicate (if xf = 0 then n else 2048) 0xFF)) s.now false
    | .atom .. => s.deliver r a.id (.bytes (List.replicate 8 0xFF)) s.now false
    | _ => s
  s1.modCore r fun c => { c with mem := { c.mem with
    port := c.mem.port.map fun x => if x.id == a.id then { x with owes := true, due := s.now } else x } }

/-- The access of the port that a landing waits for meets a lost layer (R386). -/
def lostAccess (s : State) (r : Fin 288) (l : Landing) : Option Access :=
  if l.value.isSome then none
  else (s.core r).mem.port.find? fun a => a.id == l.id && !a.framed && !a.owes && s.lostTarget (targetOf a.ptr)

/-- The landing has its bytes; they reach the core after a free delay. -/
def landBytes (s : State) (r : Fin 288) (a : Access) (bs : List Byte) : State :=
  ((s.deliver r a.id (.bytes bs) (s.now + Config.delay .port s.serial) false).bump).portDone r a.id

/-- A source in the terrace 0 of a core that is not bound to the context (R240). -/
def foreignT0 (s : State) (id : BitVec 16) (p : W64) : Bool :=
  match targetOf p with
  | .place (.t0 r) _ => match s.core? r with | some c => c.ctx != some id | none => true
  | _ => false

/-- A landing reads n bytes; k goes on with them. -/
def landRead (s : State) (r : Fin 288) (a : Access) (n dest : Nat) (k : State → List Byte → State) : State :=
  if s.foreignT0 a.ctxid a.ptr then s.landPoison r a dest Cause.badspace.code 9 0 a.ptr
  else match s.readAt (some (mapUnit r)) a.ctxid a.ptr n with
    | (s, .bytes bs) => match s.spoiltLine a.ptr n with
      | some q => s.landSpoilt r a q
      | none => k (s.touchAt r.val a.ctxid a.ptr n 0xFF false false) bs
    | (s, .fault rs t p) => s.holdAccess r a rs t p
    | (s, _) => s.meetLost r a

/-- The bytes of a segment lie within the space and the world of its landing: its header may have changed since its
issue. DEDUCED: log entry 28. -/
def segmentFits (s : State) (r : Fin 288) (a : Access) (n : Nat) : Bool :=
  match resolve (s.core r).view.sizes r.val a.world .land a.ptr n with
  | some t => a.world || !s.prot.targetSecure t n
  | none => false

/-- An expanding landing (R241): level 2 of R64, all planes. -/
def landSegment (s : State) (r : Fin 288) (a : Access) (xf : Nat) : State :=
  let bad (s : State) := s.landPoison r a 2048 0 7 4 a.ptr
  if ptrOff a.ptr % 16 ≠ 0 then bad s
  else s.landRead r a 16 2048 fun s hb =>
    let h := SegHead.ofBytes hb
    let n := if h.xpt = 3 then max h.span 2048 else h.span
    if h.bad 2 0 || !s.segmentFits r a n then bad s
    else s.landRead r a n 2048 fun s bs =>
      let scales := (bs.drop 16).take h.nblk
      let values := (bs.drop h.voff).take h.valueBytes
      if !h.checks scales values then bad s
      else if h.xpt = 3 then s.landBytes r a (bs.take 2048)
      else
        let out := h.expand xf 0 (min h.nblk (if xf = 3 then 16 else 32)) scales values
        s.landBytes r a (out ++ List.replicate (2048 - out.length) 0)

end State

/-- The new value of an atomic (R244). -/
def atomNew (op : AtomOp) (w old b e : Nat) : Nat :=
  let sgn (x : Nat) : Int := readInt w true x
  match op with
  | .add => (old + b) % 2 ^ w
  | .min => if sgn old ≤ sgn b then old else b
  | .max => if sgn b ≤ sgn old then old else b
  | .minn => min old b
  | .maxn => max old b
  | .and => Nat.land old b
  | .or => Nat.lor old b
  | .xor => Nat.xor old b
  | .xchg => b
  | .cas => if old = e then b else old

namespace State

/-- The leaf of a GLOBAL word that lies in a host page (R316, R347). -/
def hostLeaf (s : State) (r : Fin 288) (a : Access) : Option Leaf :=
  match targetOf a.ptr, s.ctx? a.ctxid with
  | .global va, some x => match s.translate (some (mapUnit r)) x va true with
    | .ok (.host, _, l) => some l
    | _ => none
  | _, _ => none

/-- The page of a GLOBAL word is a host page marked for system-wide atomics. DEDUCED: log entry 30. -/
def sysatPage (s : State) (r : Fin 288) (a : Access) : Bool :=
  match s.hostLeaf r a with | some l => pteSysat l.pte | none => false

/-- The first of the two parts of an atomic on an unmarked host page: the read. The write follows after a free delay, and
the host may write between the two (R316). -/
def firstHalf (s : State) (r : Fin 288) (a : Access) (bs : List Byte) : State :=
  let t := if a.hurried then s.now else s.now + Config.delay .port s.serial
  (s.modCore r fun c => { c with mem := { c.mem with port := c.mem.port.map fun x =>
    if x.id == a.id then { x with first := some bs, due := t } else x } }).bump

/-- ATOM or RED at the word's home (R244, R245, R316). DESIGN CHOICE: log entry 17. DEDUCED: log entry 30. -/
def atomic (s : State) (r : Fin 288) (a : Access) (op : AtomOp) (wide : Bool) (b e : W64) (returns : Bool) : State :=
  let n := atomBytes wide
  let w := 8 * n
  let give (s : State) (v : Nat) (poison : Bool) : State :=
    if returns then (s.deliver r a.id (.bytes (leBytes 8 v)) (s.now + Config.delay .port s.serial) poison).bump else s
  let unmarked : Bool := (s.hostLeaf r a).isSome && !s.sysatPage r a
  if s.sysatPage r a && !Config.hostAtomics s.serial then
    ((give (s.coreRecord r a Cause.xlate.code 9 2 false false a.ptr) 0 false)).portDone r a.id
  else match s.spoiltLine a.ptr n, returns with
  | some q, true => s.landSpoilt r a q
  | _, _ => match s.writeAt (some (mapUnit r)) a.ctxid a.ptr ((List.replicate n (0, false))) with
    | (s, .fault rs t p) => s.holdAccess r a rs t p
    | (s, .lost) => s.meetLost r a
    | _ =>
      match s.readAt (some (mapUnit r)) a.ctxid a.ptr n with
      | (s, .bytes bs) =>
        if unmarked && a.first.isNone then s.firstHalf r a bs else
        let old := leValue (a.first.getD bs)
        let new := atomNew op w old (b.toNat % 2 ^ w) (e.toNat % 2 ^ w)
        let keep := op == .cas && old != e.toNat % 2 ^ w
        let out := (leBytes n new).map fun x => (x, !keep)
        let s := (s.writeAt (some (mapUnit r)) a.ctxid a.ptr out).1
        (give (s.touchAt r.val a.ctxid a.ptr n 0xFF true false) old false).portDone r a.id
      | (s, .fault rs t p) => s.holdAccess r a rs t p
      | (s, _) => s.portDone r a.id

/-- A write of the port: a stamp or an alighted payload (R246, R266). -/
def portWrite (s : State) (r : Fin 288) (a : Access) (bs : List Byte) : State :=
  match s.writeAt (some (mapUnit r)) a.ctxid a.ptr (bs.map fun b => (b, true)) with
  | (s, .fault rs t p) => s.holdAccess r a rs t p
  | (s, .lost) => s.meetLost r a
  | (s, _) => (s.touchAt r.val a.ctxid a.ptr bs.length 0xFF true false).portDone r a.id

/-- The link engine that writes a REMOTE stamp for local index i of a die (R401). -/
def linkEngine (die i : Nat) : Fin 96 := ⟨(die % 4) * 24 + 20 + i % 4, by omega⟩

/-- The access performs, or is held. -/
def portPerform (s : State) (r : Fin 288) (a : Access) : State :=
  match a.kind with
  | .read xf n => if xf = 0 then s.landRead r a n n fun s bs => s.landBytes r a bs else s.landSegment r a xf.toNat
  | .atom op w b e => s.atomic r a op w b e true
  | .red op w b => s.atomic r a op w b 0 false
  | .stamp v => match targetOf a.ptr with
    | .remote _ _ =>
      let x : RemoteStamp :=
        { id := a.id, ptr := a.ptr, value := v, ctxid := a.ctxid, world := a.world, rank := r,
          due := if a.hurried then s.now else s.now + Config.delay .remote s.serial, chain := none, job := none, entry := 0,
          loops := Vector.replicate 4 0, detail := 0, held := none }
      ((s.modEngine (linkEngine (r.val / 72) (r.val % 72)) fun e => { e with remote := e.remote ++ [x] }).modCore r
        fun c => { c with mem := { c.mem with
          port := c.mem.port.map fun y => if y.id == a.id then { y with handed := true } else y } }).bump
    | _ => s.portWrite r a (leBytes 8 v.toNat)
  | .qalt (some p) => s.portWrite r a (p.toList.flatMap fun w => leBytes 8 w.toNat)
  -- every agent sees the store from now on
  | .store _ => s.portDone r a.id
  | _ => s

/-- A fence of package scope and kind sc joins a core's port: a recovery point or a resumption (R308, R317). -/
def putFence (s : State) (r : Fin 288) : State :=
  if (s.core r).mem.port.isEmpty then s
  else (s.modCore r fun c => { c with mem := { c.mem with
    port := c.mem.port ++ [s.accessOf c s.serial (.fence .package .sc) 0 c.sp.cyc] } }).bump

/-- The access may perform now: its delay is over and nothing before it holds it back. -/
def portReady (s : State) (r : Fin 288) (j : Nat) : Bool :=
  let port := (s.core r).mem.port
  match port[j]? with
  | none => false
  | some a => a.waiting && decide (a.due ≤ s.now) && (a.owes || !s.waits (port.take j) a)

/-- The lines, as rank and line, that a landing reads in the terrace 0 of another core of its context (R44). -/
def foreignLines (s : State) (r : Fin 288) (a : Access) : List (Nat × Nat) :=
  match a.kind, targetOf a.ptr with
  | .read .., .place (.t0 q) off =>
    if q = r.val || s.foreignT0 a.ctxid a.ptr then [] else (spanLines off (s.spanOf a)).map fun l => (q, l)
  | _, _ => []

/-- The access stays in the port for another cycle, with its place in the queue for banks. -/
def portWait (s : State) (r : Fin 288) (id : Nat) (ask : Option Nat) : State :=
  s.modCore r fun c =>
    { c with mem := { c.mem with
        port := c.mem.port.map fun x => if x.id == id then { x with due := s.now + 1, ask := ask } else x } }

/-- What the access does when its turn has come: the record that it owes, a landing from the lines that an idle cycle of their
banks has given it (R44), or all else. -/
def portAct (s : State) (r : Fin 288) (a : Access) (v : State) : State :=
  if a.owes then (s.coreRecord r a Cause.xlate.code 8 (akindOf a.kind false) false true a.ptr).portDone r a.id
  else if (s.foreignLines r a).isEmpty then s.portPerform r a
  else { v.portPerform r a with mem := s.mem }

/-- The access performs; a landing from another core's terrace 0 once every line it reads has had its turn (R44); where its
record would find no room, its map unit keeps it until there is (R350). -/
def portTry (s : State) (r : Fin 288) (a : Access) : State :=
  match s.bankTurn a.ask (if a.owes then [] else s.foreignLines r a) with
  | .wait t k => t.portWait r a.id (some k)
  | .ready v =>
    let t := s.portAct r a v
    if s.overflows t a.ctxid then s.portWait r a.id a.ask else t

end State

/-- TRANSLATION_WALK: an access of the core's port that may perform is translated and performs, or is held (R346-R349);
an access that may not is left. -/
def execTranslationWalk (r : Fin 288) (id : Nat) (s : State) : Out :=
  match (s.core r).mem.port.findIdx? (fun a => a.id == id) with
  | none => .next s
  | some j => match (s.core r).mem.port[j]? with
    | some a => if s.portReady r j then .next (s.portTry r a) else .next s
    | none => .next s

end Sys2Proof.Machine
end

