-- ==== Sys2Proof/Machine/RingOps.lean ====
section
/-! DEFINITION. The cirque ring (R67-R86): slots passing stations and the col, and what captures do at their pass
(R264-R267). -/

namespace Sys2Proof.Machine

namespace Ring

/-- The slot index that stands at a position. -/
def slotAt (g : Ring) (pos : Nat) : Nat := (pos + 1024 - g.phase % 1024) % 1024

/-- Where slot j of a track is kept. -/
def ix (track : Fin 8) (j : Fin 1024) : Fin 8192 := ⟨1024 * track.val + j.val, by omega⟩

def slot (g : Ring) (track : Fin 8) (j : Fin 1024) : RingSlot := g.slots[ix track j]

def modSlot (g : Ring) (track : Fin 8) (j : Fin 1024) (f : RingSlot → RingSlot) : Ring :=
  { g with slots := g.slots.set (ix track j) (f (g.slots[ix track j])) }

/-- The slot of a track that stands at a position (R71). -/
def atPos (g : Ring) (pos : Nat) : Fin 1024 := ⟨g.slotAt pos % 1024, by omega⟩

end Ring

namespace RingSlot

/-- The slot is BOARDED by the capture's context and world (R73). -/
def ownedBy (x : RingSlot) (k : Capture) : Bool := x.st == .boarded && x.ctxid == k.ctxid && x.world == k.world

/-- FREE, with its key, context and world cleared (R80, R82); PAR stays. -/
def freed (x : RingSlot) : RingSlot := { x with st := .free, world := false, ctxid := 0, key := 0, freeAtCol := false }

/-- FREE with a zero payload (R69). -/
def cleared (x : RingSlot) : RingSlot := { x.freed with payload := Vector.replicate 8 0 }

end RingSlot

/-- The status word (R263). -/
def qStatus (absent wrote : Bool) (slot : Nat) : W64 :=
  w64 ((if absent then 2 ^ 15 else 0) + (if wrote then 2 ^ 14 else 0) + slot)

/-- The payload word after a capture, and WROTE (R263, R264). -/
def capNew (op : CapOp) (old b e : W64) : W64 × Bool :=
  match op with
  | .rd => (old, false)
  | .wr => (b, false)
  | .add => (old + b, true)
  | .min => (if old.slt b then old else b, true)
  | .max => (if old.slt b then b else old, true)
  | .or => (old ||| b, true)
  | .xchg => (b, true)
  | .cas => if old = e then (b, true) else (old, false)
  | .brd | .alt => (old, false)

/-- What a capture meets at the slot that stands at its station: whether it acts in this pass. -/
def Capture.meets (k : Capture) (j : Fin 1024) (x : RingSlot) : Bool :=
  match k.find with
  | .index i => i == j
  | .key key => x.ownedBy k && x.key == key
  | .firstFree _ => x.st == .free

namespace State

/-- The position of a core's stations, by its own view (R70, R384). -/
def station (s : State) (r : Fin 288) : Nat := (s.core r).view.pos.toNat

/-- The capture is ready and its station turns with the ring. -/
def capReady (s : State) (k : Capture) : Bool :=
  !s.ring.stopped && k.ready ≤ s.now && k.waits.isEmpty && !k.parked

/-- The captures that have performed at a station in this pass of a track. -/
def takenAt (s : State) (r : Fin 288) (track : Fin 8) : List Nat :=
  (s.ring.taken.filter fun x => x.1 == r.val && x.2.1 == track.val).map (·.2.2)

/-- The capture performs in this pass: it meets the slot at its station, fewer than two captures have performed there,
and none of those was issued after it, since those of one pass act in issue order (R73, R75, R78). -/
def capActs (s : State) (r : Fin 288) (k : Capture) : Bool :=
  let j := s.ring.atPos (s.station r)
  let done := s.takenAt r k.track
  s.capReady k && k.meets j (s.ring.slot k.track j) && decide (done.length < 2) && done.all fun i => decide (i < k.id)

/-- A capture has met its last pass: its result is ready two cycles later (R76), and what a QFENCE holds goes on from
the next cycle (R267). -/
def capEnd (s : State) (r : Fin 288) (k : Capture) (v : LandValue) : State :=
  (s.deliver r k.id v (s.now + 2) false).modCore r fun c =>
    { c with mem := { c.mem with
        captures := (c.mem.captures.filter fun x => x.id != k.id).map fun x =>
          if x.waits.contains k.id then
            { x with waits := x.waits.filter (· != k.id), ready := max x.ready (s.now + 1) } else x } }

/-- A capture ends absent: no slot changes, and an absent QALT writes nothing (R74, R266). -/
def capAbsent (s : State) (r : Fin 288) (k : Capture) (slot : Nat) : State :=
  let s1 := s.capEnd r k (.pair 0 (qStatus true false slot))
  if k.op = .alt then s1.portDone r (k.id + 1) else s1

/-- A capture takes its place in the pass at its station (R75). -/
def take (s : State) (r : Fin 288) (k : Capture) : State :=
  { s with ring := { s.ring with taken := s.ring.taken ++ [(r.val, k.track.val, k.id)] } }

/-- The capture acts on the slot at its station. One that meets a BROKEN slot and ends with RINGFAULT takes a place of the
pass too. DESIGN CHOICE: log entry 82. -/
def capPerform (s : State) (r : Fin 288) (k : Capture) : State :=
  let j := s.ring.atPos (s.station r)
  let x := s.ring.slot k.track j
  let s1 := s.take r k
  let put (f : RingSlot → RingSlot) : State := { s1 with ring := s1.ring.modSlot k.track j f }
  let old := x.payload[k.wd]
  match k.op with
  | .brd =>
    let key : BitVec 32 := match k.find with | .firstFree q => q | _ => 0
    (put fun y => { y with st := .boarded, key := key, ctxid := k.ctxid, world := k.world,
                           payload := (Vector.replicate 8 0).set k.wd k.b }).capEnd r k (.pair 0 (qStatus false false j.val))
  | .alt =>
    if x.st = .broken then s1.capEnd r k (.ringFault k.track.val j.val 1) |>.portDone r (k.id + 1)
    else if !x.ownedBy k then s1.capAbsent r k j.val
    else
      let s2 := (put RingSlot.freed).capEnd r k (.pair 0 (qStatus false false j.val))
      s2.modCore r fun c => { c with mem := { c.mem with
        port := c.mem.port.map fun a =>
          if a.id == k.id + 1 then { a with kind := .qalt (some x.payload), due := max a.due s.now } else a } }
  | op =>
    if x.st = .broken then s1.capEnd r k (.ringFault k.track.val j.val 1)
    else if !x.ownedBy k then s1.capAbsent r k j.val
    else
      let n := capNew op old k.b k.e
      (put fun y => { y with payload := y.payload.set k.wd n.1 }).capEnd r k (.pair old (qStatus false n.2 j.val))

/-- A capture of a core. -/
def cap? (s : State) (r : Fin 288) (id : Nat) : Option Capture := (s.core r).mem.captures.find? fun k => k.id == id

end State

/-- CAPTURE_PERFORM: a capture that meets its slot at this pass acts on it (R73-R80, R264-R266). -/
def execCapturePerform (r : Fin 288) (id : Nat) (s : State) : Out :=
  match s.cap? r id with
  | some k => if s.capActs r k then .next (s.capPerform r k) else .next s
  | none => .next s

/-- The slot index of an absent result (R263). -/
def Capture.absentSlot (k : Capture) : Nat := match k.find with | .index i => i.val | _ => 0

/-- CAPTURE_ABSENT: a keyed capture or QBRD that has examined 1,024 passes ends absent (R74, R79). -/
def execCaptureAbsent (r : Fin 288) (id : Nat) (s : State) : Out :=
  match s.cap? r id with
  | some k => if 1024 ≤ k.examined then .next (s.capAbsent r k k.absentSlot) else .next s
  | none => .next s

/-- SLOT_ERROR: an uncorrectable error breaks a slot (R83). A capture that performs on it in this pass ends with
RINGFAULT, REASON 3; the context of the last good header gets one record (R409). DESIGN CHOICE: log entry 14. -/
def execSlotError (track : Fin 8) (slot : Fin 1024) (s : State) : Out :=
  let x := s.ring.slot track slot
  let s1 := { s with ring := s.ring.modSlot track slot fun y =>
    { y with st := .broken, freeAtCol := false, payload := Vector.ofFn fun i => Config.brokenWord s.serial i.val } }
  let s2 := (s1.record x.ctxid
    { FaultRec.zero with cause := Cause.ringfault.code, src := 2, reason := 9,
                         detail := w64 (slot.val * 2 ^ 16 + track.val) }).bump
  let s3 := { s2 with scree := { s2.scree with
    ringErr := vecMod s2.scree.ringErr track.val fun p => (p.1, min (p.2 + 1) (2 ^ 32 - 1)) } }
  -- captures performing on the slot in the pass that breaks it
  let acts := (List.finRange 288).flatMap fun r =>
    if s.ring.atPos (s.station r) = slot then
      ((s.core r).mem.captures.filter fun k => k.track == track && s.capActs r k).take
        (2 - (s.takenAt r track).length) |>.map fun k => (r, k)
    else []
  .next (acts.foldl (fun s p =>
    let s := (s.take p.1 p.2).capEnd p.1 p.2 (.ringFault track.val slot.val 3)
    if p.2.op = .alt then s.portDone p.1 (p.2.id + 1) else s) s3)

/-- COL_CROSSING: slot j of every track crosses the col: its parity turns, and a slot swept or freed by the base
controller becomes FREE (R71, R82, R83). -/
def execColCrossing (slot : Fin 1024) (s : State) : Out :=
  .next { s with ring := (List.finRange 8).foldl (fun g t => g.modSlot t slot fun x =>
    let y := if x.freeAtCol then x.cleared else x
    { y with par := !x.par }) s.ring }

end Sys2Proof.Machine
end

