-- ==== Sys2Proof/Machine/VectorOps.lean ====
section
/-! DEFINITION. The V stream at issue (R141, R142, R182, R183): every word with a plan enters the pipeline with the
operand slice 0 and the scalars it reads; VEXT, KPOPC and KFIRST read whole and write a scalar; VKAT reads its constant
and compares at issue + 8. -/

namespace Sys2Proof.Machine

/-- The group that accepts one word in four cycles is busy (R142). -/
def Core.divBusy (c : Core) : Bool := c.sp.cyc < c.pipe.divFree

/-- The latch of a V word with a plan: slice 0 of every operand and every scalar as they stand at issue (R182). -/
def Core.vwordLatch (c : Core) (f : Focus) (guards : List (Nat × BitVec 256)) (p : VPlan) : Latch :=
  f.latch c.sp.cyc p.lat 0 guards
    (.vword (p.scal.map c.readS) (p.srcs.map fun r => takeSlice 0 VReg.zero (c.readV r))
      (p.msks.map fun k => takePortion 0 MReg.zero (c.readK k)))

namespace State

/-- A V word with a plan issues: tests 5 and 6 of R141, then its latch. DESIGN CHOICE: log entry 57. -/
def issueV (s : State) (i : Instr) : Out :=
  match vPlan i with
  | none => .next s
  | some p =>
    if p.slow && s.me.divBusy then .next (s.trapWord .illop)
    else if p.regs.any beyond then .next (s.trapWord .illreg)
    else .next (s.modMe fun c =>
      { c with pipe := { c.pipe with
          latches := c.pipe.latches ++ [c.vwordLatch s.focus s.prot.guards p]
          divFree := if p.slow then c.sp.cyc + 4 else c.pipe.divFree } })

end State

def execVadd (x : VBin) (s : State) : Out := s.issueV (.vadd x)
def execVsub (x : VBin) (s : State) : Out := s.issueV (.vsub x)
def execVmul (x : VBin) (s : State) : Out := s.issueV (.vmul x)
def execVmulh (x : VBin) (s : State) : Out := s.issueV (.vmulh x)
def execVmin (x : VBin) (s : State) : Out := s.issueV (.vmin x)
def execVmax (x : VBin) (s : State) : Out := s.issueV (.vmax x)
def execVabs (x : VUn) (s : State) : Out := s.issueV (.vabs x)
def execVneg (x : VUn) (s : State) : Out := s.issueV (.vneg x)
def execVand (x : VBin) (s : State) : Out := s.issueV (.vand x)
def execVor (x : VBin) (s : State) : Out := s.issueV (.vor x)
def execVxor (x : VBin) (s : State) : Out := s.issueV (.vxor x)
def execVandn (x : VBin) (s : State) : Out := s.issueV (.vandn x)
def execVshl (x : VBin) (s : State) : Out := s.issueV (.vshl x)
def execVshr (x : VBin) (s : State) : Out := s.issueV (.vshr x)
def execVsra (x : VBin) (s : State) : Out := s.issueV (.vsra x)
def execVrol (x : VBin) (s : State) : Out := s.issueV (.vrol x)
def execVclz (x : VUn) (s : State) : Out := s.issueV (.vclz x)
def execVpopc (x : VUn) (s : State) : Out := s.issueV (.vpopc x)
def execVdiv (x : VBin) (s : State) : Out := s.issueV (.vdiv x)
def execVsqrt (x : VUn) (s : State) : Out := s.issueV (.vsqrt x)
def execVrcp (x : VUn) (s : State) : Out := s.issueV (.vrcp x)
def execVrsq (x : VUn) (s : State) : Out := s.issueV (.vrsq x)
def execVexp2 (x : VUn) (s : State) : Out := s.issueV (.vexp2 x)
def execVlog2 (x : VUn) (s : State) : Out := s.issueV (.vlog2 x)
def execVrnd (x : VUn) (s : State) : Out := s.issueV (.vrnd x)
def execVfma (x : VTri) (s : State) : Out := s.issueV (.vfma x)
def execVfms (x : VTri) (s : State) : Out := s.issueV (.vfms x)
def execVfnma (x : VTri) (s : State) : Out := s.issueV (.vfnma x)
def execVfshl (x : VTri) (s : State) : Out := s.issueV (.vfshl x)
def execVfshr (x : VTri) (s : State) : Out := s.issueV (.vfshr x)
def execVcmp (kd : BitVec 4) (va : BitVec 9) (src : VSrc) (k : BitVec 4) (ty : EType) (c : VCond) (s : State) : Out :=
  s.issueV (.vcmp kd va src k ty c)
def execVsel (x : VDuo) (s : State) : Out := s.issueV (.vsel x)
/-- DEDUCED: log entry 22. -/
def execVcvt (vd va : BitVec 9) (k : BitVec 4) (src : EType) (rm : RMode) (dst : EType) (sat : Bool) (s : State) : Out :=
  s.issueV (.vcvt vd va k src rm dst sat)
def execVqmx (vd vb va : BitVec 9) (k : BitVec 4) (rm : RMode) (f : MxFmt) (s : State) : Out :=
  s.issueV (.vqmx vd vb va k rm f)
def execVdqmx (vd va vb : BitVec 9) (k : BitVec 4) (ty : EType) (rm : RMode) (f : MxFmt) (s : State) : Out :=
  s.issueV (.vdqmx vd va vb k ty rm f)
def execVli (vd : BitVec 9) (v : BitVec 18) (k : BitVec 4) (ty : EType) (s : State) : Out := s.issueV (.vli vd v k ty)
def execVbcast (vd : BitVec 9) (v : VsVal) (k : BitVec 4) (ty : EType) (s : State) : Out := s.issueV (.vbcast vd v k ty)
def execVmov (vd va : BitVec 9) (k : BitVec 4) (s : State) : Out := s.issueV (.vmov vd va k)
def execVins (vd : BitVec 9) (sa : BitVec 6) (v : VsVal) (ty : EType) (s : State) : Out := s.issueV (.vins vd sa v ty)
def execVidx (vd : BitVec 9) (v : VsVal) (k : BitVec 4) (ty : EType) (s : State) : Out := s.issueV (.vidx vd v k ty)
def execVperm (x : VTri) (s : State) : Out := s.issueV (.vperm x)
def execVrot (vd va : BitVec 9) (v : VsVal) (k : BitVec 4) (ty : EType) (s : State) : Out := s.issueV (.vrot vd va v k ty)
def execVshup (vd va : BitVec 9) (v : VsVal) (k : BitVec 4) (ty : EType) (s : State) : Out :=
  s.issueV (.vshup vd va v k ty)
def execVzip (x : VDuo) (s : State) : Out := s.issueV (.vzip x)
def execVunzip (x : VDuo) (s : State) : Out := s.issueV (.vunzip x)
def execVtrn (x : VDuo) (s : State) : Out := s.issueV (.vtrn x)
def execVcomp (vd va : BitVec 9) (k : BitVec 4) (ty : EType) (s : State) : Out := s.issueV (.vcomp vd va k ty)
def execVexpd (vd va : BitVec 9) (k : BitVec 4) (ty : EType) (s : State) : Out := s.issueV (.vexpd vd va k ty)
def execVred (vd va : BitVec 9) (k : BitVec 4) (ty : EType) (rm : RMode) (op : RedOp) (g : BitVec 4) (s : State) : Out :=
  s.issueV (.vred vd va k ty rm op g)
def execVscan (vd va : BitVec 9) (k : BitVec 4) (ty : EType) (rm : RMode) (op : RedOp) (g : BitVec 4) (s : State) : Out :=
  s.issueV (.vscan vd va k ty rm op g)
def execVcmul (x : VDuo) (s : State) : Out := s.issueV (.vcmul x)
def execVcmac (x : VTri) (s : State) : Out := s.issueV (.vcmac x)
def execKand (kd ka kb : BitVec 4) (s : State) : Out := s.issueV (.kand kd ka kb)
def execKor (kd ka kb : BitVec 4) (s : State) : Out := s.issueV (.kor kd ka kb)
def execKxor (kd ka kb : BitVec 4) (s : State) : Out := s.issueV (.kxor kd ka kb)
def execKnot (kd ka : BitVec 4) (s : State) : Out := s.issueV (.knot kd ka)
def execKmov (kd ka : BitVec 4) (s : State) : Out := s.issueV (.kmov kd ka)
def execKfroms (kd : BitVec 4) (sa : BitVec 6) (s : State) : Out := s.issueV (.kfroms kd sa)
def execKbytes (kd : BitVec 4) (sa sb : BitVec 6) (s : State) : Out := s.issueV (.kbytes kd sa sb)

/-- The scalar that VEXT writes (R201). -/
def extValue (t : EType) (v : VReg) (idx : Nat) : W64 :=
  if t.isSigned then BitVec.ofInt 64 (readInt t.width true (elemAt t v (idx % t.count)))
  else w64 (elemAt t v (idx % t.count))

/-- VEXT reads va whole at issue (R183, R201). -/
def execVext (sd : BitVec 6) (va : BitVec 9) (idx : VsVal) (ty : EType) (s : State) : Out :=
  if beyond va then .next (s.trapWord .illreg)
  else
    let i := match idx with | .imm v => v.toNat | .reg b => (s.rs b).toNat
    .next (s.latchS 3 sd (extValue ty (s.me.readV va) i))

/-- Number of one bits of a mask, and the index of the lowest (R210). -/
def maskCount (m : MReg) : Nat := (m.toList.filter id).length
def maskFirst (m : MReg) : Nat := (m.toList.findIdx? id).getD 2048

def execKpopc (sd : BitVec 6) (ka : BitVec 4) (s : State) : Out := s.alu sd (w64 (maskCount (s.me.readK ka)))
def execKfirst (sd : BitVec 6) (ka : BitVec 4) (s : State) : Out := s.alu sd (w64 (maskFirst (s.me.readK ka)))

/-- VKAT reads its 2 KiB constant at issue and va by slices; it compares at issue + 8 (R211). -/
def execVkat (va : BitVec 9) (val : BitVec 18) (s : State) : Out :=
  let off := s.me.code + 64 * val.toNat
  let p := t0Ptr s.focus.rank off
  if beyond va then .next (s.trapWord .illreg)
  else if t0Top < off + 2048 then .next (s.trapPtr .badspace p)
  else if !s.me.secure && s.prot.secureSpan s.own off 2048 then .next (s.trapPtr .world p)
  else
    .next ((s.ownRead off 2048).latch 8
      (.compare false va.toNat off (s.bytesAt s.own off 2048) ((s.me.readV va).toList.take 256)))

end Sys2Proof.Machine
end

