-- ==== Sys2Proof/Machine/Pipeline.lean ====
section
/-! DEFINITION. The pipeline of a core within a cycle: the writes that perform (R115, R153, R361), the operand reads
that fall after issue (R10, R182, R222), bank and write collisions (R42, R43, R115, R155), and known-answer compares
(R211, R233, R404). -/

namespace Sys2Proof.Machine

/-! ## Writes that perform -/

/-- A register write of one cycle; vectors and masks by slice. -/
inductive RegWrite where
  | scal (r : BitVec 6) (x : W64)
  | addr (r : BitVec 5) (x : W64)
  | vec (r : BitVec 9) (slice : Nat) (x : VReg) (en : MReg)
  | msk (r : BitVec 4) (slice : Nat) (x : MReg) (en : MReg)
deriving DecidableEq, Repr

/-- FILE, REG and slice of a write (R155). -/
def RegWrite.key : RegWrite → Nat × Nat × Nat
  | .scal r _ => (0, r.toNat, 0)
  | .addr r _ => (1, r.toNat, 0)
  | .vec r j _ _ => (2, r.toNat, j)
  | .msk r j _ _ => (3, r.toNat, j)

/-- The write performs. -/
def RegWrite.apply (c : Core) : RegWrite → Core
  | .scal r x => c.putS r x
  | .addr r x => c.putA r x
  | .vec r j x en =>
    let old := c.readV r
    c.putV r (VReg.ofFn fun b => if b / 256 = j ∧ mbit en b then vbyte x b else vbyte old b)
  | .msk r j x en =>
    let old := c.readK r
    c.putK r (MReg.ofFn fun b => if b / 256 = j ∧ mbit en b then mbit x b else mbit old b)

/-- The instruction of a latch's word. -/
def Latch.instr (l : Latch) : Instr := issuedInstr l.strm l.word

/-- The cycle of the last write of a latch. -/
def Latch.last (l : Latch) : Nat :=
  match l.kind with
  | .vec _ _ _ w | .msk _ _ _ w => if w then l.base else l.base + 7
  | .vword .. => l.base + 7
  | .tileStore .. => l.base + 19
  | _ => l.base

/-- Part p of a latch is due in cycle c. -/
def Latch.partDue (l : Latch) (c : Nat) : Bool :=
  l.base ≤ c && decide (c < l.base + 8) && l.parts.getLsbD (c - l.base)

/-- The slices that a whole write still makes: those with an enabled bit (R115, R361). -/
def wholeSlices (en : MReg) : List Nat :=
  (List.range 8).filter fun j => (List.range 256).any fun b => mbit en (256 * j + b)

/-- The register writes of a latch in cycle c (R361). -/
def Latch.writesAt (l : Latch) (c : Nat) : List RegWrite :=
  match l.kind with
  | .scal r v => if c = l.base then [RegWrite.scal r v] else []
  | .addr r v => if c = l.base then [RegWrite.addr r v] else []
  | .vec r v en whole =>
    if whole then (if c = l.base then (wholeSlices en).map fun j => RegWrite.vec r j v en else [])
    else if l.partDue c then [RegWrite.vec r (c - l.base) v en] else []
  | .msk r v en whole =>
    if whole then (if c = l.base then (wholeSlices en).map fun j => RegWrite.msk r j v en else [])
    else if l.partDue c then [RegWrite.msk r (c - l.base) v en] else []
  | .vword scal ops mops =>
    if l.partDue c then
      (vEval l.instr scal ops mops).writes.map fun w => match w with
        | .vec r v en => RegWrite.vec r (c - l.base) v en
        | .msk r m en => RegWrite.msk r (c - l.base) m en
    else []
  | _ => []

/-- The flags that join in cycle c (R99); those of a word whose slices collide join whole. DESIGN CHOICE: log entry 84. -/
def Latch.flagsAt (l : Latch) (c : Nat) : BitVec 6 :=
  if c = l.last then
    match l.kind with
    | .vword scal ops mops => (vEval l.instr scal ops mops).flags
    | _ => l.flags
  else 0

/-- Latches in order of issue, those of one cycle in the order they stand in. -/
def insertLatch (l : Latch) : List Latch → List Latch
  | [] => [l]
  | m :: rest => if m.issue ≤ l.issue then m :: insertLatch l rest else l :: m :: rest

def byIssue (ls : List Latch) : List Latch := ls.foldl (fun acc l => insertLatch l acc) []

/-- The register writes of a cycle, in issue order, with stream and issue. -/
def cycleWrites (ls : List Latch) (c : Nat) : List (Stream × Nat × RegWrite) :=
  (byIssue ls).flatMap fun l => (l.writesAt c).map fun w => (l.strm, l.issue, w)

/-- A write meets one of another stream to the same register, or slice, in its cycle (R115); a discarded write to s0
or k0 counts (R113). -/
def collides (ws : List (Stream × Nat × RegWrite)) (w : Stream × Nat × RegWrite) : Bool :=
  ws.any fun x => x.1 != w.1 && x.2.2.key == w.2.2.key

/-- Stream class. -/
def cls (st : Stream) : Nat := match st with | .c => 0 | .v => 1 | .x => 2 | .m => 3

/-- Earlier issue first, the lower class first in one cycle (R43, R155). -/
def before (a b : Stream × Nat) : Bool := decide (a.2 < b.2) || (a.2 == b.2 && decide (cls a.1 < cls b.1))

/-- Lexicographic order of (FILE, REG, slice). -/
def keyLe (a b : Nat × Nat × Nat) : Bool :=
  decide (a.1 < b.1) || (a.1 == b.1 && (decide (a.2.1 < b.2.1) || (a.2.1 == b.2.1 && decide (a.2.2 ≤ b.2.2))))

/-- The slice or portion of a write. -/
def RegWrite.slice (w : RegWrite) : Nat := w.key.2.2

/-- What stays due of a latch when some of its writes of cycle c are without effect (R115): nothing of a scalar or address
register; of a whole write, the other slices; of a skewed one, its other parts, or no part but its flags where the slices
that collide are its last. -/
def Latch.without (l : Latch) (c : Nat) (gone : RegWrite → Bool) : List Latch :=
  let ws := l.writesAt c
  let keep (b : Nat) : Bool := !(ws.any fun w => gone w && w.slice == b / 256)
  let rest : Latch := { l with parts := l.parts &&& ~~~(1#8 <<< (c - l.base)) }
  let part (k : LatchKind) : Latch := { l with parts := 1#8 <<< (c - l.base), flags := 0, kind := k }
  if !ws.any gone then [l]
  else match l.kind with
    | .vec r v en true => [{ l with kind := .vec r v (MReg.ofFn fun b => mbit en b && keep b) true }]
    | .msk r v en true => [{ l with kind := .msk r v (MReg.ofFn fun b => mbit en b && keep b) true }]
    | .vec .. | .msk .. => [rest]
    | .vword .. =>
      -- of a word at its last slice the flags are still to join
      let left : List Latch := if c = l.last then
          (ws.take 1).map fun w => { rest with
            flags := l.flagsAt c
            kind := match w with
              | .vec r _ x en => .vec r x en false
              | .msk r _ x en => .msk r x en false
              | _ => l.kind }
        else [rest]
      left ++ (ws.filter fun w => !gone w).filterMap fun w => match w with
        | .vec r _ x en => some (part (.vec r x en false))
        | .msk r _ x en => some (part (.msk r x en false))
        | _ => none
    | _ => []

/-- The WCOLL trap of a cycle (R155): where more than two writers, or several slices, collide on the register reported, the
two that issued first. DESIGN CHOICE: log entry 64. -/
def wcollOf (ws : List (Stream × Nat × RegWrite)) (c : Nat) : Option TrapRec :=
  let hit := ws.filter (collides ws)
  match hit with
  | [] => none
  | h :: rest =>
    let key := rest.foldl (fun k x => if keyLe k x.2.2.key then k else x.2.2.key) h.2.2.key
    let ps := (hit.filter fun x => x.2.2.key == key).map fun x => (x.1, x.2.1)
    let first := match ps with | [] => (h.1, h.2.1) | p :: qs => qs.foldl (fun m x => if before x m then x else m) p
    let others := ps.filter fun x => x.1 != first.1
    let second := match others with | [] => first | p :: qs => qs.foldl (fun m x => if before x m then x else m) p
    some { src := .wcoll, cause := .wcoll, faddr := 0, boundary := c + 1,
           faux := w64 (c % 2 ^ 32 * 2 ^ 32 + cls second.1 * 2 ^ 14 + cls first.1 * 2 ^ 12 + key.1 * 2 ^ 9 + key.2.1) }

/-! ## Reads and effects after issue -/

/-- The spans of own terrace 0 that a latch reads in cycle c, as offset and length (R222, R228, R233). A word that has
just issued has made its first read; in its issue cycle this is asked only of a word resumed at that cycle (R392). -/
def Latch.readAt (l : Latch) (c : Nat) : Option (Nat × Nat) :=
  let d := c - l.issue
  if c < l.issue then none
  else match l.kind with
    | .xword _ ptrs fmt _ _ _ _ _ =>
      let p (i : Nat) : Nat := ptrOff ((ptrs[i]?).getD 0)
      match l.instr with
      | .mma _ a _ _ | .mmac _ a _ _ =>
        let slotA : Bool := match a with | .slot _ => true | _ => false
        let complex : Bool := match l.instr with | .mmac .. => true | _ => false
        match parseFormat fmt slotA complex with
        | none => none
        | some f =>
          match d, a with
          | 1, .t0 _ => some (p 0 + 6144, 6144)
          | 2, _ => some (p 1, 6144)
          | 3, _ => some (p 1 + 6144, 6144)
          | 4, _ => if f.asc then some (f.ascl, 2 * depthOf f slotA) else none
          | 5, _ => if f.bsc then some (f.bscl, 2 * depthOf f slotA) else none
          | _, _ => none
      | _ => if d < 20 then some (p 0 + 1024 * d, 1024) else none
    | .compare true _ off _ _ => if d < 16 then some (off + 1280 * d, 1280) else none
    | _ => none

/-- The latch with the bytes of a read added. -/
def Latch.gain (l : Latch) (c : Nat) (bs : List Byte) : Latch :=
  match l.kind with
  | .xword t ptrs fmt ab bb sa sb hs =>
    let isMma : Bool := match l.instr with | .mma .. | .mmac .. => true | _ => false
    let d := c - l.issue
    { l with kind :=
        if !isMma || d = 1 then .xword t ptrs fmt (ab ++ bs) bb sa sb hs
        else if d ≤ 3 then .xword t ptrs fmt ab (bb ++ bs) sa sb hs
        else if d = 4 then .xword t ptrs fmt ab bb bs sb hs
        else .xword t ptrs fmt ab bb sa bs hs }
  | .compare m r off ref opnd => { l with kind := .compare m r off (ref ++ bs) opnd }
  | _ => l

/-- The latch with slice k of its operands read from the core, k = c - issue (R182, R211); in a cycle that is performed
again it is read again in the same place. -/
def Latch.slices (core : Core) (l : Latch) (c : Nat) : Latch :=
  let k := c - l.issue
  if c < l.issue || 8 ≤ k then l
  else match l.kind with
    | .vword scal ops mops => match vPlan l.instr with
      | none => l
      | some p =>
        let vs := (ops.zip p.srcs).map fun x => takeSlice k x.1 (core.readV x.2)
        let ks := (mops.zip p.msks).map fun x => takePortion k x.1 (core.readK x.2)
        { l with kind := .vword scal vs ks }
    | .compare false r off ref opnd =>
      let bs := ((core.readV (BitVec.ofNat 9 r)).toList.drop (256 * k)).take 256
      { l with kind := .compare false r off ref (opnd.take (256 * k) ++ bs) }
    | _ => l

/-- What an X word's operands give: its tile and flags. -/
def Latch.product (l : Latch) (c : Tile) : Tile × BitVec 6 :=
  match l.kind with
  | .xword _ _ fmt ab bb sa sb hs =>
    let go (complex : Bool) (a : ASrc) (acc : Bool) : Tile × BitVec 6 :=
      let slotA : Bool := match a with | .slot _ => true | _ => false
      match parseFormat fmt slotA complex with
      | some f => matResult f complex slotA ab bb sa sb hs (if acc then c else Tile.zero)
      | none => (c, 0)
    match l.instr with
    | .mma _ a _ acc => go false a acc
    | .mmac _ a _ acc => go true a acc
    | _ => (Tile.ofImage ab, 0)
  | _ => (c, 0)

namespace Core

/-- What the writes of a cycle find, kept while the cycle is under way. -/
def snapshot (k : Core) : Core :=
  let b : Before := { regs := k.regs, tiles := k.acc.tiles, fpf := k.sp.fpf, tmcmp := k.sp.tmcmp,
                      latches := k.pipe.latches, streams := k.fe.streams, xbr := k.fe.xbr }
  { k with pipe := { k.pipe with before := some b } }

/-- The register files, tiles, FPF and TMCMP as the writes of the cycle found them. -/
def unwritten (k : Core) (b : Before) : Core :=
  { k with
    regs := { k.regs with s := b.regs.s, a := b.regs.a, v := b.regs.v, k := b.regs.k }
    acc := { k.acc with tiles := b.tiles }
    sp := { k.sp with fpf := b.fpf, tmcmp := b.tmcmp } }

/-- The register writes of cycle c: colliding parts are without effect and raise WCOLL (R115). Flags that join in the cycle
of an SWR to FPF are ORed into the value it writes (R99). -/
def regWrites (k : Core) (c : Nat) : Core :=
  let ls := k.pipe.latches
  let ws := cycleWrites ls c
  let k := (ws.filter fun w => !collides ws w).foldl (fun k w => w.2.2.apply k) k
  let k := ls.foldl (fun k l => if c = l.base then match l.kind with
    | .special n v =>
      if n = 7 then { k with sp := { k.sp with fpf := v.setWidth 6 } }
      else if n = 11 then { k with sp := { k.sp with tmcmp := v } } else k
    | _ => k else k) k
  let k := k.joinFlags (ls.foldl (fun f l => f ||| l.flagsAt c) 0)
  match wcollOf ws c with
  | some t => { k with pipe := { k.pipe with traps := k.pipe.traps.filter (fun x => x.src != .wcoll) ++ [t] } }
  | none => k

/-- The accumulator writes of cycle c; an accumulating product reads its tile as it stood before them (R215). -/
def tileWrites (k : Core) (c : Nat) : Core :=
  let start := k.acc.tiles
  (byIssue k.pipe.latches).foldl (fun k l =>
    if c = l.base then
      match l.kind with
      | .tile t x => { k with acc := { k.acc with tiles := k.acc.tiles.set t x } }
      | .elem t i x => { k with acc := { k.acc with tiles := k.acc.tiles.set t ((k.acc.tiles[t]).setIfInBounds i x) } }
      | .xword t .. =>
        let p := l.product start[t]
        { k.joinFlags p.2 with acc := { k.acc with tiles := k.acc.tiles.set t p.1 } }
      | _ => k
    else k) k

/-- What performs in cycle c on the registers, the tiles and FPF, from what stood before the cycle; then the slices of
operands that fall in it are read (R115, R182). -/
def perform (k : Core) (c : Nat) : Core :=
  match k.pipe.before with
  | none => k
  | some b =>
    let k := ((k.unwritten b).regWrites c).tileWrites c
    { k with pipe := { k.pipe with latches := k.pipe.latches.map fun l => l.slices k c } }

end Core

namespace State

/-- Bytes that a latch's word stores to the own terrace 0; what they overwrite is kept until the cycle is settled. -/
def latchStore (s : State) (r : Fin 288) (l : Latch) (off : Nat) (bs : List (Byte × Bool)) : State :=
  let cell (x : (Byte × Bool) × Nat) : Option Host.Cell :=
    let k := (Place.t0 r).key (off + x.2)
    if x.1.2 && !guardedBy l.guards (.t0 r) (off + x.2) then some (k, memRead s.mem k) else none
  let u : StoreUndo := { strm := l.strm, issue := l.issue, old := bs.zipIdx.filterMap cell }
  (s.modCore r fun k => { k with pipe := { k.pipe with stored := k.pipe.stored ++ [u] } }).storeBy l.guards (.t0 r) off bs

/-- The stores to own terrace 0 of cycle c (R237, R228). -/
def storeWrites (s : State) (r : Fin 288) (c : Nat) : State :=
  (byIssue (s.core r).pipe.latches).foldl (fun s l =>
    match l.kind with
    | .store off bs _ =>
      if c = l.base then
        let first := (List.range bs.length).find? fun j =>
          ((bs[j]?).map (·.2)).getD false && guardedBy l.guards (.t0 r) (off + j)
        let s := match first with
          | some j => s.wordTouch r l.guards l.strm l.issue (off + j) 1 true false
          | none => s
        s.latchStore r l off bs
      else s
    | .tileStore off t rel =>
      if l.base ≤ c ∧ c < l.base + 20 then
        let o := off + 1024 * (c - l.base)
        let bs := ((Tile.image t).drop (1024 * (c - l.base))).take 1024
        (s.wordTouch r l.guards l.strm l.issue o 1024 true rel).latchStore r l o (bs.map fun b => (b, true))
      else s
    | _ => s) s

/-- The terrace 0 reads of cycle c that follow their word's issue, by the guard maps of its issue. -/
def lateReads (s : State) (r : Fin 288) (c : Nat) : State :=
  let ls := (s.core r).pipe.latches
  let s1 := ls.foldl (fun s l => match l.readAt c with
    | some (off, n) => s.wordTouch r l.guards l.strm l.issue off n false false
    | none => s) s
  let next (l : Latch) : Latch :=
    match l.readAt c with | some (off, n) => l.gain c (s.bytesBy l.guards (.t0 r) off n) | none => l
  s1.modCore r fun k => { k with pipe := { k.pipe with latches := ls.map next } }

/-- A compare of cycle c has failed: the first byte that differs (R404). -/
def mismatch (l : Latch) (c : Nat) : Option Nat :=
  match l.kind with
  | .compare _ _ _ ref opnd => if c = l.base then (ref.zip opnd).findIdx? fun p => p.1 != p.2 else none
  | _ => none

/-- The scree's count of a mismatch (R402). -/
def countMiss (s : State) (r : Fin 288) (matrix : Bool) : State :=
  let sc := s.scree
  { s with scree := { sc with
      vkat := if matrix then sc.vkat else min (sc.vkat + 1) (2 ^ 64 - 1)
      xkat := if matrix then min (sc.xkat + 1) (2 ^ 64 - 1) else sc.xkat
      lastMiss := w64 (r.val * 2 ^ 48 + s.tick.toNat % 2 ^ 48), lastMissCtx := (s.core r).ctxid } }

/-- The compares of cycle c: counted, and the first that traps, if KATMISS is enabled: of two that fail in one cycle, that
of the earlier-issued word. DESIGN CHOICE: log entry 88. -/
def compares (s : State) (r : Fin 288) (c : Nat) : State × Option (W64 × W64) :=
  (byIssue (s.core r).pipe.latches).foldl (fun acc l => match mismatch l c with
    | none => acc
    | some i =>
      let m : Bool := match l.kind with | .compare b .. => b | _ => false
      let faux := w64 (c % 2 ^ 32 * 2 ^ 32 + (if m then 2 ^ 16 + i / 5 else i))
      (acc.1.countMiss r m,
       if (s.core r).attr.kat && acc.2.isNone then some (t0Ptr r l.pc, faux) else acc.2)) (s, none)

/-- The compare and test latches of cycle c leave. -/
def dropTests (s : State) (r : Fin 288) (c : Nat) : State :=
  s.modCore r fun k => { k with pipe := { k.pipe with latches := k.pipe.latches.filter fun l =>
    match l.kind with
    | .compare .. | .taskqTest .. | .engineTest .. | .chainGo .. => c < l.base
    | _ => true } }

end State

/-! ## Bank conflicts (R42, R43) -/

/-- The bank request of a latch in cycle c (R42, R222, R228). -/
def Latch.request (l : Latch) (c : Nat) : Option BankReq :=
  let mk (off n : Nat) : BankReq :=
    { strm := l.strm, issue := l.issue, firstLine := off / 64,
      lines := if n = 0 then 0 else (off + n - 1) / 64 - off / 64 + 1 }
  match l.kind with
  | .store off bs _ => if c + 1 = l.base then some (mk off bs.length) else none
  | .tileStore off _ _ => if l.base ≤ c + 1 ∧ c + 1 < l.base + 20 then some (mk (off + 1024 * (c + 1 - l.base)) 1024) else none
  | _ => if c ≤ l.issue then none else (l.readAt c).map fun p => mk p.1 p.2

/-- The lowest line of the request that lies in a bank. -/
def BankReq.lineIn (q : BankReq) (b : Nat) : Option Nat :=
  ((List.range q.lines).find? fun j => (q.firstLine + j) % 96 == b).map (q.firstLine + ·)

/-- Banks that two requests of a cycle both need, lowest first. -/
def conflictBanks (qs : List BankReq) : List Nat :=
  if qs.length < 2 then []
  else (List.range 96).filter fun b => 2 ≤ (qs.filter fun q => (q.lineIn b).isSome).length

/-- Banks that some requests need. -/
def banksOf (qs : List BankReq) : List Nat :=
  (qs.flatMap fun q => (List.range q.lines).map fun j => (q.firstLine + j) % 96).eraseDups

/-- The BANKCONF trap of a cycle (R43): of three or more requesters of a bank, the two that issued first.
DESIGN CHOICE: log entry 81. -/
def bankconfOf (r : Fin 288) (qs : List BankReq) (c : Nat) : Option TrapRec :=
  let banks := conflictBanks qs
  match banks with
  | [] => none
  | b :: _ =>
    let ps := qs.filter fun q => (q.lineIn b).isSome
    match ps with
    | [] => none
    | p :: rest =>
      let le (x y : BankReq) : Bool := before (x.strm, x.issue) (y.strm, y.issue)
      let first := rest.foldl (fun m x => if le x m then x else m) p
      let others := ps.filter fun x => !(x.strm == first.strm && x.issue == first.issue)
      let second := match others with | [] => first | q :: qs => qs.foldl (fun m x => if le x m then x else m) q
      let line := ((List.range second.lines).map (second.firstLine + ·)).find? fun x => banks.contains (x % 96)
      some { src := .bankconf, cause := .bankconf, faddr := t0Ptr r (64 * line.getD second.firstLine), boundary := c + 1,
             faux := w64 (c % 2 ^ 32 * 2 ^ 32 + cls second.strm * 2 ^ 10 + cls first.strm * 2 ^ 8 + b) }

/-- The requests that lose a conflict. -/
def losers (qs : List BankReq) : List (Stream × Nat) :=
  let banks := conflictBanks qs
  (qs.filter fun q => banks.any fun b => (q.lineIn b).isSome).map fun q => (q.strm, q.issue)

/-- A format word that has been put back leaves no place for one pushed in the same cycle: the FMT of that cycle met a full
queue, so it traps FMTUNDER and has no effect (R118). -/
def Core.overFull (k : Core) (c : Nat) : Core :=
  if k.regs.fq.length ≤ 16 then k
  else match k.pipe.undo.findSome? (·.pushed) with
    | none => k
    | some old =>
      let t : TrapRec := { src := .word .c, cause := .fmtunder, faddr := 0, faux := 1, boundary := c }
      { k.setStream .c old with
        regs := { k.regs with fq := k.regs.fq.dropLast }
        pipe := { k.pipe with traps := k.pipe.traps ++ [t] } }

/-- A word that lost its request is as if it had not issued: its latches and its guard touches of this cycle go, and what it
did in this cycle is taken back, the transfer of an XBR that issued in it among them (R43). -/
def Core.lose (k : Core) (c : Nat) (w : Stream × Nat) : Core :=
  let mine (st : Stream) (i : Nat) : Bool := st == w.1 && i == w.2
  let undo := k.pipe.undo.filter fun u => mine u.strm u.issue
  let rest (ls : List Latch) : List Latch := ls.filter fun l => !mine l.strm l.issue
  let k := { k with pipe := { k.pipe with latches := rest k.pipe.latches
                                          touches := k.pipe.touches.filter fun t => !mine t.strm t.issue
                                          before := k.pipe.before.map fun b => { b with latches := rest b.latches } }
                    fe := match k.fe.xbr with
                      | some x => if mine .c c && x.at_ == c + 4 then { k.fe with xbr := none } else k.fe
                      | none => k.fe }
  undo.foldl (fun k u =>
    let k := match u.popped with
      | some f => Core.overFull { k with regs := { k.regs with fq := f :: k.regs.fq } } c
      | none => k
    match u.bound with
    | some h => match k.acc.h[h.toNat]'h.isLt with
      | some t => { k with acc := { k.acc with h := k.acc.h.set h.toNat none h.isLt, free := k.acc.free.set t true } }
      | none => k
    | none => k) k

/-- The trap that describes a cycle (R141): a word's own, the lower class first; then BANKCONF; then WCOLL. -/
def chooseTrap (ts : List TrapRec) : Option TrapRec :=
  let word (st : Stream) := ts.find? fun t => t.src == .word st
  (word .c).or ((word .v).or ((word .x).or ((word .m).or
    ((ts.find? fun t => t.src == .bankconf).or ((ts.find? fun t => t.src == .wcoll).or ts.head?)))))

/-! ## The end of a cycle, and going back to its start -/

namespace Core

/-- The requests of cycle c. -/
def requests (k : Core) (c : Nat) : List BankReq := k.pipe.reqs ++ k.pipe.latches.filterMap fun l => l.request c

/-- The guard touches of the cycle join the pending one (R46). -/
def joinTouches (k : Core) : Core :=
  let k1 := k.pipe.touches.foldl (fun k t => k.touch k.ctxid t.faddr 0xFF t.write t.bank t.rel) k
  { k1 with pipe := { k1.pipe with touches := [] } }

/-- The banks that cycle c, of this package cycle, has held (R44), and whether it is among the last 256 that held one: more
than half of them leave fetch no room (R291). -/
def noteBanks (k : Core) (c now : Nat) (banks : List Nat) : Core :=
  let busy := (if banks.isEmpty then [] else [c]) ++ k.fe.fetch.busy.filter fun b => decide (c < b + 256)
  { k with fe := { k.fe with fetch := { k.fe.fetch with
      busy := busy, crowded := k.fe.fetch.crowded || decide (128 < busy.length), held := (now, banks) } } }

/-- Cycle c is over: latches whose last effect has performed leave, a release returns its slot (R214), and the guard touches
of the cycle stand. -/
def settle (k : Core) (c : Nat) : Core :=
  let freed : List (Fin 32) := k.pipe.latches.filterMap fun l => match l.kind with
    | .release t => if l.base ≤ c then some t else none
    | _ => none
  let k := k.joinTouches
  { k with
    acc := { k.acc with free := freed.foldl (fun v (t : Fin 32) => v.set t true) k.acc.free }
    pipe := { k.pipe with
      latches := k.pipe.latches.filter fun l => decide (c < l.last)
      reqs := [], undo := [], stored := [], before := none } }

/-- The slots that a word has bound in this cycle. -/
def boundNow (k : Core) (c : Nat) : List (Fin 32) :=
  k.pipe.undo.filterMap fun u =>
    if u.issue = c then match u.bound with | some h => k.acc.h[h.toNat]'h.isLt | none => none else none

/-- The core goes back to the start of cycle c, at which it stops: what was to perform in c is due again (R357, R361), and
the operand reads of c have not been made (R392); the words that issued in c keep their effects. Where strip holds, the parts
of writes that collide in c are not due again (R115, R141). An XBR whose transfer fell in c is still to transfer, unless a
word of its target has issued. DEDUCED: log entry 65. -/
def rollBack (k : Core) (c : Nat) (strip : Bool) : Core :=
  match k.pipe.before with
  | none => k
  | some b =>
    let ws := cycleWrites k.pipe.latches c
    let gone (l : Latch) (w : RegWrite) : Bool := strip && collides ws (l.strm, l.issue, w)
    let issued := k.pipe.latches.filter fun l =>
      l.issue == c && !b.latches.any fun m => m.issue == c && m.strm == l.strm
    let ls := (b.latches ++ issued).flatMap fun l => l.without c (gone l)
    let bound := k.boundNow c
    let tiles : Vector Tile 32 := Vector.ofFn fun t => if bound.contains t then k.acc.tiles[t] else b.tiles[t]
    let crossed : Bool := match b.xbr with
      | some x => x.at_ == c
          && k.fe.streams == x.tgt.map fun o => { off := o, base := c, fixed := false, parked := false }
      | none => false
    let k1 := (k.unwritten b).joinTouches
    { k1 with
      acc := { k1.acc with tiles := tiles }
      fe := if crossed then { k1.fe with streams := b.streams, xbr := b.xbr } else k1.fe
      pipe := { k1.pipe with latches := ls, reqs := [], undo := [], stored := [], before := none } }

end Core

namespace State

/-- The stores of this cycle that satisfy p are taken back, last first. -/
def unstore (s : State) (r : Fin 288) (p : StoreUndo → Bool) : State :=
  let us := (s.core r).pipe.stored
  let back (m : List Host.Cell) (u : StoreUndo) : List Host.Cell := u.old.foldl (fun m x => memWrite m x.1 x.2) m
  let t : State := { s with mem := (us.filter p).reverse.foldl back s.mem }
  t.modCore r fun k => { k with pipe := { k.pipe with stored := us.filter fun u => !p u } }

/-- The place in the port of the store of an M word that issued at a cycle. -/
def storeAt (s : State) (r : Fin 288) (issue : Nat) : Option Nat :=
  let c := s.core r
  c.mem.port.findIdx? fun a =>
    c.owns a && a.issue == issue && !a.framed && a.under.isEmpty && (match a.kind with | .store _ => true | _ => false)

/-- The store of an M word that issued at a cycle leaves the port: it never performs. -/
def storeGone (s : State) (r : Fin 288) (issue : Nat) : State :=
  match (s.storeAt r issue).bind fun j => (s.core r).mem.port[j]? with
  | some a => s.portDone r a.id
  | none => s

/-- The store of an M word has performed. Where the port's order puts an earlier access before it, only its own core sees it
yet (R236, R247): the bytes it overwrote stand under it until its turn has come. DEDUCED: log entry 29. -/
def storeDone (s : State) (r : Fin 288) (u : StoreUndo) : State :=
  match s.storeAt r u.issue with
  | none => s
  | some j => match (s.core r).mem.port[j]? with
    | none => s
    | some a =>
      if !u.old.isEmpty && s.waits ((s.core r).mem.port.take j) a then
        s.modCore r fun c =>
          let hide (x : Access) : Access := if x.id == a.id then { x with under := u.old, due := s.now } else x
          { c with mem := { c.mem with port := c.mem.port.map hide } }
      else s.portDone r a.id

/-- The words that lost their banks in cycle c, with what they did taken back. -/
def loseAll (s : State) (r : Fin 288) (c : Nat) (lost : List (Stream × Nat)) : State :=
  let s1 := s.unstore r fun u => lost.contains (u.strm, u.issue)
  lost.foldl (fun s w =>
    let s := s.modCore r fun k => k.lose c w
    if w.1 == .m then s.storeGone r w.2 else s) s1

/-- A core goes back to the start of the cycle that is under way, its stores with it; the guard touches of words that issued
in this cycle stand. -/
def backTo (s : State) (r : Fin 288) (strip : Bool) : State :=
  let c := (s.core r).sp.cyc
  if (s.core r).pipe.before.isNone then s
  else (s.unstore r fun _ => true).modCore r fun k =>
    { k with pipe := { k.pipe with touches := k.pipe.touches.filter fun t => t.issue == c } }.rollBack c strip

/-- The cycle of a core is over: its stores have performed. -/
def closeCycle (s : State) (r : Fin 288) : State :=
  let c := (s.core r).sp.cyc
  let done := (s.core r).pipe.stored.filter fun u => u.strm == .m
  let s1 := s.modCore r fun k => k.settle c
  done.foldl (fun s u => s.storeDone r u) s1

end State

end Sys2Proof.Machine
end

