-- ==== Sys2Proof/Machine/Freeze.lean ====
section
/-! DEFINITION. Freezes, arrivals and the events that stop a task (R47-R49, R122, R353-R357, R403). -/

namespace Sys2Proof.Machine

namespace Core

/-- The core runs a task that is neither waiting for its aligned start or for the record of its rerun, nor frozen, nor
stopped. -/
def active (c : Core) : Bool :=
  (match c.tasks.run with | some r => !r.aligned | none => false) && c.freeze.isNone && c.stop.isNone
    && !c.pending.rerun

/-- The gang of the running task, if it is a member (R24). -/
def gang (c : Core) : Option (BitVec 16) :=
  if c.tasks.run.isSome && (c.descWord 0).getLsbD 8 then some ((c.descWord 7).extractLsb' 48 16) else none

/-- A landing, ATOM or capture that is due now. -/
def dueLandings (c : Core) : List Landing := c.mem.landings.filter fun l => l.arrive ≤ c.sp.cyc

/-- GUARD has been taken: the stop keeps whether bytes of an ACST with .rel were among those dropped (R46, R360). -/
def guardTaken (c : Core) : Core :=
  let lost : Bool := match c.guard with | some g => g.lostRel | none => false
  { c.setGuard c.ctxid none with stop := c.stop.map fun st => { st with lostRel := lost } }

end Core

/-- The landing's value has reached the core by a package cycle (R48). -/
def Landing.here (l : Landing) (now : Nat) : Bool := l.value.isSome && l.ready ≤ now

/-- The cycles for which a gang freeze has already frozen a member that has resumed. -/
def GangFreeze.had (g : GangFreeze) (r : Nat) : Option Nat :=
  (g.served.find? fun x => x.1 == r).map (·.2)


namespace State

/-- REMOTE stamps of chains of a core, held by translation at a link engine (R401). -/
def heldStamps (s : State) (r : Fin 288) : List (Nat × HeldAccess) :=
  s.engines.toList.flatMap fun e => e.remote.filterMap fun x => match x.held with
    | some h => if h.freezes && x.chain.isSome && x.rank == r then some (1, h) else none
    | none => none

/-- Accesses held by translation that freeze a core: the SRC of the record, and the record's words (R349). -/
def heldFor (s : State) (r : Fin 288) : List (Nat × HeldAccess) :=
  s.heldStamps r ++
  ((s.core r).mem.port.filterMap fun a => match a.held with
      | some g =>
        if a.freezes then
          some (0, { ptr := a.addr, write := a.kind.writes, reason := a.reason, gen := g, order := a.order, freezes := true })
        else none
      | none => none)
    ++ s.engines.toList.filterMap fun e => match e.queue.head?, e.walk with
      | some ch, some w => match w.held with
        | some h => if h.freezes && ch.rank == r then some (1, h) else none
        | none => none
      | _, _ => none

/-- The accesses of a core whose values have not reached it by a package cycle. -/
def lateBy (s : State) (r : Fin 288) (t : Nat) : List Landing :=
  (s.core r).dueLandings.filter fun l => !l.faulted && !l.here t

/-- The late accesses of a core in this package cycle. -/
def lateAt (s : State) (r : Fin 288) : List Landing := s.lateBy r s.now

/-- A cause of the core's own freezes it in this package cycle (R353). -/
def frozenBy (s : State) (r : Fin 288) : Bool :=
  let c := s.core r
  !(s.lateAt r).isEmpty || s.now < c.fe.fetchUntil || s.now < c.fe.rftUntil || !(s.heldFor r).isEmpty

/-- A cause of the core's own froze it in the cycle just over (R355). -/
def wasFrozenBy (s : State) (r : Fin 288) : Bool :=
  let c := s.core r
  !(s.lateBy r (s.now - 1)).isEmpty || s.now ≤ c.fe.fetchUntil || s.now ≤ c.fe.rftUntil || !(s.heldFor r).isEmpty

/-- The package cycle at which the causes of a core's freeze end, once it is known (R354). -/
def causeEnd (s : State) (r : Fin 288) : Option Nat :=
  let c := s.core r
  if !(s.heldFor r).isEmpty then none
  else if (s.lateAt r).any fun l => l.value.isNone then none
  else some ((s.lateAt r).foldl (fun m l => max m l.ready) (max c.fe.fetchUntil c.fe.rftUntil))

/-- The other members of a gang that run in the package. -/
def membersOf (s : State) (g : BitVec 16) (r : Fin 288) : List Nat :=
  (List.finRange 288).filterMap fun n =>
    if n != r && (s.core n).gang == some g && (s.core n).stop.isNone then some n.val else none

/-- A freeze counter of the scree (R402). -/
def countFreeze (s : State) (i : Nat) : State :=
  { s with scree := { s.scree with freezes := vecMod s.scree.freezes i fun n => min (n + 1) (2 ^ 64 - 1) } }

/-- A core freezes at its task cycle; a gang member's freeze joins the gang's freeze that has still to take it, or begins
one (R27, R354, R372). -/
def freezeCore (s : State) (r : Fin 288) : State :=
  let c := s.core r
  let s := s.countFreeze (if !(s.lateAt r).isEmpty then 0 else if s.now < c.fe.fetchUntil then 1 else 2)
  let set (s : State) (g : Option Nat) : State :=
    s.modCore r fun c => { c with freeze := some { since := s.now, cyc := c.sp.cyc, causeTo := s.now, gang := g } }
  match c.gang with
  | none => set s none
  | some g =>
    match s.gangs.find? fun (x : GangFreeze) => x.gangid == g && x.stop.isNone && x.toTake.contains r.val with
    | some x =>
      set { s with gangs := s.gangs.map fun (y : GangFreeze) => if y.id == x.id then { y with toTake := y.toTake.filter (· != r.val) } else y }
        (some x.id)
    | none =>
      let x : GangFreeze :=
        { id := s.serial, gangid := g, cyc := c.sp.cyc, span := none, toTake := s.membersOf g r, served := [],
          stop := none }
      set { s.bump with gangs := s.gangs ++ [x] } (some s.serial)

/-- A landing or ATOM that a translation fault still holds at the stop of its task is held no longer: it goes into the frame,
and its record stands (R349). -/
def dropHeld (s : State) (r : Fin 288) : State :=
  s.modCore r fun c =>
    let drop (a : Access) : Access :=
      if a.held.isSome && c.mem.landings.any (fun l => l.id == a.id) then
        { a with held := none, freezes := false, framed := true, first := none }
      else a
    { c with mem := { c.mem with port := c.mem.port.map drop } }

/-- Bucket of a lateness (R403). -/
def lateBucket (l : Nat) : Nat := min 15 (Nat.log2 l)

/-- Late values are counted in the scree, each from the cycle from which its core has waited for it. -/
def countLate (s : State) (since : Nat) (ls : List Landing) : State :=
  ls.foldl (fun s l =>
    let t := l.late.getD since
    if l.value.isSome && t < l.ready && !l.counted then
      let h := vecMod s.scree.lateness (lateBucket (l.ready - t)) fun n => min (n + 1) (2 ^ 64 - 1)
      { s with scree := { s.scree with lateness := h } }
    else s) s

/-- The landings that a core has waited for since a package cycle are counted where their value is known, and the others when
it comes (R403). -/
def lateStop (s : State) (r : Fin 288) (since : Nat) : State :=
  (s.countLate since (s.core r).dueLandings).modCore r fun c =>
    let mark (l : Landing) : Landing :=
      if l.arrive ≤ c.sp.cyc then { l with counted := l.counted || l.value.isSome, late := some (l.late.getD since) } else l
    { c with mem := { c.mem with landings := c.mem.landings.map mark } }

/-- The exception is taken on a core: a cycle that was under way is taken back to its start, the frozen span joins FRZ, and
what the task's landings wait for by translation is held no longer (R141, R349, R357). -/
def haltCore (s : State) (r : Fin 288) (cause : Cause) (kind : FrameKind) (boundary : Nat) (faddr faux : W64)
    (resumable : Bool) : State :=
  let s := match (s.core r).freeze with | some f => s.lateStop r f.since | none => s
  ((s.backTo r false).dropHeld r).modCore r fun c =>
    let c := match c.freeze with
      | some f => { c with sp := { c.sp with frz := c.sp.frz + (s.now - f.since) }, freeze := none }
      | none => c
    c.takeStop s.now cause kind boundary faddr faux (kind != .eviction) resumable

/-- A task stops, and a stop of a gang member takes the others (R357). -/
def stopCore (s : State) (r : Fin 288) (cause : Cause) (kind : FrameKind) (boundary : Nat) (faddr faux : W64)
    (resumable : Bool) : State :=
  let s1 := s.haltCore r cause kind boundary faddr faux resumable
  match (s1.core r).gang, kind, (s1.core r).stop with
  | some g, .eviction, _ =>
    { s1 with gangs := s1.gangs.map fun (y : GangFreeze) =>
        if y.gangid == g then { y with toTake := y.toTake.filter (· != r.val) } else y }
  | some g, _, some st =>
    let x : GangFreeze :=
      { id := s.serial, gangid := g, cyc := boundary, span := none, toTake := s.membersOf g r, served := [],
        stop := some (st, r.val) }
    let left := (s1.gangs.filter fun (y : GangFreeze) => y.gangid != g || y.stop.isSome).map fun (y : GangFreeze) =>
      if y.gangid == g then { y with toTake := y.toTake.filter (· != r.val) } else y
    { s1.bump with gangs := left ++ [x] }
  | _, _, _ => s1

/-- FAUX of an interrupt that names the boundary (R154). -/
def cycFaux (b : Nat) : W64 := w64 (b % 2 ^ 32 * 2 ^ 32)

/-- The cycles for which a span keeps a member frozen: whole revolutions under ALIGNQ (R49, R354). -/
def fullSpan (alignq : Bool) (d : Nat) : Nat := if alignq then (d + 1023) / 1024 * 1024 else d

/-- A gang freeze or stop that takes a core now: at 64 cycles after the first; at once where a stop finds the member frozen;
or once more where the span has grown since the member resumed (R354, R355, R357). DESIGN CHOICE: log entry 31. -/
def gangTakes (s : State) (r : Fin 288) : Option GangFreeze :=
  let c := s.core r
  if c.stop.isSome then none
  else s.gangs.find? fun g =>
    c.gang == some g.gangid
      && ((g.toTake.contains r.val
            && (if g.stop.isSome then c.freeze.isSome || g.cyc + 64 ≤ c.sp.cyc else c.freeze.isNone && g.cyc + 64 ≤ c.sp.cyc))
          || (c.freeze.isNone && match g.had r.val, g.span with
            | some h, some d => decide (h < fullSpan c.alignq d)
            | _, _ => false))

end State

/-- GANG_FREEZE: the gang's freeze or stop takes a member at its own cycle (R27, R354, R357). -/
def execGangFreeze (r : Fin 288) (s : State) : Out :=
  match s.gangTakes r with
  | none => .next s
  | some g =>
    let s1 := { s with gangs := s.gangs.map fun (y : GangFreeze) =>
      if y.id == g.id then { y with toTake := y.toTake.filter (· != r.val) } else y }
    match g.stop with
    | none => .next <| (s1.countFreeze 3).modCore r fun c =>
        { c with freeze := some { since := s.now, cyc := c.sp.cyc, causeTo := s.now, gang := some g.id } }
    | some (st, first) =>
      let b := (s.core r).sp.cyc
      .next (s1.haltCore r st.cause .interrupt b 0 (w64 (b % 2 ^ 32 * 2 ^ 32 + 2 ^ 31 + first)) true)

namespace State

/-- No member's own cause, as far as it shows, outlasts a span of the gang, seen from its own freeze. -/
def spanCovers (s : State) (g d : Nat) : Bool :=
  (List.finRange 288).all fun n => match (s.core n).freeze with
    | some f => f.gang != some g || (match s.causeEnd n with | some e => e ≤ f.since + d | none => false)
    | none => true

/-- The freeze of a core reaches its budget in this package cycle: a cause of its own held it until now, or the span of its
gang does; the rounding of R49 does not, and data that come in this very cycle come too late (R355, R372). -/
def expires (s : State) (r : Fin 288) : Bool :=
  match (s.core r).freeze with
  | none => false
  | some f =>
    let d := s.now - f.since
    let gang : Bool := match f.gang.bind fun id => s.gangs.find? fun (g : GangFreeze) => g.id == id with
      | some g => match g.span with | some n => decide ((g.had r.val).getD 0 + d ≤ n) | none => false
      | none => false
    decide ((s.core r).attr.budget ≤ d) && (s.wasFrozenBy r || gang)

/-- The freeze of a core ends in this package cycle (R49, R353, R354): that of a gang member when it has lasted the span D of
its gang. Where D is not fixed, which is so only while the machine looks ahead for it, it is taken from the causes that show.
DESIGN CHOICE: log entry 31. -/
def thaws (s : State) (r : Fin 288) : Bool :=
  let c := s.core r
  match c.freeze with
  | none => false
  | some f =>
    let d := s.now - f.since
    d != 0 && !s.frozenBy r && !s.expires r && (!c.alignq || d % 1024 == 0)
      && match f.gang with
        | none => true
        | some id => match s.gangs.find? fun (g : GangFreeze) => g.id == id with
          | none => true
          | some g => match g.span with
            | some n => decide (n ≤ (g.had r.val).getD 0 + d)
            | none =>
              -- the member that froze first fixes the span
              ((List.finRange 288).all fun n => match (s.core n).freeze with
                | some h => h.gang != some id || f.since ≤ h.since
                | none => true) && s.spanCovers id d

/-- A gang freeze has taken every member that still runs, and each has been frozen for the whole span. -/
def gangOver (s : State) (g : GangFreeze) : Bool :=
  (List.finRange 288).all fun n =>
    let c := s.core n
    c.gang != some g.gangid || c.stop.isSome
      || (!g.toTake.contains n.val && (match c.freeze with | some h => h.gang != some g.id | none => true)
            && (match g.had n.val, g.span with
              | some h, some d => h == fullSpan c.alignq d
              | some _, none => false
              | none, _ => true))

/-- A gang freeze whose span is still to be fixed (R354). -/
def spanDue (s : State) : Option Nat := (s.gangs.find? fun (g : GangFreeze) => g.span.isNone && g.stop.isNone).map (·.id)

/-- The span of a gang freeze is fixed. -/
def setSpan (s : State) (id d : Nat) : State :=
  { s with gangs := s.gangs.map fun (g : GangFreeze) => if g.id == id then { g with span := some d } else g }

/-- The least span that covers the causes which hold members of a gang freeze in this cycle, each from its own freeze
(R354). -/
def shownSpan (s : State) (id : Nat) : Nat :=
  (List.finRange 288).foldl (fun m n => match (s.core n).freeze with
    | some f => if f.gang == some id && s.frozenBy n then max m (s.now + 1 - f.since) else m
    | none => m) 0

end State

/-- FREEZE_END (R49, R353, R354). -/
def execFreezeEnd (r : Fin 288) (s : State) : Out :=
  match (s.core r).freeze with
  | none => .next s
  | some f =>
    if !s.thaws r then .next s
    else
      let d := s.now - f.since
      let due := (s.core r).dueLandings
      let s1 := (s.countLate f.since due).modCore r fun c =>
        { c with
          freeze := none
          sp := { c.sp with frz := c.sp.frz + d }
          mem := { c.mem with landings := c.mem.landings.map fun l =>
            if l.arrive ≤ c.sp.cyc then { l with counted := true } else l } }
      match f.gang with
      | none => .next s1
      | some id =>
        let gs := s1.gangs.map fun (g : GangFreeze) =>
          if g.id == id then
            let n := (g.had r.val).getD 0 + d
            { g with span := match g.span with
                       | some m => some (if n ≤ State.fullSpan (s.core r).alignq m then m else n)
                       | none => some n
                     served := (g.served.filter fun x => x.1 != r.val) ++ [(r.val, n)] }
          else g
        .next { s1 with gangs := gs.filter fun g => !(g.id == id && s1.gangOver g) }

namespace State



/-- KIND of a late access (R356). -/
def lateKind (k : LandKind) : Nat :=
  match k with | .land .. => 1 | .lands _ => 2 | .atom _ => 3 | .capture .. => 4

/-- FADDR and FAUX of LANDLATE, by what held the core in the cycle just over (R356). The rule gives no KIND to a gang member
that none of its own accesses held. DESIGN CHOICE: log entry 107. -/
def landlateWords (s : State) (r : Fin 288) : W64 × W64 :=
  let c := s.core r
  let late := s.lateBy r (s.now - 1)
  let word (k n : Nat) : W64 := w64 (c.sp.cyc % 2 ^ 32 * 2 ^ 32 + k * 2 ^ 16 + n)
  match late with
  | l :: rest =>
    let e := rest.foldl (fun m x => if x.arrive < m.arrive then x else m) l
    ((match e.kind with | .capture .. => 0 | _ => e.source), word (lateKind e.kind) late.length)
  | [] =>
    if s.now ≤ c.fe.rftUntil then (c.readA 0, word 6 1)
    else if s.now ≤ c.fe.fetchUntil then (0, word 5 1)
    else (w64 (Config.openValue s.serial 8), word (Config.openValue s.serial 9 % 256) (Config.openValue s.serial 10 % 128))

/-- FADDR and FAUX of XLATE (R356): those of the oldest record that freezes the core. -/
def xlateWords (hs : List (Nat × HeldAccess)) : W64 × W64 :=
  match hs with
  | [] => (0, 0)
  | h :: rest =>
    let o := rest.foldl (fun m x => if x.2.order < m.2.order then x else m) h
    (o.2.ptr, w64 (o.2.gen.toNat * 2 ^ 32 + o.2.reason * 2 ^ 4 + o.1))

/-- The held accesses of a core stop freezing it (R355). -/
def releaseHeld (s : State) (r : Fin 288) : State :=
  let s1 := s.modCore r fun c => { c with mem := { c.mem with
    port := c.mem.port.map fun a => { a with freezes := false } } }
  let free (h : HeldAccess) : HeldAccess := { h with freezes := false }
  let s2 := { s1 with engines := s1.engines.map fun (e : Engine) =>
    { e with remote := e.remote.map fun (x : RemoteStamp) => if x.rank == r then { x with held := x.held.map free } else x } }
  { s2 with engines := s2.engines.map fun e => match e.queue.head?, e.walk with
      | some ch, some w =>
        if ch.rank == r then { e with walk := some { w with held := w.held.map fun h => { h with freezes := false } } } else e
      | _, _ => e }

end State

/-- BUDGET_EXPIRY: XLATE if a held access freezes the core, else LANDLATE (R355, R356). -/
def execBudgetExpiry (r : Fin 288) (s : State) : Out :=
  if !s.expires r then .next s
  else
    let b := (s.core r).sp.cyc
    let held := s.heldFor r
    if held.isEmpty then
      let w := s.landlateWords r
      .next ((s.countFreeze 4).stopCore r .landlate .budget b w.1 w.2 true).bump
    else
      let w := State.xlateWords held
      .next (((s.countFreeze 5).stopCore r .xlate .budget b w.1 w.2 true).releaseHeld r)

/-- TIMER is due at this boundary: TMCMP holds its cycle, and was not written in that cycle, which a GUARD taken at a task's
end leaves behind (R122). -/
def Core.timerDue (c : Core) : Bool :=
  c.active && c.pipe.before.isNone && c.sp.tmcmp != 0 && c.sp.tmcmp.toNat == c.sp.cyc
    && (c.tasks.slots[c.slot]).settledAt != some c.sp.cyc

/-- TIMER: the interrupt at the boundary before task cycle TMCMP, which it clears (R122). -/
def execTimer (r : Fin 288) (s : State) : Out :=
  let c := s.core r
  if c.timerDue then
    .next ((s.modCore r fun c => { c with sp := { c.sp with tmcmp := 0 } }).stopCore r .timer .interrupt c.sp.cyc 0
      (State.cycFaux c.sp.cyc) true)
  else .next s

namespace State

/-- A landing leaves the buffer and its value is written as a result of this cycle (R47, R113, R115). -/
def land (s : State) (r : Fin 288) (l : Landing) (ks : List LatchKind) : State :=
  s.modCore r fun c =>
    let mk (k : LatchKind) : Latch :=
      { strm := .m, pc := 0, word := l.source, issue := l.issue, base := c.sp.cyc, parts := BitVec.allOnes 8,
        flags := 0, guards := [], kind := k }
    { c with
      mem := { c.mem with landings := c.mem.landings.filter fun x => x.id != l.id }
      pipe := { c.pipe with latches := c.pipe.latches ++ ks.map mk } }

/-- The landing of an id that is due. -/
def dueLanding (s : State) (r : Fin 288) (id : Nat) : Option Landing :=
  if (s.core r).active then (s.core r).dueLandings.find? fun l => l.id == id else none

/-- The value of a LAND, LANDS or ATOM that has come is written; poison is consumed (R47, R367). -/
def takeLanding (s : State) (r : Fin 288) (l : Landing) : State :=
  match l.value, l.kind with
  | some (.spoilt line bank), _ =>
    (s.land r l []).modCore r fun c => { c with pending := { c.pending with uncorr := some (.layer, line, BitVec.ofNat 16 bank) } }
  | some (.bytes bs), .land vd _ => s.land r l [.vec vd (VReg.ofBytes bs) MReg.ones true]
  | some (.bytes bs), .lands sd => s.land r l [.scal sd (w64 (leValue bs))]
  | some (.bytes bs), .atom sd => s.land r l [.scal sd (w64 (leValue bs))]
  | _, _ => s

/-- XLATE of a pending landing saved with FAULT = 1 (R365): FADDR is its SOURCE,
FAUX that of its record (R356), and it will be issued again. -/
def faultArrives (s : State) (r : Fin 288) (l : Landing) : State :=
  (s.modCore r fun c => { c with mem := { c.mem with landings := c.mem.landings.map fun x =>
      if x.id == l.id then { x with faulted := false, value := none } else x } }).stopCore r .xlate .trap
    (s.core r).sp.cyc l.source l.faux true

end State

/-- LANDING_ARRIVAL: the arrival cycle of a LAND, LANDS or ATOM: its value is written, or the core freezes (R47, R48,
R239). -/
def execLandingArrival (r : Fin 288) (id : Nat) (s : State) : Out :=
  match s.dueLanding r id with
  | none => .next s
  | some l =>
    if l.faulted then .next (s.faultArrives r l)
    else if !l.here s.now then
      -- an access to a lost layer never freezes its core (R386)
      match s.lostAccess r l with
      | some a => .next (s.meetLost r a)
      | none => .next (s.freezeCore r)
    else .next (s.takeLanding r l)

/-- CAPTURE_RESULT: the arrival cycle of a capture: its result pair, its status, or nothing is written, it ends with
RINGFAULT, or the core freezes (R76, R83, R262). -/
def execCaptureResult (r : Fin 288) (id : Nat) (s : State) : Out :=
  match s.dueLanding r id with
  | none => .next s
  | some l =>
    if !l.here s.now then .next (s.freezeCore r)
    else match l.value, l.kind with
      | some (.pair old st), .capture sd pair single =>
        .next (s.land r l (if pair then [.scal sd old, .scal (sd + 1) st] else if single then [.scal sd st] else []))
      | some (.ringFault t j n), _ =>
        let c := (s.core r).sp.cyc
        .next ((s.land r l []).stopCore r .ringfault .trap c 0 (ringFaux c t j n) true)
      | _, _ => .next s

namespace State

/-- CAIRN and DEBUG, taken frozen or not; CAIRN from the cycle after its publication, so that a task whose end cycle that
is has ended (R390). -/
def owesLate (c : Core) (now b : Nat) : Option (Cause × FrameKind × W64 × W64) :=
  let debug := if c.pending.debug then some (Cause.debug, FrameKind.interrupt, (0 : W64), cycFaux b) else none
  match c.pending.cairn with
  | some (v, t) => if t ≤ now then some (.cairn, .interrupt, 0, v.setWidth 64) else debug
  | none => debug

/-- The stop a core owes, if any: cause, kind, FADDR and FAUX (R46, R58, R154, R357, R368, R385, R389). -/
def owes (s : State) (r : Fin 288) : Option (Cause × FrameKind × W64 × W64) :=
  let c := s.core r
  let b := c.sp.cyc
  if c.tasks.run.isNone || c.stop.isSome || c.pending.rerun then none
  else match c.pending.mapstale with
    | some v => some (.mapstale, .eviction, 0, v.setWidth 64)
    | none =>
      if c.pending.evict || c.pending.preempt then some (.preempt, .eviction, 0, cycFaux b)
      else if c.active && c.bars.pend.any id then
        some (.barrier, .trap, 0, w64 ((c.bars.pend.toList.findIdx? id).getD 0))
      else match c.guard with
        | some g => if g.due && c.active then some (.guard, .trap, g.faddr, g.faux) else owesLate c s.now b
        | none => owesLate c s.now b
/-- The saturation marks in a context's barrier image of a core are cleared (R58, R358). -/
def clearPend (s : State) (id : BitVec 16) (r : Nat) : State :=
  match s.ctx? id with
  | none => s
  | some x => (List.range 256).foldl (fun s b =>
      let off := x.block r + 0x180000 + 8 * b
      let w := s.rawWord .lpddr off
      if w.getLsbD 63 then s.putWord .lpddr off (w &&& ~~~(1#64 <<< 63)) else s) s

/-- The stop that a core owes is taken at its boundary. With BARRIER the marks of saturation are cleared, those of the core
and those in its image (R58). -/
def takeOwed (s : State) (r : Fin 288) : State :=
  match s.owes r with
  | none => s
  | some (cause, kind, faddr, faux) =>
    let s0 := s.stopCore r cause kind (s.core r).sp.cyc faddr faux true
    let s1 := match cause with | .barrier => s0.clearPend (s.core r).ctxid r.val | _ => s0
    s1.modCore r fun c => match cause with
      | .barrier => { c with bars := { c.bars with pend := Vector.replicate 256 false } }
      | .guard => c.guardTaken
      | .cairn => { c with pending := { c.pending with cairn := none } }
      | .debug => { c with pending := { c.pending with debug := false } }
      | .mapstale => { c with pending := { c.pending with mapstale := none, evict := false } }
      | _ => { c with pending := { c.pending with evict := false, preempt := false } }

end State

end Sys2Proof.Machine
end

