-- ==== Sys2Proof/Machine/Frames.lean ====
section
/-! DEFINITION. Context frames (R358-R365, R392): writing the frame of a stopped task, and reading it back. -/

namespace Sys2Proof.Machine

/-- Bytes of a 64-bit word, and of words in a row. -/
def wordBytes (w : W64) : List Byte := leBytes 8 w.toNat
def natBytes (n : Nat) : List Byte := leBytes 8 n

/-- The word in a list of bytes at an offset. -/
def wordAt (bs : List Byte) (off : Nat) : W64 := w64 (leValue ((bs.drop off).take 8))

/-! ## Fetch -/

/-- The word that a stream's fetch buffer holds for an offset (R44, R278, R291). -/
def Core.buffered (c : Core) (st : Stream) (off : Nat) : Option W64 :=
  (c.fe.fetch.bufs[streamIx st].find? fun x => x.1 == off).map (·.2)

/-- A test of a TASKQ, COPY or CSTAT has still to be made. -/
def Latch.isTest (l : Latch) : Bool :=
  match l.kind with | .taskqTest .. | .engineTest .. | .chainGo .. => true | _ => false

namespace State

/-- The instruction word at a terrace 0 offset, as it stands there now; where the section runs past the addressable terrace
the spec names no word (R140). DESIGN CHOICE: log entry 8. DESIGN CHOICE: log entry 66. -/
def fetchWord (s : State) (r : Fin 288) (off : Nat) : W64 :=
  if off + 8 ≤ t0Top then s.rawWord (.t0 r) off else w64 (Config.openValue off 1)

/-- The word that a stream issues from an offset: its buffer's, or the one that stands there. -/
def streamWord (s : State) (r : Fin 288) (st : Stream) (off : Nat) : W64 :=
  ((s.core r).buffered st off).getD (s.fetchWord r off)

/-- The issue cycle of a stream's next word (R137), if it has one. Once TEND has issued no stream has, also not for a word that
trapped in TEND's own cycle. DESIGN CHOICE: log entry 92. -/
def nextIssue (s : State) (r : Fin 288) (st : Stream) : Option Nat :=
  let c := s.core r
  let p := c.stream st
  if p.parked || c.fe.tended.isSome then none
  else if p.fixed then some p.base
  else some (p.base + bits (s.streamWord r st (c.section_ st + p.off)) 54 10)

end State

/-! ## The latch table (R361, R392) -/

/-- An entry of the latch table with its data. -/
structure LatchRow where
  kind : Nat
  strm : Stream
  parts : Nat
  flags : BitVec 6
  /-- base cycle -/
  base : Nat
  issue : Nat
  dest : Nat
  addr : W64
  data : List Byte
deriving DecidableEq, Repr

/-- DEST of a slot: the handle bound to it, or 0x8000 and its number. DEDUCED: log entry 26. -/
def Core.slotDest (c : Core) (t : Fin 32) : Nat :=
  match (List.range 16).find? fun h => (c.acc.h[h]?).getD none == some t with
  | some h => h
  | none => 0x8000 + t.val

/-- The parts of a latch that are due at or after B. DEDUCED: log entry 24. -/
def Latch.partsFrom (l : Latch) (b : Nat) : List Nat :=
  (List.range 8).filter fun k => l.parts.getLsbD k && decide (b ≤ l.base + k)

/-- A PARTS field. -/
def partsField (ks : List Nat) : Nat := ks.foldl (fun n k => n + 2 ^ k) 0

/-- The masks that a V word has read, with k0 whole: its portions are ones whenever they are read. -/
def Latch.enables (l : Latch) (mops : List MReg) : List MReg :=
  match vPlan l.instr with
  | some p => (mops.zip p.msks).map fun x => if x.2 = 0 then MReg.ones else x.1
  | none => mops

/-- Rows of a V word in flight: slices read before B are ordinary latches, the rest a resumed word (R392); a word without
vector or mask operands has read all it reads at its issue. -/
def Latch.vRows (l : Latch) (b : Nat) (scal : List W64) (ops : List VReg) (mops : List MReg) : List LatchRow :=
  let bare : Bool := match vPlan l.instr with | some p => p.srcs.isEmpty && p.msks.isEmpty | none => false
  let read (k : Nat) : Bool := bare || decide (l.issue + k < b)
  let due := l.partsFrom b
  let res := vEval l.instr scal ops mops
  let row (ks : List Nat) : List LatchRow :=
    if ks.isEmpty then []
    else (res.writes.zip (vEval l.instr scal ops (l.enables mops)).writes).mapIdx fun j w =>
      let f : BitVec 6 := if j = 0 then res.flags else 0
      let en : MReg := match w.2 with | .vec _ _ en | .msk _ _ en => en
      match w.1 with
      | .vec r v _ => { kind := 2, strm := .v, parts := partsField ks, flags := f, base := l.base, issue := l.issue,
                        dest := r.toNat, addr := 0, data := v.toList ++ MReg.bytes en }
      | .msk r m _ => { kind := 3, strm := .v, parts := partsField ks, flags := f, base := l.base, issue := l.issue,
                        dest := r.toNat, addr := 0, data := MReg.bytes m ++ MReg.bytes en }
  let resumed (ks : List Nat) (extra : List Byte) : List LatchRow :=
    if ks.isEmpty then []
    else [{ kind := 11, strm := .v, parts := partsField ks, flags := 0, base := l.issue, issue := l.issue,
            dest := match res.writes with | .vec r .. :: _ => r.toNat | .msk r .. :: _ => r.toNat | [] => 0
            addr := l.word, data := scal.flatMap wordBytes ++ extra }]
  if read 7 then row due
  else if crossSlice l.instr then
    let slices := (List.range 8).filter read
    resumed due ((ops.flatMap fun v => slices.flatMap fun k => (v.toList.drop (256 * k)).take 256)
      ++ mops.flatMap fun m => slices.flatMap fun k => ((MReg.bytes m).drop (32 * k)).take 32)
  else row (due.filter read) ++ resumed (due.filter fun k => !read k) []

/-- The pointers of an X word's row: those that it read, and the format word of an MMA or MMAC. DEDUCED: log entry 25. -/
def xPointers (i : Instr) (ptrs : List W64) (fmt : W64) : List Byte :=
  match i with
  | .mma _ (.t0 _) _ _ | .mmac _ (.t0 _) _ _ => ptrs.flatMap wordBytes ++ wordBytes fmt
  | .mma .. | .mmac .. => (ptrs.drop 1).flatMap wordBytes ++ wordBytes fmt
  | _ => (ptrs.take 1).flatMap wordBytes

/-- The cycles from issue to the last terrace 0 read of an X word (R222, R228). -/
def Latch.lastRead (l : Latch) (fmt : W64) : Nat :=
  let mma (complex : Bool) (a : ASrc) : Nat :=
    match parseFormat fmt (match a with | .slot _ => true | _ => false) complex with
    | some f => if f.bsc then 5 else if f.asc then 4 else 3
    | none => 3
  match l.instr with
  | .mma _ a _ _ => mma false a
  | .mmac _ a _ _ => mma true a
  | _ => 19

/-- The rows of a latch at the stop of its task; the tests of TASKQ, COPY and CSTAT have been made by then (R363).
DEDUCED: log entry 24. DEDUCED: log entry 25. -/
def Latch.rows (c : Core) (r : Nat) (b : Nat) (l : Latch) : List LatchRow :=
  let row (kind dest : Nat) (addr : W64) (data : List Byte) : LatchRow :=
    { kind := kind, strm := l.strm, parts := 0xFF, flags := l.flags, base := l.base, issue := l.issue, dest := dest,
      addr := addr, data := data }
  let sliced (kind dest : Nat) (whole : Bool) (data : List Byte) : LatchRow :=
    { row kind dest 0 data with parts := if whole then 0xFF else partsField (l.partsFrom b) }
  match l.kind with
  | .scal d v => [row 1 d.toNat 0 (wordBytes v)]
  | .addr d v => [row 1 (0x8000 + d.toNat) 0 (wordBytes v)]
  | .vec d v en w => [sliced 2 d.toNat w (v.toList ++ MReg.bytes en)]
  | .msk d v en w => [sliced 3 d.toNat w (MReg.bytes v ++ MReg.bytes en)]
  | .tile t x => [row 4 (c.slotDest t) 0 (Tile.image x)]
  | .elem t i x => [row 5 (c.slotDest t) (w64 i) (natBytes x.toNat)]
  | .store off bs scalar =>
    let mask := if scalar then [] else MReg.bytes (MReg.ofFn fun j => ((bs[j]?).map (·.2)).getD false)
    [row 6 bs.length (t0Ptr r off) (bs.map (·.1) ++ mask)]
  | .tileStore off t _ => [row 7 0 (t0Ptr r off) (Tile.image t)]
  | .special n v => [row 8 n.toNat 0 (wordBytes v)]
  | .release t => [row 9 (c.slotDest t) 0 []]
  | .compare m d off ref opnd =>
    let n := if m then 20480 else 2048
    let pad (bs : List Byte) : List Byte := bs ++ List.replicate (n - bs.length) 0
    [row 10 d (t0Ptr r off) (pad ref ++ pad opnd)]
  | .vword scal ops mops => l.vRows b scal ops mops
  | .xword t ptrs fmt ab bb sa sb hs =>
    let acc : Bool := match l.instr with | .mma _ _ _ acc | .mmac _ _ _ acc => acc | _ => false
    let slotA : Bool := match l.instr with | .mma _ (.slot _) _ _ | .mmac _ (.slot _) _ _ => true | _ => false
    if !acc && l.issue + l.lastRead fmt < b then
      let p := l.product Tile.zero
      [{ row 4 (c.slotDest t) 0 (Tile.image p.1) with flags := p.2 }]
    else
      [{ row 11 (c.slotDest t) l.word (xPointers l.instr ptrs fmt ++ ab ++ bb ++ sa ++ sb
          ++ (if slotA then Tile.image hs else [])) with base := l.issue }]
  | .taskqTest .. | .engineTest .. | .chainGo .. => []

/-- A size rounded up to a multiple of 64. -/
def up64 (n : Nat) : Nat := (n + 63) / 64 * 64

/-- The rows placed one after another from a data offset: each with its DATAOFF. DEDUCED: log entry 25. -/
def placeRows : Nat → List LatchRow → List (Nat × LatchRow)
  | _, [] => []
  | o, r :: rest => (o, r) :: placeRows (o + up64 r.data.length) rest

/-- The 32 bytes of a latch entry. -/
def LatchRow.entry (r : LatchRow) (b off : Nat) : List Byte :=
  let rem : Nat := (((r.base : Int) - b) % 2 ^ 32).toNat
  natBytes (r.kind * 2 ^ 56 + cls r.strm * 2 ^ 50 + r.parts * 2 ^ 40 + r.flags.toNat * 2 ^ 32 + rem)
    ++ natBytes r.issue ++ natBytes ((if r.data.isEmpty then 0 else off) * 2 ^ 32 + r.dest) ++ wordBytes r.addr

/-! ## The landing table (R362) -/

/-- KIND, DEST, INFO and data of a pending landing; of an ATOM that has not performed, its word and operands. -/
def Landing.fields (l : Landing) : Nat × Nat × Nat × List Byte :=
  match l.kind with
  | .land vd xf => (1, vd.toNat, xf.toNat, match l.value with | some (.bytes bs) => bs | _ => [])
  | .lands sd => (2, sd.toNat, 0, match l.value with | some (.bytes bs) => bs | _ => [])
  | .atom sd => (3, sd.toNat, 0, match l.value with
      | some (.bytes bs) => bs
      | _ => wordBytes l.word ++ wordBytes l.opnds.1 ++ wordBytes l.opnds.2)
  | .capture sd _ _ => match l.value with
    | some (.pair old st) => (4, sd.toNat, bits st 0 16, wordBytes old)
    | some (.ringFault t j n) => (4, sd.toNat, 0, wordBytes (ringFaux 0 t j n))
    | _ => (4, sd.toNat, 0, [])

/-- A capture that ended with RINGFAULT is marked in POISON. DEDUCED: log entry 27. -/
def Landing.ringBad (l : Landing) : Bool := match l.value with | some (.ringFault ..) => true | _ => false

/-- The 32 bytes of a landing entry. -/
def Landing.entry (l : Landing) (b off : Nat) : List Byte :=
  let f := l.fields
  let rem : Nat := (((l.arrive : Int) - b) % 2 ^ 32).toNat
  let bit (p : Bool) (n : Nat) : Nat := if p then 2 ^ n else 0
  natBytes (f.1 * 2 ^ 56 + bit l.value.isSome 55 + bit l.faulted 54 + bit (l.poison || l.ringBad) 53 + f.2.1 * 2 ^ 32 + rem)
    ++ wordBytes l.source ++ natBytes (off * 2 ^ 32 + f.2.2.1) ++ natBytes l.issue

/-! ## Writing a frame -/

/-- A barrier file's image (R358). -/
def Barriers.image (x : Barriers) : List Byte :=
  (List.range 256).flatMap fun b =>
    natBytes (((x.val[b]?).getD 0).toNat + (if (x.pend[b]?).getD false then 2 ^ 63 else 0))

/-- The kind code of a frame. -/
def FrameKind.code : FrameKind → Nat
  | .trap => 0 | .interrupt => 1 | .budget => 2 | .eviction => 3

/-- What a frame entry does not say of a latch that reaches terrace 0: its word's place and the guard maps of its issue
(R154, R342). -/
def Latch.origin (id : BitVec 16) (slot : Fin 32) (l : Latch) : Option LatchOrigin :=
  match l.kind with
  | .compare .. | .store .. | .tileStore .. | .xword .. =>
    some { ctxid := id, slot := slot, issue := l.issue, strm := l.strm, pc := l.pc, guards := l.guards }
  | _ => none

namespace State

/-- The 256-byte header of the frame (R360). -/
def frameHeader (s : State) (r : Fin 288) (st : StopRec) (gen : BitVec 32) (nlatch nland reruns : Nat) : List Byte :=
  let c := s.core r
  let bit (p : Bool) (n : Nat) : Nat := if p then 2 ^ n else 0
  let g := c.guard
  let xbr := match c.fe.xbr with | some x => if st.boundary ≤ x.at_ then some x else none | none => none
  let hbound := (List.range 16).foldl (fun n h => n + bit ((c.acc.h[h]?).getD none).isSome h) 0
  let head : List Nat :=
    [ c.ctxid.toNat * 2 ^ 48 + c.sp.taskv.toNat * 2 ^ 16 + st.cause.code.toNat * 2 ^ 8 + bit st.resumable 5
        + bit c.fe.tended.isSome 4 + st.kind.code * 4 + bit g.isSome 1 + 1
    , st.boundary, c.sp.frz, st.faddr.toNat, st.faux.toNat
    , (if st.kind = .eviction then 0 else gen.toNat) * 2 ^ 32 + nland * 2 ^ 24 + nlatch * 2 ^ 16
    , (match xbr with | some x => x.at_ | none => 0)
    , (match g with | some x => x.faddr.toNat | none => 0), (match g with | some x => x.faux.toNat | none => 0)
    , c.sp.tmcmp.toNat, c.sp.fpf.toNat
    , reruns * 2 ^ 32 + bit (st.lostRel || match g with | some x => x.lostRel | none => false) 31 + c.regs.fq.length * 2 ^ 16
        + hbound
    , 0, 0, 0, 0 ]
  let desc := match c.tasks.run with | some t => t.desc.toList.map (·.toNat) | none => List.replicate 8 0
  let strm := [Stream.c, .v, .x, .m].flatMap fun st =>
    let p := c.stream st
    let next := match s.nextIssue r st with | some n => n | none => 2 ^ 64 - 1
    let tgt := match xbr with | some x => x.tgt[streamIx st] | none => 0
    [next, tgt * 2 ^ 32 + p.off]
  (head ++ desc ++ strm).flatMap natBytes



/-- A landing as the frame holds it: a value that has not reached the core yet is missing (R362), and so is one of poison,
which no word has consumed (R367). -/
def Landing.seen (l : Landing) (now : Nat) : Landing :=
  match l.value, l.kind with
  | some (.spoilt ..), _ => { l with value := none }
  | _, .land .. | _, .lands _ => if now < l.ready then { l with value := none, poison := false } else l
  | _, _ => l

/-- The frame of a stopped task in LPDDR memory at an address (R359). -/
def writeFrame (s : State) (r : Fin 288) (st : StopRec) (gen : BitVec 32) (reruns at_ : Nat) : State :=
  let c := s.core r
  let all := c.pipe.latches.flatMap fun l => l.rows c r.val st.boundary
  -- the resumed words stand after every other latch, as chapter 19 prints the table
  let rows := placeRows 0x140000 ((all.filter fun w => w.kind != 11) ++ all.filter fun w => w.kind == 11)
  let lands := c.mem.landings.mapIdx fun j l => (0x120000 + 2048 * j, Landing.seen l s.now)
  let put (s : State) (off : Nat) (bs : List Byte) : State := s.putBytes .lpddr (at_ + off) bs
  let s0 := { s with mem := memClear s.mem (Place.lpddr.key at_) (Place.lpddr.key (at_ + 0x200000)) }
  let s1 := put s0 0 (s.frameHeader r st gen rows.length lands.length reruns)
  let s2 := put s1 0x100 (c.regs.s.toList.flatMap wordBytes)
  let s3 := put s2 0x300 (c.regs.a.toList.flatMap wordBytes)
  -- loop counters: stream S in class order, counter l
  let s4 := put s3 0x400 (c.regs.loops.toList.flatMap fun x => natBytes x.toNat)
  let s5 := put s4 0x480 (c.regs.fq.flatMap wordBytes)
  let s6 := put s5 0x800 st.bars.image
  let s7 := put s6 0x1000 (c.regs.k.toList.flatMap MReg.bytes)
  let s8 := put s7 0x2000 (rows.flatMap fun p => p.2.entry st.boundary p.1)
  let s9 := put s8 0x3000 (lands.flatMap fun p => p.2.entry st.boundary p.1)
  let s10 := put s9 0x10000 (c.regs.v.toList.flatMap VReg.bytes)
  let s11 := (List.range 16).foldl (fun s h =>
    let img := match (c.acc.h[h]?).getD none with
      | some t => Tile.image (c.acc.tiles[t])
      | none => Tile.image (Vector.ofFn fun i => Config.boundTile s.serial (4096 * h + i.val))
    put s (0xD0000 + 20480 * h) img) s10
  let s12 := lands.foldl (fun s p => put s p.1 p.2.fields.2.2.2) s11
  (rows.foldl (fun s p => put s p.1 p.2.data) s12).bump

/-! ## Completing a stop (R357, R362) -/

/-- An access of a core's port will perform by itself, or with what a link engine or the ring still does, once those before it
have performed: translation does not hold it, and it stands in no frame (R362). -/
def comes (s : State) (r : Fin 288) (a : Access) : Bool :=
  let handed : Bool := s.engines.any fun (e : Engine) => e.remote.any fun x => x.id == a.id && x.rank == r && x.held.isNone
  !a.framed && a.held.isNone
    && (match a.kind with
        | .store _ => !a.under.isEmpty
        | .fence .. => true
        | .qalt none => !s.ring.stopped && (s.core r).mem.captures.any fun k => k.id + 1 == a.id && !k.parked
        | _ => !a.handed || handed)

/-- The old value of an ATOM is bound to come: nothing before it in the port is held back for good (R244, R362). -/
def atomComes (s : State) (r : Fin 288) (id : Nat) : Bool :=
  let port := (s.core r).mem.port
  match port.findIdx? fun a => a.id == id with
  | none => false
  | some j => match port[j]? with
    | some a => (s.ahead (port.take j).reverse [] [a]).all (s.comes r)
    | none => false

/-- A pending value that the stopped core still waits for (R362). -/
def awaits (s : State) (r : Fin 288) (st : StopRec) (l : Landing) : Bool :=
  let c := s.core r
  let inPort : Bool := c.mem.port.any fun a => a.id == l.id && !a.framed
  match l.value, l.kind with
  | some _, .land .. | some _, .lands _ => decide (s.now < l.ready) && decide (s.now - st.since < c.attr.budget)
  | some _, _ => s.now < l.ready
  | none, k => match k with
    | .land .. | .lands _ => inPort && s.now - st.since < c.attr.budget
    | .atom _ => s.atomComes r l.id
    | .capture .. => !s.ring.stopped && c.mem.captures.any fun k => k.id == l.id

/-- A write in a core's port that will perform although its core is stopped: one that nothing holds back, or a REMOTE stamp
that its link engine has still to write. What is held by translation stays behind (R317, R349, R363). -/
def unheldWrite (s : State) (r : Fin 288) (j : Nat) : Bool :=
  let port := (s.core r).mem.port
  match port[j]? with
  | none => false
  | some a =>
    a.kind.writes
      && ((a.waiting && !s.waits (port.take j) a)
        || (a.handed && s.engines.any fun (e : Engine) => e.remote.any fun x => x.id == a.id && x.rank == r && x.held.isNone))

/-- A write of the running task that will perform. -/
def writeComing (s : State) (r : Fin 288) (j : Nat) : Bool :=
  ((s.core r).mem.port[j]?).any (s.core r).owns && s.unheldWrite r j

/-- A write of a context that will perform stands in the port of a core (R317, R368). -/
def ctxWriteComing (s : State) (id : BitVec 16) (r : Fin 288) : Bool :=
  (List.range (s.core r).mem.port.length).any fun j =>
    ((s.core r).mem.port[j]?).any (fun a => a.ctxid == id) && s.unheldWrite r j

/-- The core can complete its frame: nothing is awaited, every write that is coming has performed and every test is made
(R317, R363), and a record can be written (R350). -/
def frameReady (s : State) (r : Fin 288) : Bool :=
  match (s.core r).stop with
  | none => false
  | some st =>
    (s.core r).mem.landings.all (fun l => !s.awaits r st l)
      && !((List.range (s.core r).mem.port.length).any (s.writeComing r))
      && !((s.core r).pipe.latches.any Latch.isTest)
      && (!st.record || (match s.ctx? (s.core r).ctxid with | some x => !x.full | none => true))

/-- What a slot's task becomes where its VERSION is not the one adopted: a task not started is WAITING, in its own class,
until it is (R16, R20); one with a frame stays SUSPENDED (R384). -/
def staleSlot (t : TaskSlot) (cls : Nat) : TaskSlot :=
  if t.mode == .fresh then
    { t with st := .waiting, runFor := 0, age := 0, effCls := if t.st == .runnable then cls else t.effCls }
  else { t with st := .suspended, runFor := 0, age := 0, effCls := cls, mode := .resume, resumeTick := none }

/-- The reservation of a core by a gang job of a context: its cores are reserved, or it waits for its start tick (R26). -/
def reservedFor (s : State) (id : BitVec 16) (r : Nat) : Option Nat :=
  s.jobs.findSome? fun j =>
    if j.ctxid == id && j.gang && j.refused.isNone && j.dealt != 0 && decide (j.lo ≤ r ∧ r ≤ j.hi) then
      match j.startTick with
      | none => some 0
      | some t => if s.tick.toNat ≤ t.toNat then some t.toNat else none
    else none

/-- Members on a core that are not to resume leave the resumptions of their gangs, and the core is reserved for these no
longer (R364, R384). -/
def leaveResumes (s : State) (id : BitVec 16) (r : Nat) (gangs : List (BitVec 16)) : State :=
  if gangs.isEmpty then s
  else
    let out (g : GangResume) : GangResume := if gangs.contains g.gangid then { g with ranks := g.ranks.filter (· != r) } else g
    let left := (s.resumes.map out).filter fun (g : GangResume) => !g.ranks.isEmpty
    let s1 : State := { s with resumes := left }
    if left.any fun g => g.ranks.contains r then s1
    else s1.modCore? r fun c => { c with tasks := { c.tasks with reserved := s.reservedFor id r } }

/-- A core adopts the newest version at its recovery point, which acts as a fence of package scope and kind sc (R317,
R384). A gang member that becomes stale while it waits to resume leaves the resumption of its gang. -/
def recover (s : State) (r : Fin 288) : State :=
  let cn := s.cairn
  let s := if (s.core r).view.version == cn.version then s else s.putFence r
  let stale (n : Nat) (t : TaskSlot) : Bool :=
    (t.st == .runnable || t.st == .waiting) && (s.rawWord (.t0 r) (t0Top + 64 * n)).extractLsb' 16 32 != cn.version
  let slot (n : Nat) (t : TaskSlot) : TaskSlot :=
    if stale n t then staleSlot t (bits (s.rawWord (.t0 r) (t0Top + 64 * n)) 12 4) else t
  let gangs := (s.core r).tasks.slots.toList.zipIdx.filterMap fun x =>
    if stale x.2 x.1 && x.1.resumeTick.isSome then
      some ((s.rawWord (.t0 r) (t0Top + 64 * x.2 + 56)).extractLsb' 48 16) else none
  (s.leaveResumes (s.core r).ctxid r.val gangs).modCore r fun c =>
    { c with
      view := { version := cn.version, pos := cn.pos[r], stationLost := cn.stationLost[r],
                sizes := cn.layers.map fun l => l.size }
      recoverBy := none
      pending := { c.pending with cairn := none }
      tasks := { c.tasks with slots := c.tasks.slots.mapIdx slot } }

/-- The frame is written, one SRC 3 record where the stop has one, and the slot is SUSPENDED (R357). -/
def finishStop (s : State) (r : Fin 288) : State :=
  let c := s.core r
  match c.stop, c.tasks.run with
  | some st, some run =>
    let slot := run.slot
    let gen := s.genOf c.ctxid
    let at_ := match s.ctx? c.ctxid with | some x => x.frameOf r.val slot.val | none => 0
    let s1 := s.writeFrame r st gen (c.tasks.slots[slot]).reruns at_
    let s2 := if st.record then
        s1.record c.ctxid { FaultRec.zero with cause := st.cause.code, src := 3, reason := 9, rank := r.val,
                                               slot := slot.val, addr := w64 at_ }
      else s1
    -- what goes into the frame holds its place in the port
    let goes (a : Access) : Bool :=
      c.owns a && !a.owes
        && (match a.kind with | .store _ => a.under.isEmpty | _ => c.mem.landings.any fun l => l.id == a.id)
    let origins := c.pipe.latches.filterMap (Latch.origin c.ctxid slot)
    let other {α : Type} (o : BitVec 16 × Fin 32 × α) : Bool := !(o.1 == c.ctxid && o.2.1 == slot)
    let left := c.mem.landings.filter fun l => l.value.isNone && (match l.kind with | .capture .. => true | _ => false)
    let s3 := s2.modCore r fun k =>
      let k := k.leaveStop s.now
      { k with
        mem := { k.mem with
          port := k.mem.port.map fun a => if goes a then { a with framed := true, first := none } else a
          captures := k.mem.captures.map fun q =>
            if left.any fun l => l.id == q.id then { q with parked := true } else q
          orphans := k.mem.orphans.filter other ++ left.map fun l => (c.ctxid, slot, l)
          faults := k.mem.faults.filter other
            ++ (c.mem.landings.filter (·.faulted)).map fun l => (c.ctxid, slot, l.issue, l.faux)
          origins := (k.mem.origins.filter fun o => !(o.ctxid == c.ctxid && o.slot == slot)) ++ origins }
        tasks := { k.tasks with slots := vecMod k.tasks.slots slot.val fun t =>
          { t with st := .suspended, evicted := st.kind == .eviction, mode := .resume } } }
    (s3.countLate s.now (c.mem.landings.filter fun l => l.late.isSome)).recover r
  | _, _ => s.modCore r fun k => { k with stop := none }

end State

/-- TASK_STOP: a core takes the stop it owes at its boundary; a stopped core whose values are in writes its frame (R357,
R359, R362). -/
def execTaskStop (r : Fin 288) (s : State) : Out :=
  if (s.owes r).isSome then .next (s.takeOwed r)
  else if s.frameReady r then .next (s.finishStop r)
  else .next s

/-! ## Reading a frame (R365) -/

namespace State

/-- n bytes of LPDDR memory. -/
def lpBytes (s : State) (at_ n : Nat) : List Byte := memReadN s.mem (Place.lpddr.key at_) n

/-- A number of 32 signed bits. -/
def signed32 (n : Nat) : Int := if n < 2 ^ 31 then n else (n : Int) - 2 ^ 32

/-- The slots of bound handles at resumption: the lowest ones, in handle order. -/
def boundSlots (hbound : Nat) : Vector (Option (Fin 32)) 16 :=
  Vector.ofFn fun h =>
    if hbound.testBit h.val then
      let n := ((List.range h.val).filter fun g => hbound.testBit g).length
      if q : n < 32 then some ⟨n, q⟩ else none
    else none

/-- The slots of a frame: those of its bound handles, and the DEST fields of slots whose handles are unbound, which take the
slots after them in the order in which the table names them. DEDUCED: log entry 26. -/
structure FrameSlots where
  hs : Vector (Option (Fin 32)) 16
  loose : List Nat

/-- The slot that DEST names. -/
def FrameSlots.of (f : FrameSlots) (dest : Nat) : Fin 32 :=
  if dest < 16 then ((f.hs[dest]?).getD none).getD 0
  else
    let n := (f.hs.toList.filter (·.isSome)).length + (f.loose.findIdx fun d => d == dest)
    ⟨n % 32, by omega⟩

/-- The DEST fields of 0x8000 and above in entries of tiles, elements, releases and resumed X words of a latch table. -/
def looseSlots (s : State) (at_ n : Nat) : List Nat :=
  ((List.range n).filterMap fun j =>
    let w (i : Nat) : W64 := s.rawWord .lpddr (at_ + 0x2000 + 32 * j + 8 * i)
    let dest := bits (w 2) 0 16
    let tiles := [4, 5, 9].contains (bits (w 0) 56 8) || (bits (w 0) 56 8 == 11 && bits (w 0) 50 2 == 2)
    if tiles && decide (0x8000 ≤ dest) then some dest else none).eraseDups

/-- An operand register with the slices before k taken from saved bytes, 256 for each slice. -/
def sliceBytes (n : Nat) (bs : List Byte) : VReg := VReg.ofBytes (bs.take (256 * n))

/-- A resumed V word (R392). -/
def resumeV (l : Latch) (p : VPlan) (b : Nat) (data : List Byte) : Latch :=
  let n := b - l.issue
  let scal := (List.range p.scal.length).map fun j => wordAt data (8 * j)
  let data := data.drop (8 * p.scal.length)
  let ops := (List.range p.srcs.length).map fun j =>
    if crossSlice l.instr then sliceBytes n (data.drop (256 * n * j)) else VReg.zero
  let data := data.drop (256 * n * p.srcs.length)
  let mops := (List.range p.msks.length).map fun j =>
    if crossSlice l.instr then MReg.ofBytes ((data.drop (32 * n * j)).take (32 * n)) else MReg.zero
  { l with base := l.issue + p.lat, kind := .vword scal ops mops }

/-- A resumed X word: the bytes that its reads before B gave. -/
def resumeX (l : Latch) (t : Fin 32) (b : Nat) (data : List Byte) : Latch :=
  let two : Bool := match l.instr with | .mma _ (.t0 _) _ _ | .mmac _ (.t0 _) _ _ => true | _ => false
  let isMma : Bool := match l.instr with | .mma .. | .mmac .. => true | _ => false
  let ptrs := if two then [wordAt data 0, wordAt data 8] else if isMma then [0, wordAt data 0] else [wordAt data 0, 0]
  let fmt := if two then wordAt data 16 else if isMma then wordAt data 8 else 0
  let rest := data.drop (if two then 24 else if isMma then 16 else 8)
  let d := b - l.issue
  let mk (complex : Bool) (a : ASrc) : Latch :=
    let slotA : Bool := match a with | .slot _ => true | _ => false
    match parseFormat fmt slotA complex with
    | none => l
    | some f =>
      let na := match a with | .t0 _ => if d ≤ 1 then 6144 else 12288 | .vec _ => 12288 | .slot _ => 0
      let nb := if d ≤ 2 then 0 else if d = 3 then 6144 else 12288
      let sa := if f.asc && 4 < d then 2 * depthOf f slotA else 0
      let sb := if f.bsc && 5 < d then 2 * depthOf f slotA else 0
      let ab := rest.take na
      let r1 := rest.drop na
      let r2 := r1.drop nb
      let r3 := r2.drop sa
      let hs := if slotA then Tile.ofImage ((r3.drop sb).take 20480) else Tile.zero
      { l with base := l.issue + passOf f complex + 10,
               kind := .xword t ptrs fmt ab (r1.take nb) (r2.take sa) (r3.take sb) hs }
  match l.instr with
  | .mma _ a _ _ => mk false a
  | .mmac _ a _ _ => mk true a
  | _ => { l with base := l.issue + 24, kind := .xword t ptrs fmt (rest.take (1024 * d)) [] [] [] Tile.zero }

/-- The latch of an entry of the latch table. DESIGN CHOICE: log entry 9. -/
def readLatch (s : State) (from_ : Nat → Stream → Nat × List (Nat × BitVec 256)) (at_ b : Nat) (slots : FrameSlots) (relIssues : List Nat)
    (j : Nat) : Option Latch :=
  let e := s.lpBytes (at_ + 0x2000 + 32 * j) 32
  let w0 := wordAt e 0
  let issue := (wordAt e 8).toNat
  let w2 := wordAt e 16
  let addr := wordAt e 24
  let dest := bits w2 0 16
  let strm := Stream.ofCode (w0.extractLsb' 50 2)
  let base : Nat := ((b : Int) + signed32 (bits w0 0 32)).toNat
  let bytes (n : Nat) : List Byte := s.lpBytes (at_ + bits w2 32 32) n
  let mk (k : LatchKind) : Latch :=
    { strm := strm, pc := (from_ issue strm).1, word := addr, issue := issue, base := base, parts := w0.extractLsb' 40 8,
      flags := w0.extractLsb' 32 6, guards := (from_ issue strm).2, kind := k }
  let whole : Bool := strm != .v
  let slot := slots.of dest
  match bits w0 56 8 with
  | 1 =>
    let v := wordAt (bytes 8) 0
    some (mk (if 0x8000 ≤ dest then .addr (BitVec.ofNat 5 dest) v else .scal (BitVec.ofNat 6 dest) v))
  | 2 => some (mk (.vec (BitVec.ofNat 9 dest) (VReg.ofBytes (bytes 2048)) (MReg.ofBytes ((bytes 2304).drop 2048)) whole))
  | 3 => some (mk (.msk (BitVec.ofNat 4 dest) (MReg.ofBytes (bytes 256)) (MReg.ofBytes ((bytes 512).drop 256)) whole))
  | 4 => some (mk (.tile slot (Tile.ofImage (bytes 20480))))
  | 5 => some (mk (.elem slot addr.toNat (BitVec.ofNat 40 (wordAt (bytes 8) 0).toNat)))
  | 6 =>
    if dest = 2048 then
      let m := MReg.ofBytes ((bytes 2304).drop 2048)
      some (mk (.store (ptrOff addr) ((bytes 2048).zip m.toList) false))
    else some (mk (.store (ptrOff addr) ((bytes 8).map fun x => (x, true)) true))
  | 7 => some (mk (.tileStore (ptrOff addr) (Tile.ofImage (bytes 20480)) (relIssues.contains issue)))
  | 8 => some (mk (.special (BitVec.ofNat 6 dest) (wordAt (bytes 8) 0)))
  | 9 => some (mk (.release slot))
  | 10 =>
    let d := b - issue
    if strm = .x then
      some (mk (.compare true dest (ptrOff addr) (bytes (min 20480 (1280 * d))) ((bytes 40960).drop 20480)))
    else some (mk (.compare false dest (ptrOff addr) (bytes 2048) (((bytes 4096).drop 2048).take (256 * min 8 d))))
  | 11 =>
    let l := mk (.release 0)
    match strm, vPlan l.instr with
    | .v, some p => some (resumeV l p b (bytes (8 * 2 + 6 * 2048)))
    | .x, _ => some (resumeX l slot b (bytes 0x10000))
    | _, _ => none
  | _ => none

/-- The issue cycles of the releases in the latch table. -/
def releaseIssues (s : State) (at_ n : Nat) : List Nat :=
  (List.range n).filterMap fun j =>
    if bits (s.rawWord .lpddr (at_ + 0x2000 + 32 * j)) 56 8 = 9 then
      some (s.rawWord .lpddr (at_ + 0x2000 + 32 * j + 8)).toNat else none

/-- A pending landing of an entry of the landing table, and the access that must be issued again (R365).
DESIGN CHOICE: log entry 10. -/
def readLanding (s : State) (r : Fin 288) (slot : Fin 32) (at_ b j : Nat) : Option (Landing × Option AccKind) :=
  let e := s.lpBytes (at_ + 0x3000 + 32 * j) 32
  let w0 := wordAt e 0
  let src := wordAt e 8
  let w2 := wordAt e 16
  let issue := (wordAt e 24).toNat
  let arrived := w0.getLsbD 55
  let dest := bits w0 32 16
  let bytes (n : Nat) : List Byte := s.lpBytes (at_ + bits w2 32 32) n
  let c := s.core r
  let old := c.mem.port.find? fun a =>
    a.framed && a.slot == slot && a.ctxid == c.ctxid && !a.ended && a.issue == issue
      && (match a.kind with | .store _ => false | _ => true)
  let mk (k : LandKind) (v : Option LandValue) (word : W64) (opnds : W64 × W64 := (0, 0)) : Landing :=
    { id := (old.map (·.id)).getD (s.serial + j), kind := k, source := src, issue := issue,
      arrive := ((b : Int) + signed32 (bits w0 0 32)).toNat, value := v, ready := 0, poison := w0.getLsbD 53,
      faulted := w0.getLsbD 54
      faux := (((s.core r).mem.faults.find? fun o => o.1 == (s.core r).ctxid && o.2.1 == slot && o.2.2.1 == issue).map
        fun o => o.2.2.2).getD (w64 (Config.openValue (s.serial + j) 0))
      counted := false, late := none, word := word, opnds := opnds }
  let val (n : Nat) : Option LandValue := if arrived then some (.bytes (bytes n)) else none
  match bits w0 56 8 with
  | 1 =>
    let xf := w2.extractLsb' 0 2
    some (mk (.land (BitVec.ofNat 9 dest) xf) (val 2048) 0,
      if arrived || w0.getLsbD 54 then none
      else some (.read xf (if xf = 0 then 2048 else s.landSpan c.ctxid src (targetOf src))))
  | 2 => some (mk (.lands (BitVec.ofNat 6 dest)) (val 8) 0, if arrived || w0.getLsbD 54 then none else some (.read 0 8))
  | 3 =>
    let word := wordAt (bytes 24) 0
    let opnds := (wordAt (bytes 24) 8, wordAt (bytes 24) 16)
    let acc := match issuedInstr .m word with
      | .atom _ _ _ _ op wide _ => some (AccKind.atom op wide opnds.1 opnds.2)
      | _ => none
    some (mk (.atom (BitVec.ofNat 6 dest)) (val 8) word opnds, if arrived || w0.getLsbD 54 then none else acc)
  | 4 =>
    let kind : LandKind := match issuedInstr .m src with
      | .qbrd sd .. | .qalt sd .. => .capture sd false true
      | .qwr _ => .capture 0 false false
      | _ => .capture (BitVec.ofNat 6 dest) true false
    let orphan := (s.core r).mem.orphans.find? fun o => o.1 == (s.core r).ctxid && o.2.1 == slot && o.2.2.issue == issue
    if arrived then
      let v : LandValue := if w0.getLsbD 53 then
          let f := wordAt (bytes 8) 0
          .ringFault (bits f 17 3) (bits f 7 10) (bits f 0 4)
        else .pair (wordAt (bytes 8) 0) (w64 (bits w2 0 16))
      some (mk kind (some v) src, none)
    else match orphan with
      | some o => some ({ mk kind o.2.2.value src with id := o.2.2.id, ready := o.2.2.ready }, none)
      | none => some (mk kind none src, none)
  | _ => none

/-- The port as the task of a slot resumes: what its frame held takes its place again, with the accesses that are issued
again; of these, what has left the port meanwhile goes first, and a fence comes behind them all, as the resumption asks
(R317, R365). -/
def resumePort (c : Core) (slot : Fin 32) (fence : Access) (again : List Access) : List Access :=
  let mine (a : Access) : Bool := a.framed && a.slot == slot && a.ctxid == c.ctxid && !a.ended
  let back (a : Access) : Access :=
    if !mine a then a
    else match a.kind, again.find? fun x => x.id == a.id with
      | .store _, _ => { a with framed := false }
      | _, some x => x
      | _, none => a
  let back := c.mem.port.map back
  let port := (again.filter fun x => !back.any fun a => a.id == x.id) ++ back
  if port.isEmpty then [] else port ++ [fence]

/-- The first cycles at which the V group and the matrix array are free again after the words of a frame (R142). -/
def busyUntil (latches : List Latch) : Nat × Nat :=
  latches.foldl (fun m l => match l.kind with
    | .vword .. => match vPlan l.instr with
      | some p => if p.slow then (max m.1 (l.issue + 4), m.2) else m
      | none => m
    | .xword .. => match l.instr with
      | .mma .. | .mmac .. => (m.1, max m.2 (l.base - 10))
      | _ => m
    | .tile .. =>
      if l.strm == .x && [14, 16, 18, 22, 34].contains (l.base - l.issue) then (m.1, max m.2 (l.base - 10)) else m
    | _ => m) (0, 0)

/-- The pending guard touch of a resumed task: its frame's, with a touch that the core has met meanwhile counted as a
further one, and due where a barrier event has followed either (R46, R365). -/
def joinGuard (old : Option GuardTouch) (framed : Option GuardTouch) : Option GuardTouch :=
  match framed, old with
  | some g, some h => some { g with
      extra := min (g.extra + h.extra + 1) 0xFFFFFFFF, lostRel := g.lostRel || h.lostRel, due := g.due || h.due }
  | some g, none => some g
  | none, h => h

/-- The core takes the state of a frame and goes on at its boundary (R365). DEDUCED: log entry 65. A frame does not say that an
RFT was accepted: a resume task stopped in its drain ends, once resumed, as at TEND. DESIGN CHOICE: log entry 97. Nor does it
say that an event has followed a guard touch: the touch waits for the next one of R46. DESIGN CHOICE: log entry 105. -/
def loadFrame (s : State) (r : Fin 288) (slot : Fin 32) (at_ : Nat) : State :=
  let w (i : Nat) : W64 := s.rawWord .lpddr (at_ + 8 * i)
  let b := (w 1).toNat
  let nlatch := bits (w 5) 16 8
  let nland := bits (w 5) 24 8
  let hbound := bits (w 11) 0 16
  let hs := boundSlots hbound
  let slots : FrameSlots := { hs := hs, loose := s.looseSlots at_ (min nlatch 128) }
  let c := s.core r
  let origin (issue : Nat) (st : Stream) : Nat × List (Nat × BitVec 256) :=
    ((c.mem.origins.find? fun o => o.ctxid == c.ctxid && o.slot == slot && o.issue == issue && o.strm == st).map
      fun o => (o.pc, o.guards)).getD (0, s.prot.guards)
  let latches := (List.range (min nlatch 128)).filterMap fun j =>
    s.readLatch origin at_ b slots (s.releaseIssues at_ (min nlatch 128)) j
  let lands := (List.range (min nland 64)).filterMap fun j => s.readLanding r slot at_ b j
  let kept := latches.filterMap fun l => match l.kind with
    | .tile t _ | .elem t _ _ | .release t | .xword t .. => some t
    | _ => none
  let words (off n : Nat) : List W64 := (List.range n).map fun i => s.rawWord .lpddr (at_ + off + 8 * i)
  let strm (i : Nat) : StreamPos :=
    let next := (w (24 + 2 * i)).toNat
    { off := bits (w (25 + 2 * i)) 0 32, base := if next = 2 ^ 64 - 1 then b else next, fixed := true,
      parked := next == 2 ^ 64 - 1 }
  let g := w 0
  let regs : Regs :=
    { s := Vector.ofFn fun i => s.rawWord .lpddr (at_ + 0x100 + 8 * i.val)
      a := Vector.ofFn fun i => s.rawWord .lpddr (at_ + 0x300 + 8 * i.val)
      v := Vector.ofFn fun i => VReg.ofBytes (s.lpBytes (at_ + 0x10000 + 2048 * i.val) 2048)
      k := Vector.ofFn fun i => MReg.ofBytes (s.lpBytes (at_ + 0x1000 + 256 * i.val) 256)
      loops := Vector.ofFn fun i => (s.rawWord .lpddr (at_ + 0x400 + 8 * i.val)).extractLsb' 0 32
      fq := words 0x480 (min 16 (bits (w 11) 16 8)) }
  let tileOf (t : Fin 32) : Tile :=
    match (List.range 16).find? fun h => (hs[h]?).getD none == some t with
    | some h => Tile.ofImage (s.lpBytes (at_ + 0xD0000 + 20480 * h) 20480)
    | none => Tile.zero
  let acc : AccStore :=
    { h := hs, tiles := Vector.ofFn tileOf,
      free := Vector.ofFn fun t => !(hs.toList.contains (some t)) && !kept.contains t }
  let made (id : Nat) (k : AccKind) (p : W64) (issue : Nat) : Access :=
    { s.accessOf c id k p issue with slot := slot, world := (w 16).getLsbD 9 }
  let again : List Access := lands.filterMap fun p => p.2.map fun k => made p.1.id k p.1.source p.1.issue
  let fence := made (s.serial + 64) (.fence .package .sc) 0 b
  let touch : Option GuardTouch :=
    if g.getLsbD 1 then some
      { ctxid := c.ctxid, faddr := w 7, source := bits (w 8) 16 8, write := (w 8).getLsbD 13, bank := bits (w 8) 0 12,
        extra := bits (w 8) 32 32, lostRel := (w 11).getLsbD 31, due := false }
    else none
  let s1 := s.modCore r fun c =>
    { c with
      regs := regs, acc := acc
      sp := { cyc := b, frz := (w 2).toNat, taskv := g.extractLsb' 16 32, fpf := (w 10).extractLsb' 0 6,
              cause := g.extractLsb' 8 8, faddr := w 3, faux := w 4, tmcmp := w 9 }
      fe := { streams := Vector.ofFn fun i => strm i.val
              xbr := if w 6 = 0 then none
                else some { at_ := (w 6).toNat, tgt := Vector.ofFn fun i => bits (w (25 + 2 * i.val)) 32 32 }
              tended := if g.getLsbD 4 then some b else none
              rft := none, rftUntil := 0, rftBegun := false, fetchUntil := 0, fetch := Fetch.init }
      pipe := { Pipe.init with latches := latches, divFree := (busyUntil latches).1, mmaFree := (busyUntil latches).2 }
      mem := { c.mem with
        landings := lands.map (·.1)
        port := resumePort c slot fence again
        orphans := c.mem.orphans.filter fun o => !(o.1 == c.ctxid && o.2.1 == slot)
        faults := c.mem.faults.filter fun o => !(o.1 == c.ctxid && o.2.1 == slot)
        origins := c.mem.origins.filter fun o => !(o.ctxid == c.ctxid && o.slot == slot)
        guards := (c.setGuard c.ctxid (joinGuard c.guard touch)).mem.guards }
      tasks := { c.tasks with slots := vecMod c.tasks.slots slot.val fun t => { t with reruns := bits (w 11) 32 16 } } }
  { s1 with serial := s1.serial + 65 }

end State

end Sys2Proof.Machine
end

