-- ==== Sys2Proof/Machine/Tasks.lean ====
section
/-! DEFINITION. Tasks (R12-R27, R169-R175, R364-R367): descriptors, runnability, choice, start, end, gangs, restarts. -/

namespace Sys2Proof.Machine

/-! ## Descriptors (R12-R14) -/

/-- Fields of a descriptor given as a function of the word index. -/
def descCls (d : Nat → W64) : Nat := bits (d 0) 12 4
def descVersion (d : Nat → W64) : BitVec 32 := (d 0).extractLsb' 16 32
def descAlignq (d : Nat → W64) : Bool := (d 0).getLsbD 11
def descRerun (d : Nat → W64) : Bool := (d 0).getLsbD 10
def descGang (d : Nat → W64) : Bool := (d 0).getLsbD 8
def descGangid (d : Nat → W64) : BitVec 16 := (d 7).extractLsb' 48 16
def descTick (d : Nat → W64) : BitVec 48 := (d 7).extractLsb' 0 48

/-- The stamp that condition i names. -/
def descStamp (d : Nat → W64) (i : Nat) : W64 := ptrAdd (d 2) (8 * (bits (d (3 + i)) 53 8 : Nat))

/-- A condition word is well formed (R13, R14). -/
def condFieldsOk (w : W64) : Bool :=
  match bits w 62 2 with
  | 0 => w == 0
  | 1 => bits w 48 5 == 0
  | 2 => !w.getLsbD 61 && bits w 48 5 == 0
  | _ => false

namespace State

/-- The stamp of a KIND 2 condition is admitted (R13, R14). -/
def stampOk (s : State) (r : Nat) (secure : Bool) (p : W64) : Bool :=
  ptrOff p % 8 == 0 &&
    match ptrSpace p with
    | 1 => ptrRank p == 0 && decide (ptrOff p + 8 ≤ 2 ^ 50)
    | 2 => ptrRank p == r && decide (ptrOff p + 8 ≤ t0Top) && (secure || !s.prot.targetSecure (.place (.t0 r) (ptrOff p)) 8)
    | 3 | 4 | 5 | 6 =>
      decide (ptrRank p < 288)
        && decide (ptrOff p + 8 ≤ (((s.core? r).map fun c => c.view.sizes[layerOf p]?.getD 0).getD 0))
        && (secure || !s.prot.targetSecure (.place (.layer (layerOf p)) (ptrOff p)) 8)
    | _ => false

/-- The tests of R14 for a core's bound context and world. -/
def descOk (s : State) (r : Nat) (c : Core) (d : Nat → W64) : Bool :=
  let code := bits (d 1) 0 32
  decide (descCls d ≤ 3) && bits (d 0) 0 8 == 0
    && (List.range 4).all (fun i => condFieldsOk (d (3 + i)))
    && code % 64 == 0 && (List.range 4).all (fun i => decide (code + 2048 * bits (d 1) (32 + 8 * i) 8 < t0Top))
    && c.ctx == some ((d 0).extractLsb' 48 16) && (d 0).getLsbD 9 == c.world
    && (descGang d || d 7 == 0)
    && (List.range 4).all fun i => bits (d (3 + i)) 62 2 != 2 || s.stampOk r ((d 0).getLsbD 9) (descStamp d i)

/-- A start tick is late (R26). -/
def tickLate (s : State) (t : BitVec 48) : Bool := decide ((s.tick.extractLsb' 0 48 - t).toNat < 2 ^ 47)

/-- Word i of the descriptor in a slot. -/
def slotDesc (s : State) (r n : Nat) : Nat → W64 := fun i => s.slotWord r n i

def modSlot (s : State) (r : Fin 288) (n : Nat) (f : TaskSlot → TaskSlot) : State :=
  s.modCore r fun c => { c with tasks := { c.tasks with slots := vecMod c.tasks.slots n f } }

def slotOf (s : State) (r : Fin 288) (n : Fin 32) : TaskSlot := (s.core r).tasks.slots[n]

/-- A slot becomes EMPTY; the device clears nothing of its descriptor. -/
def emptySlot (s : State) (r : Fin 288) (n : Nat) : State := s.modSlot r n fun _ => TaskSlot.init

/-- The lowest EMPTY slot. -/
def freeTaskSlot (c : Core) : Option (Fin 32) := (List.finRange 32).find? fun n => c.tasks.slots[n].st == .empty

/-! ## TASKQ (R173-R175) -/

/-- The descriptor words of a list. -/
def listDesc (ws : List W64) : Nat → W64 := fun i => (ws[i]?).getD 0

/-- The target of a TASKQ of core own, issued at a cycle, is tested: its status, and the slot reserved. A core that is not
live takes no task. DESIGN CHOICE: log entry 69. -/
def taskqTest (s : State) (own : Fin 288) (issue : Nat) (target : W64) (desc : List W64) (preempted : Bool) :
    State × Nat :=
  let d := listDesc desc
  if h : target.toNat < 288 then
    let r : Fin 288 := ⟨target.toNat, h⟩
    let c := s.core r
    if !s.descOk r c d then (s, 2)
    else if descGang d && s.tickLate (descTick d) then (s, 3)
    else if preempted || (c.tasks.reserved.isSome && !descGang d) || !c.live then (s, 1)
    else match freeTaskSlot c with
      | none => (s, 1)
      | some n =>
        let w : SlotWrite :=
          { slot := n, desc := desc, due := s.now + 1 + Config.delay .slotWrite s.serial, chunk := none,
            from_ := some own, after := (s.core own).writesAhead issue, ask := none }
        let s1 := (s.modSlot r n fun t => { t with st := .reserved }).modCore r fun c =>
          { c with tasks := { c.tasks with writes := c.tasks.writes ++ [w] } }
        (s1.bump, 0)
  else (s, 4)

/-- The slot of a descriptor enters WAITING (R15, R17). DEDUCED: log entry 32. -/
def enterWaiting (s : State) (r : Fin 288) (n : Fin 32) (desc : List W64) (chunk : Option ChunkRef) : State :=
  let s1 := s.putBytes (.t0 r) (t0Top + 64 * n.val) (desc.flatMap wordBytes)
  s1.modSlot r n fun _ =>
    { TaskSlot.init with st := .waiting, effCls := descCls (listDesc desc), chunk := chunk,
                         stampDue := Vector.replicate 4 s.now }

/-- A gang member does not start: one that TASKQ enqueued is reported by a record, one of a job in the job (R25). -/
def reportMiss (s1 : State) (r : Fin 288) (n : Fin 32) (chunk : Option ChunkRef) : State :=
  match chunk with
  | some ch =>
    s1.modJob ch.job fun j =>
      { j with missed := some (min ch.first (j.missed.getD ch.first)), open_ := j.open_.filter fun o => o != (r.val, ch.first) }
  | none => s1.record (s1.core r).ctxid { FaultRec.zero with src := 2, reason := 10, rank := r.val, slot := n.val }

/-- A gang member has missed its start: it never starts, and its slot is EMPTY from the end of the start tick (R25). -/
def missStart (s : State) (r : Fin 288) (n : Fin 32) : State :=
  (s.modSlot r n fun t => { t with tested := true, missed := true }).reportMiss r n (s.slotOf r n).chunk

/-- A member that reaches its slot after its tick does not start: its slot is EMPTY (R26). DEDUCED: log entry 32. -/
def lateMember (s : State) (r : Fin 288) (n : Fin 32) : State :=
  (s.emptySlot r n).reportMiss r n (s.slotOf r n).chunk

/-- A gang of the distributor is refused as late: those of its members that still wait on the tick are withdrawn; those that
have started go on (R26, R338). -/
def withdrawGang (s : State) (job : Nat) : State :=
  let mine (c : Option ChunkRef) : Bool := match c with | some ch => ch.job == job | none => false
  let waits (u : TaskSlot) : Bool := mine u.chunk && (u.st == .waiting || u.st == .runnable) && u.mode == .fresh
  let cores := s.cores.map fun (c : Core) =>
    { c with tasks := { c.tasks with
        writes := c.tasks.writes.filter fun w => !mine w.chunk
        slots := c.tasks.slots.mapIdx fun n u =>
          if waits u || c.tasks.writes.any (fun w => w.slot.val == n && mine w.chunk) then TaskSlot.init else u } }
  let started (o : Nat × Nat) : Bool := match s.core? o.1 with
    | some c => c.tasks.slots.any fun u => mine u.chunk && !waits u
    | none => false
  ({ s with cores := cores } : State).modJob job fun j => { j with refused := some 0x15, open_ := j.open_.filter started }

/-- The descriptor that is written next into a slot of a core: the oldest whose released writes have performed (R44, R173,
R309). -/
def nextWrite (s : State) (r : Fin 288) : Option SlotWrite :=
  (s.core r).tasks.writes.find? fun w => match w.from_ with
    | some q => w.after.all fun i => !(s.core q).mem.port.any fun a => a.id == i
    | none => true

end State

/-- The descriptor of a slot waits for the cycle of its bank, with its place in the queue (R44, R173). -/
def State.writeWait (s : State) (r : Fin 288) (n : Fin 32) (ask : Nat) : State :=
  s.modCore r fun c => { c with tasks := { c.tasks with writes := c.tasks.writes.map fun (x : SlotWrite) =>
    if x.slot == n then { x with ask := some ask, due := s.now + 1 } else x } }

/-- TASKQ_SLOT_WRITE: an accepted descriptor reaches its slot in an idle cycle of its bank and enters WAITING (R44, R173); a
member whose start tick has come meanwhile has missed it (R25, R26). -/
def execTaskqSlotWrite (r : Fin 288) (n : Fin 32) (s : State) : Out :=
  match s.nextWrite r with
  | none => .next s
  | some w =>
    if s.now < w.due || w.slot != n then .next s
    else match s.bankTurn w.ask [(r.val, t0Top / 64 + n.val)] with
    | .wait t k => .next (t.writeWait r n k)
    | .ready _ =>
      let s1 := s.modCore r fun c => { c with tasks := { c.tasks with writes := c.tasks.writes.filter fun x => x.slot != n } }
      let s2 := s1.enterWaiting r n w.desc w.chunk
      let d := State.listDesc w.desc
      if descGang d && s.tickLate (descTick d) then
        .next (match w.chunk with
          | some ch => if ch.member then s2.withdrawGang ch.job else s2.lateMember r n
          | none => s2.lateMember r n)
      else .next s2

namespace State

/-! ## Runnability (R13, R16, R17) -/

/-- A stamp in terrace 0 or T1-T4 as it stands; nothing in a lost layer (R17). -/
def terraceStamp (s : State) (p : W64) : Option Nat :=
  match targetOf p with
  | .place (.layer e) off =>
    if s.lostTarget (.place (.layer e) off) then none else some (leValue (s.bytesAt (.layer e) off 8) % 2 ^ 48)
  | .place pl off => some (leValue (s.bytesAt pl off 8) % 2 ^ 48)
  | _ => none

/-- Condition i of a slot holds at the start of the cycle (R13, R17). A THRESH of 0 holds whatever its stamp.
DESIGN CHOICE: log entry 67. -/
def condHolds (s : State) (r : Fin 288) (t : TaskSlot) (d : Nat → W64) (i : Fin 4) : Bool :=
  let w := d (3 + i.val)
  let thresh := bits w 0 48
  match bits w 62 2 with
  | 0 => true
  | 1 => decide (thresh ≤ (((s.core r).bars.val[bits w 53 8]?).getD 0).toNat)
  | _ =>
    let p := descStamp d i.val
    if thresh = 0 then true
    else if ptrSpace p = 1 then t.stampHolds[i]
    else match s.terraceStamp p with | some v => decide (thresh ≤ v) | none => false

/-- What the start would subtract from barrier b (R16, R18). -/
def subOf (d : Nat → W64) (b : Nat) : Nat :=
  (List.range 4).foldl (fun n i =>
    let w := d (3 + i)
    if bits w 62 2 = 1 ∧ w.getLsbD 61 ∧ bits w 53 8 = b then n + bits w 0 48 else n) 0

/-- The tests 1 to 4 of R16 for a slot that has a descriptor; a resumed or restarted task makes none of its start
conditions (R364). -/
def runnable (s : State) (r : Fin 288) (n : Fin 32) : Bool :=
  let c := s.core r
  let t := s.slotOf r n
  let d := s.slotDesc r.val n.val
  let bound := c.ctx == some ((d 0).extractLsb' 48 16) && descVersion d == c.view.version && c.live
  match t.mode with
  | .fresh =>
    bound && (List.finRange 4).all (fun i => s.condHolds r t d i)
      && (List.range 4).all fun i =>
        let b := bits (d (3 + i)) 53 8
        decide (subOf d b ≤ ((c.bars.val[b]?).getD 0).toNat) || bits (d (3 + i)) 62 2 != 1
  | _ => bound

/-- The slot holds a member that starts only at a tick (R16, R24, R364). -/
def ticked (s : State) (r : Fin 288) (n : Fin 32) : Bool :=
  let t := s.slotOf r n
  let d := s.slotDesc r.val n.val
  (descGang d && t.mode == .fresh) || t.resumeTick.isSome

/-- The states of a core's slots at the start of a cycle (R15, R16, R20). -/
def tickSlots (s : State) (r : Fin 288) : State :=
  (List.finRange 32).foldl (fun s n =>
    let t := s.slotOf r n
    match t.st with
    | .waiting | .runnable =>
      if s.ticked r n then s
      else if s.runnable r n then
        s.modSlot r n fun t =>
          if t.st == .waiting then { t with st := .runnable, runFor := 0, age := 0 }
          else { t with runFor := t.runFor + 1, age := t.age + 1 }
      else if t.st == .runnable && t.mode == .fresh then
        s.modSlot r n fun t =>
          { t with st := .waiting, runFor := 0, age := 0, effCls := descCls (s.slotDesc r.val n.val) }
      else s
    | _ => s) s

/-! ## Choice and start (R18-R23, R365) -/

/-- A gang resumes at a tick that is fixed and one of its members is to take this core, before every other task (R19,
R364). -/
def awaitsMember (s : State) (r : Fin 288) : Bool := s.resumes.any fun g => g.tick.isSome && g.ranks.contains r.val

/-- The core could start a task now (R19, R384). -/
def canStart (s : State) (r : Fin 288) : Bool :=
  let c := s.core r
  c.live && !(s.evicting.any fun e => c.ctx == some e.ctxid) && c.tasks.run.isNone && c.stop.isNone && c.freeze.isNone && c.recoverBy.isNone && c.ctx.isSome
    && (match c.tasks.lastEnd with | some e => decide (e + 2 ≤ s.now) | none => true)

/-- The RUNNABLE slot that is taken: highest effective class, then RUNNABLE longest, then lowest number (R19). -/
def chosen (s : State) (r : Fin 288) : Option (Fin 32) :=
  let c := s.core r
  let cands := (List.finRange 32).filter fun n => c.tasks.slots[n].st == .runnable && !s.ticked r n
  match cands with
  | [] => none
  | n :: rest =>
    some (rest.foldl (fun m k =>
      let a := c.tasks.slots[m]
      let b := c.tasks.slots[k]
      if a.effCls < b.effCls ∨ (a.effCls = b.effCls ∧ a.runFor < b.runFor) then k else m) n)

/-- The core at cycle 0 of a task: registers, streams and special registers (R22, R29, R112, R120). -/
def freshCore (rank : Nat) (c : Core) (desc : Vector W64 8) (chunk : Option ChunkRef) (base : Core → StreamPos) : Core :=
  let regs := Regs.init
  let regs : Regs := { regs with a := (regs.a.set 0 desc[2]).set 1 (t0Ptr rank (bits desc[1] 0 32)) }
  let regs : Regs := match chunk with
    | some ch => { regs with s := (regs.s.set 1 (w64 ch.count)).set 2 (w64 ch.first) }
    | none => regs
  { c with
    regs := regs, acc := AccStore.init
    sp := { Specials.init with taskv := (desc[0]).extractLsb' 16 32 }
    fe := { FrontEnd.init with streams := Vector.replicate 4 (base c) }
    pipe := Pipe.init }

/-- The first words of a task stand at offset 0 of their sections, counted from cycle 0 (R137). -/
def StreamPos.first : StreamPos := { off := 0, base := 0, fixed := false, parked := false }

/-- The first eight words of each section have been fetched before cycle 0 (R278). -/
def fetchFirst (s : State) (r : Fin 288) : State :=
  let words (st : Stream) : List (Nat × W64) := (List.range 8).map fun j =>
    let off := (s.core r).section_ st + 8 * (7 - j)
    (off, s.fetchWord r off)
  let bufs : Vector (List (Nat × W64)) 4 := #v[words .c, words .v, words .x, words .m]
  s.modCore r fun c => { c with fe := { c.fe with fetch := { c.fe.fetch with bufs := bufs } } }

/-- The start-condition subtractions of a task (R18), a barrier event if there is one (R46): one of a threshold of zero, which
changes no barrier, is an event too. DESIGN CHOICE: log entry 95. -/
def subtract (s : State) (r : Fin 288) (d : Nat → W64) : State :=
  (List.range 4).foldl (fun s i =>
    let w := d (3 + i)
    if bits w 62 2 = 1 ∧ w.getLsbD 61 then
      (s.modCore r fun c =>
        { c.barrierEvent with
          bars := { c.bars with val := vecMod c.bars.val (bits w 53 8) fun v => BitVec.ofNat 48 (v.toNat - bits w 0 48) } })
    else s) s

/-- The chosen slot's task is committed and takes the core: its subtractions are made, and its first cycle begins, at
once or after its wait for the ring (R18, R22, R23, R365). -/
def startTask (s : State) (r : Fin 288) (n : Fin 32) : State :=
  let t := s.slotOf r n
  let d := s.slotDesc r.val n.val
  let desc : Vector W64 8 := Vector.ofFn fun i => d i.val
  let attr := match s.ctx? (s.core r).ctxid with | some x => x.attr | none => (s.core r).attr
  let s1 := match t.mode with
    | .fresh => (s.subtract r d).modCore r fun c => freshCore r.val c desc t.chunk fun _ => StreamPos.first
    | .restart => s.modCore r fun c => freshCore r.val c desc t.chunk fun _ => StreamPos.first
    | .resume =>
      let at_ := match s.ctx? (s.core r).ctxid with | some x => x.frameOf r.val n.val | none => 0
      s.loadFrame r n at_
  let b := (s1.core r).sp.cyc
  let wait := descAlignq d && s.ring.phase % 1024 != b % 1024
  let s2 := s1.modCore r fun c =>
    { c with
      attr := attr
      tasks := { c.tasks with
        run := some { slot := n, desc := desc, aligned := wait, mode := t.mode, chunk := t.chunk } } }
  let s2 := if t.mode == .resume then s2 else s2.fetchFirst r
  let s3 := (s2.modSlot r n fun t => { t with
    st := .running, resumeTick := none, evicted := false, tested := true
    settledAt := if t.mode == .resume then t.settledAt else none }).bump
  -- a gang job counts the members that started (R339)
  match t.mode, t.chunk with
  | .fresh, some ch => if ch.member then s3.modJob ch.job fun j => { j with chunks := j.chunks + 1 } else s3
  | _, _ => s3

end State

/-- TASK_START: a core with no RUNNING task starts the RUNNABLE task that R19 chooses (R18-R23). -/
def execTaskStart (r : Fin 288) (s : State) : Out :=
  if s.canStart r && !s.awaitsMember r then
    match s.chosen r with
    | some n => .next (s.startTask r n)
    | none => .next s
  else .next s

namespace State

/-- The task that a core has committed itself to and that has still to start, at cycle 0, in the cycle that ALIGNQ asks for
(R18, R23). -/
def committed (c : Core) : Option Running :=
  c.tasks.run.filter fun t =>
    t.aligned && (t.mode == .fresh || (t.mode == .restart && (c.tasks.slots[t.slot]).reruns == 0))

/-- The core runs nothing: it has no RUNNING task, or one that has still to start (R384). -/
def notStarted (c : Core) : Bool := c.tasks.run.isNone || (committed c).isSome

/-- A task that is committed and of another version than the newest does not start: it is WAITING again, or SUSPENDED where it
was to restart, and a gang member has missed its start (R25, R384). What its choice has subtracted stays subtracted.
DESIGN CHOICE: log entry 108. -/
def uncommit (s : State) (r : Fin 288) : State :=
  match committed (s.core r) with
  | none => s
  | some t =>
    let d (i : Nat) : W64 := (t.desc[i]?).getD 0
    if descVersion d == s.cairn.version then s
    else
      let s1 := (s.modCore r fun c => { c with tasks := { c.tasks with run := none } }).modSlot r t.slot fun u =>
        staleSlot { u with st := .runnable } (descCls d)
      if !(descGang d && t.mode == .fresh) then s1
      else
        let s2 := match t.chunk with
          | some ch => if ch.member then s1.modJob ch.job fun j => { j with chunks := j.chunks - 1 } else s1
          | none => s1
        s2.missStart r t.slot

end State

/-- The recovery point of a core that runs nothing falls now (R384). -/
def State.recoveryDue (s : State) (r : Fin 288) : Bool :=
  State.notStarted (s.core r) && match (s.core r).recoverBy with | some t => decide (t ≤ s.now) | none => false

/-- A committed task of a core can begin its first cycle (R19, R23, R172, R365); not between a publication and the core's
recovery point (R384). -/
def State.alignedReady (s : State) (r : Fin 288) : Bool :=
  let c := s.core r
  match c.tasks.run with
  | some t =>
    let later := match c.tasks.lastEnd with | some e => decide (e + 2 ≤ s.now) | none => true
    t.aligned && c.stop.isNone && c.recoverBy.isNone && later && (!c.alignq || s.ring.phase % 1024 == c.sp.cyc % 1024)
  | none => false

/-- ALIGNED_START: a committed task starts when the ring stands where R23 and R365 ask, and no earlier than two cycles
after the task before it (R19, R172). -/
def execAlignedStart (r : Fin 288) (s : State) : Out :=
  match (s.core r).tasks.run with
  | some t =>
    if s.alignedReady r then
      .next (s.modCore r fun c => { c with tasks := { c.tasks with run := some { t with aligned := false } } })
    else .next s
  | none => .next s

/-- A task has been RUNNABLE for 2^20 cycles since it last rose (R20). -/
def State.riseDue (s : State) (r : Fin 288) (n : Fin 32) : Bool :=
  (s.slotOf r n).st == .runnable && decide (2 ^ 20 ≤ (s.slotOf r n).age)

/-- EFFECTIVE_CLASS_RISE: a task RUNNABLE for 2^20 cycles rises one class, to at most 3, and its count starts again
(R20). -/
def execEffectiveClassRise (r : Fin 288) (n : Fin 32) (s : State) : Out :=
  if s.riseDue r n then
    .next (s.modSlot r n fun t => { t with effCls := min 3 (t.effCls + 1), age := 0 })
  else .next s

/-- The slot holds a gang member whose start tick is now and which has not started (R24, R25). -/
def State.memberNow (s : State) (r : Fin 288) (n : Fin 32) : Bool :=
  let u := s.slotOf r n
  let d := s.slotDesc r.val n.val
  (u.st == .waiting || u.st == .runnable) && u.mode == .fresh && descGang d && descTick d == s.tick.extractLsb' 0 48

/-- The slot holds a gang member whose start tick is now and has still to be tested (R24). -/
def State.gangDue (s : State) (r : Fin 288) (n : Fin 32) : Bool := s.memberNow r n && !(s.slotOf r n).tested

/-- GANG_START_TICK: in the first cycle of its tick a gang member starts, or misses its start; of two on one core only
the lowest slot is tested (R24-R26). -/
def execGangStartTick (r : Fin 288) (n : Fin 32) (s : State) : Out :=
  if !s.gangDue r n then .next s
  else
    let lowest := (List.finRange 32).all fun k => !(decide (k.val < n.val) && s.memberNow r k)
    if lowest && s.canStart r && s.runnable r n then .next (s.startTask r n)
    else .next (s.missStart r n)

/-- A resume tick that the distributor has still to fix. -/
def unfixedTick : W64 := BitVec.allOnes 64

/-- The gang that a suspended member resumes with. -/
def State.resumeOf (s : State) (r : Fin 288) (n : Fin 32) : Option GangResume :=
  let d := s.slotDesc r.val n.val
  s.resumes.find? fun (g : GangResume) => g.gangid == descGangid d && g.ranks.contains r.val

/-- Another member of a resuming gang has its frame still to be written or disposed of: all resume at one tick (R364).
DEDUCED: log entry 109. -/
def State.memberLeft (s : State) (g : GangResume) : Bool :=
  let ctx (c : Core) : Bool := c.ctx.isSome && g.ranks.any fun n => (s.core? n).any fun k => k.ctx == c.ctx
  (List.finRange 288).any fun r =>
    let c := s.core r
    ctx c && ((c.gang == some g.gangid && c.stop.isSome)
      || (List.finRange 32).any fun n =>
          let d := s.slotDesc r.val n.val
          c.tasks.slots[n].st == .suspended && descGang d && descGangid d == g.gangid && descVersion d == c.view.version)

/-- No core of a resuming gang has a RUNNING task, and no member of it is left behind (R364). -/
def State.resumeIdle (s : State) (g : GangResume) : Bool :=
  (g.ranks.all fun n => match s.core? n with | some c => c.tasks.run.isNone && c.stop.isNone | none => true)
    && !s.memberLeft g

/-- The common tick of a gang can be fixed, or a member can resume at it (R364). -/
def State.resumeReady (s : State) (r : Fin 288) (n : Fin 32) : Bool :=
  match (s.slotOf r n).resumeTick, s.resumeOf r n with
  | some k, some g => if k = unfixedTick then s.resumeIdle g else decide (k.toNat ≤ s.tick.toNat) && s.canStart r
  | _, _ => false

/-- GANG_RESUME_TICK: the distributor fixes the common tick once no member's core has a RUNNING task; in the first cycle
of that tick each member resumes or restarts, before every other task (R364, R371). -/
def execGangResumeTick (r : Fin 288) (n : Fin 32) (s : State) : Out :=
  let t := s.slotOf r n
  match t.resumeTick, s.resumeOf r n with
  | some k, some g =>
    if k = unfixedTick then
      if s.resumeIdle g then
        let at_ := s.tick + 4096
        let mine (i k : Nat) : Bool := descGangid (s.slotDesc i k) == g.gangid
        let fix (i : Nat) (c : Core) : Core :=
          { c with tasks := { c.tasks with
              reserved := some at_.toNat
              slots := c.tasks.slots.mapIdx fun k (u : TaskSlot) =>
                if u.resumeTick == some unfixedTick && mine i k then { u with resumeTick := some at_ } else u } }
        .next { g.ranks.foldl (fun s i => s.modCore? i (fix i)) s with
          resumes := s.resumes.map fun (x : GangResume) => if x == g then { x with tick := some at_ } else x }
      else .next s
    else if decide (k.toNat ≤ s.tick.toNat) && s.canStart r then
      let left := g.ranks.filter (· != r.val)
      let gs := s.resumes.map fun (x : GangResume) => if x == g then { x with ranks := left } else x
      let gs := gs.filter fun (x : GangResume) => !x.ranks.isEmpty
      .next (({ s with resumes := gs } : State).startTask r n)
    else .next s
  | _, _ => .next s

/-- Condition i of a slot names a GLOBAL stamp whose next read is due (R17). -/
def State.stampDueNow (s : State) (r : Fin 288) (n : Fin 32) (i : Fin 4) : Bool :=
  let t := s.slotOf r n
  let d := s.slotDesc r.val n.val
  (t.st == .waiting || t.st == .runnable) && t.mode == .fresh && !t.missed && decide (t.stampDue[i] ≤ s.now)
    && bits (d (3 + i.val)) 62 2 == 2 && ptrSpace (descStamp d i.val) == 1

/-- GLOBAL_STAMP_READ: a GLOBAL stamp of a start condition is read through a map unit; a walk that fails counts as not
holding and writes one record (R17). -/
def execGlobalStampRead (r : Fin 288) (n : Fin 32) (i : Fin 4) (s : State) : Out :=
  let t := s.slotOf r n
  let d := s.slotDesc r.val n.val
  let p := descStamp d i.val
  let w := d (3 + i.val)
  if !s.stampDueNow r n i then .next s
  else
    let id := (s.core r).ctxid
    let again := s.now + 1 + Config.delay .stampRead s.serial % 4096
    match s.readAt (some (mapUnit r)) id p 8 with
    | (s1, .bytes bs) =>
      .next ((s1.modSlot r n fun t =>
        { t with stampHolds := t.stampHolds.set i (decide (bits w 0 48 ≤ leValue bs % 2 ^ 48)),
                 stampDue := t.stampDue.set i again }).bump)
    | (s1, .fault rs tab q) =>
      let rec_ := { FaultRec.zero with
        cause := Cause.xlate.code, src := 0, reason := rs, engine := (mapUnit r).val, akind := if tab then 3 else 0,
        rank := r.val, slot := n.val, addr := q }
      -- it is read again after the context's next RESOLVE, or once its record finds room (R350)
      if (s1.ctx? id).any (·.full) then
        .next (s1.modSlot r n fun t =>
          { t with stampHolds := t.stampHolds.set i false, stampDue := t.stampDue.set i (s.now + 1) })
      else
        .next ((s1.record id rec_).modSlot r n fun t =>
          { t with stampHolds := t.stampHolds.set i false, stampDue := t.stampDue.set i (2 ^ 64) })
    | (s1, _) => .next s1

namespace State

/-! ## End (R169-R172) -/

/-- Nothing that the end waits for is left: no landing, and no latch but a slot's return (R169): writes of tiles and elements
count among the results. DESIGN CHOICE: log entry 68. -/
def drained (c : Core) : Bool :=
  c.mem.landings.isEmpty && c.pipe.latches.all fun l => match l.kind with | .release _ => true | _ => false

/-- The task of a chunk has ended: its place in the job closes (R29, R30). -/
def chunkEnded (s : State) (r : Fin 288) (ch : Option ChunkRef) (failed : Option Byte) : State :=
  match ch with
  | none => s
  | some ch => s.modJob ch.job fun j =>
      { j with
        open_ := j.open_.filter fun o => o != (r.val, ch.first)
        endTick := some s.tick
        failed := match failed with
          | some c => match j.failed with
            | some f => some (if ch.first < f.1 then (ch.first, c) else f)
            | none => some (ch.first, c)
          | none => j.failed }

/-- What the port of a core keeps of a task that has ended, or that goes on in another slot. -/
def mapOwned (c : Core) (slot : Fin 32) (f : Access → Access) : Core :=
  let own (a : Access) : Bool := a.slot == slot && a.ctxid == c.ctxid && !a.ended
  { c with mem := { c.mem with port := c.mem.port.map fun a => if own a then f a else a } }

/-- The running task ends in this cycle: its slot is EMPTY, or holds the framed task that RFT names, unless that task's
VERSION is not the one its core now has (R31, R170, R172, R384). DESIGN CHOICE: log entry 70. -/
def endTask (s : State) (r : Fin 288) (run : Running) : State :=
  let c := s.core r
  let out (c : Core) : Core := (mapOwned c run.slot fun a => { a with ended := true }).leaveStop s.now
  let s1 := (s.modCore r out).emptySlot r run.slot |>.chunkEnded r run.chunk none
  let s1 : State := { s1 with gangs := s1.gangs.filter fun g => !s1.gangOver g }
  let s2 := s1.recover r
  match c.fe.rft with
  | none => s2
  | some n =>
    -- the framed task's descriptor and frame move to the resume task's slot
    match s.ctx? c.ctxid with
    | none => s2
    | some x =>
      let desc := (List.range 8).map fun i => s.rawWord .lpddr (x.frameOf r.val n.val + 128 + 8 * i)
      if descVersion (listDesc desc) != (s2.core r).view.version then s2
      else
        let s3 := (s2.putBytes (.t0 r) (t0Top + 64 * run.slot.val) (desc.flatMap wordBytes)).loadFrame r n
          (x.frameOf r.val n.val)
        let t := s3.slotOf r n
        let s4 := (s3.emptySlot r n).modSlot r run.slot fun _ => { t with st := .running, mode := .resume }
        let dv : Vector W64 8 := Vector.ofFn fun i => (desc[i.val]?).getD 0
        -- its first word issues no earlier than two cycles later
        s4.modCore r fun c =>
          { mapOwned c n fun a => { a with slot := run.slot } with
            attr := x.attr
            tasks := { c.tasks with
              run := some { slot := run.slot, desc := dv, aligned := true, mode := .resume, chunk := t.chunk } } }

end State

/-- TASK_END: at the end cycle the task ends, unless a guard touch is still unreported: then GUARD is taken (R169,
R170). -/
def execTaskEnd (r : Fin 288) (s : State) : Out :=
  let c := s.core r
  match c.tasks.run with
  | none => .next s
  | some run =>
    if !(c.active && c.fe.tended.isSome && State.drained c) then .next s
    else match c.guard with
      | some g =>
        .next (((s.stopCore r .guard .trap c.sp.cyc g.faddr g.faux true).modCore r Core.guardTaken).modSlot r run.slot
          fun t => { t with settledAt := some c.sp.cyc })
      | none => .next (s.endTask r run)

/-! ## Barrier additions (R58, R177) -/

/-- An addition of a chain's SIGNAL has still to be made (R53, R274). -/
def State.addsOut (s : State) (chain : Nat) : Bool := s.adds.any fun x => x.chain == some chain

/-- An addition may be made: it has arrived, the writes it releases have performed, and no earlier SIGNAL of its chain has
still to be made (R53, R58, R177). -/
def State.addReady (s : State) (a : BarrierAdd) : Bool :=
  a.after.isEmpty && decide (a.due ≤ s.now)
    && !((s.adds.takeWhile fun x => x.id != a.id).any fun x => x.chain.isSome && x.chain == a.chain)

/-- BARRIER_ADDITION: an addition whose writes have performed reaches its barrier, with every other that arrives there
in this cycle (R58). -/
def execBarrierAddition (id : Nat) (s : State) : Out :=
  match s.adds.find? fun a => a.id == id with
  | none => .next s
  | some a =>
    if s.addReady a then
      .next (({ s with adds := s.adds.filter fun x => x.id != id } : State).addBarrier a.ctxid a.rank a.bar a.count)
    else .next s

end Sys2Proof.Machine
end

