-- ==== Sys2Proof/Machine/Engines.lean ====
section
/-! DEFINITION. Copy engines and their chains (R51-R60, R242, R243, R249-R259, R386, R401). An engine performs a control
entry in one event. It reads the sources of a MOVE or WINDOW in one event and then writes its destination granule by
granule, in an order and at a pace that are free (R33, R57). An access goes by the guard maps that stood when it began
(R342). -/

namespace Sys2Proof.Machine

/-- Local index and die of an engine (R8). -/
def engLocal (e : Fin 96) : Nat := e.val % 24
def engDie (e : Fin 96) : Nat := e.val / 24

/-- The engine reaches the space of a pointer (R51). -/
def engReach (e : Fin 96) (p : W64) : Bool :=
  match ptrSpace p with
  | 1 => 16 ≤ engLocal e
  | 2 | 3 | 4 | 5 | 6 => 20 ≤ engLocal e || ptrRank p / 72 == engDie e
  | 7 => 20 ≤ engLocal e
  | 10 => 16 ≤ engLocal e && decide (engLocal e < 20)
  | _ => false

/-- The level at which the engine expands; a link engine never does (R51, R64). -/
def engLevel (e : Fin 96) : Option Nat := if engLocal e < 16 then some 1 else if engLocal e < 20 then some 0 else none

/-- The map unit that caches for the engine (R51, R348). DEDUCED: log entry 44. -/
def engMap (e : Fin 96) : Option (Fin 96) := if 16 ≤ engLocal e then some e else none

/-- Why an entry is faulty (R53, R409): CAUSE, AKIND, ADDR. -/
structure EntryFault where
  cause : Byte
  akind : Nat
  addr : W64
deriving DecidableEq, Repr

/-- A piece of a copy: where its bytes come from (or what fills it), where they go, and how many; each pointer with
whether its offset lies in 0 to 2^50 - 1. -/
structure Piece where
  src : Option (W64 × Bool)
  dst : Option (W64 × Bool)
  fill : List Byte
  n : Nat
deriving DecidableEq, Repr

/-- A pointer moved by an exact distance, and whether it stays within 0 to the top of its offset field. -/
def ptrMove (p : W64) (d : Int) : W64 × Bool :=
  let top : Int := if ptrSpace p = 7 then 2 ^ 47 else 2 ^ 50
  let sum : Int := (if ptrSpace p = 7 then (bits p 0 47 : Int) else (ptrOff p : Int)) + d
  (ptrAdd p d, decide (0 ≤ sum ∧ sum < top))

namespace State

/-- The running chain of an engine and its walk. DEDUCED: log entry 44. -/
def walkOf (s : State) (e : Fin 96) : Option (Chain × Walk) :=
  match s.engines[e].queue, s.engines[e].walk with
  | ch :: _, some w => some (ch, w)
  | _, _ => none

def modWalk (s : State) (e : Fin 96) (f : Walk → Walk) : State := s.modEngine e fun x => { x with walk := x.walk.map f }

/-- The engine's context can take a record (R350). -/
def chainRoom (s : State) (ch : Chain) : Bool := match s.ctx? ch.ctxid with | some x => !x.full | none => true

/-- Word i of the entry or record at an own-terrace offset, as the engine reads it (R52, R249). -/
def chainWord (s : State) (ch : Chain) (off i : Nat) : W64 := w64 (leValue (s.seen.bytesAt (.t0 ch.rank) (off + 8 * i) 8))

/-! ## Records of a chain (R351, R409) -/

/-- The iterations of the enclosing loops, innermost first (R351). -/
def loopsOf (w : Walk) : Vector Nat 4 := Vector.ofFn fun i => match w.nest[i.val]? with | some f => f.iter | none => 0

/-- DETAIL of a record of a chain: the offsets of an entry and of the chain's start (R351). -/
def detailOf (ch : Chain) (pc : Nat) : W64 := w64 (pc * 2 ^ 32 + ch.start)

/-- A record of the chain. -/
def chainRecord (s : State) (e : Fin 96) (ch : Chain) (w : Walk) (pc : Nat) (cause : Byte) (reason akind : Nat)
    (held lost : Bool) (addr : W64) (remain : Nat) : State :=
  s.record ch.ctxid
    { FaultRec.zero with
      cause := cause, src := 1, reason := reason, engine := e.val, held := held, lost := lost, akind := akind,
      rank := ch.rank.val, entry := w.entries, addr := addr, loops := loopsOf w, remain := remain,
      detail := detailOf ch pc }

/-- A guard touch of the chain, by these maps: it is raised on the core that issued the chain, and sets ERR (R46, R59). -/
def chainTouchBy (s : State) (gs : List (Nat × BitVec 256)) (e : Fin 96) (ch : Chain) (p : W64) (n : Nat) (write : Bool) :
    State :=
  match targetOf p with
  | .place pl off => match firstGuardBy gs pl off n with
    | some g => (s.modWalk e fun w => { w with err := true }).modCore ch.rank fun c =>
        c.touch ch.ctxid (w64 (p.toNat / 2 ^ 50 * 2 ^ 50 + g)) e.val write (bankOf pl g) false
    | none => s
  | _ => s

/-- A guard touch of the chain, by the maps in force. -/
def chainTouch (s : State) (e : Fin 96) (ch : Chain) (p : W64) (n : Nat) (write : Bool) : State :=
  s.chainTouchBy s.prot.guards e ch p n write

end State

/-! ## Going on (R254, R259) -/

/-- Where the walk goes from an offset: the end of a body takes the next iteration or leaves the loop. -/
def leaveBody : List LoopFrame → Nat → List LoopFrame × Nat
  | [], nxt => ([], nxt)
  | f :: rest, nxt =>
    if nxt < f.stop then (f :: rest, nxt)
    else if f.iter + 1 < f.count then ({ f with iter := f.iter + 1 } :: rest, f.start)
    else leaveBody rest f.stop

/-- The increments of the enclosing loops add (R254): of the source, the destination and the stamp value. -/
def loopInc (nest : List LoopFrame) : Int × Int × Nat :=
  nest.foldl (fun a f => (a.1 + f.iter * f.sinc.toInt, a.2.1 + f.iter * f.dinc.toInt, a.2.2 + f.iter * f.sigInc)) (0, 0, 0)

/-- What an entry does to the run of entries that R258 limits: a JUMP, COND or LOOP lengthens it; a MOVE, WINDOW or SIGNAL
ends it; any other leaves it. -/
inductive Run where
  | lengthen | keep | stop
deriving DecidableEq, Repr

/-- The lines of terrace 0s that a span named by a pointer touches, as rank and line (R40, R44). -/
def t0Lines (p : W64) (n : Nat) : List (Nat × Nat) :=
  match targetOf p with
  | .place (.t0 r) off => (spanLines off n).map fun l => (r, l)
  | _ => []

/-- Word i of the entry that an engine has read (R52, R249). -/
def Walk.word (w : Walk) (i : Nat) : W64 := match w.entry with | some x => (x[i]?).getD 0 | none => 0

namespace State

/-- The engine waits for its turn at a terrace 0, under a ticket. -/
def engineWait (s : State) (e : Fin 96) (t : Nat) : State := s.modWalk e fun w => { w with ask := some t, due := s.now + 1 }

/-- The engine writes to these lines once each has had its turn (R44). -/
def withBanks (s : State) (e : Fin 96) (w : Walk) (need : List (Nat × Nat)) (f : State → State) : State :=
  match s.bankTurn w.ask need with
  | .wait t k => t.engineWait e k
  | .ready _ => f s

/-- What the engine does with the bytes of these lines, once each has had its turn; it changes no memory (R44). -/
def readBanks (s : State) (e : Fin 96) (w : Walk) (need : List (Nat × Nat)) (f : State → State) : State :=
  match s.bankTurn w.ask need with
  | .wait t k => t.engineWait e k
  | .ready v => { f v with mem := s.mem }

/-- The entry is done, each of its writes made, and the walk goes on at an offset: the accesses of one entry begin when those
of the entry before it are over. DESIGN CHOICE: log entry 102. -/
def goOn (s : State) (e : Fin 96) (nxt : Nat) (run : Run) : State :=
  (s.modWalk e fun w =>
    let l := leaveBody w.nest nxt
    { w with
      last := w.pc, pc := l.2, entry := none, nest := l.1, entries := w.entries + 1, waiting := false, ask := none
      streak := match run with | .lengthen => w.streak + 1 | .keep => w.streak | .stop => 0
      due := s.now + 1 + Config.delay .engine s.serial }).bump

/-- A faulty entry: one record, ERR, its destination bytes counted as dropped (R53, R55). -/
def faultyEntry (s : State) (e : Fin 96) (ch : Chain) (w : Walk) (f : EntryFault) (count nxt : Nat) (run : Run) :
    State :=
  ((s.chainRecord e ch w w.pc f.cause 6 f.akind false false f.addr count).modWalk e fun w =>
    { w with err := true, autoCount := w.autoCount + count }).goOn e nxt run

/-- An entry whose own fields are invalid (R409). DEDUCED: log entry 34. -/
def ownFault (ch : Chain) (w : Walk) : EntryFault := { cause := 0, akind := 0, addr := t0Ptr ch.rank w.pc }

/-- An access of the entry is held by translation: it performs nothing, is recorded, and freezes the core (R349). -/
def holdEntry (s : State) (e : Fin 96) (ch : Chain) (w : Walk) (p : W64) (reason akind : Nat) (table write : Bool)
    (remain : Nat) : State :=
  let h : HeldAccess :=
    { ptr := p, write := write, reason := reason, gen := s.genOf ch.ctxid, order := s.serial, freezes := true }
  let s1 := s.chainRecord e ch w w.pc Cause.xlate.code reason (if table then 3 else akind) true false p remain
  (s1.modWalk e fun w => { w with held := some h, ask := none }).bump

/-! ## Tests of an access (R36-R38, R51, R386, R401) -/

/-- Why an access of the chain is faulty: the cause, if it is. -/
def chainFault (s : State) (e : Fin 96) (ch : Chain) (u : Use) (reach : Bool) (p : W64 × Bool) (n : Nat) : Option Byte :=
  let sizes : Vector Nat 16 := s.cairn.layers.map fun l => l.size
  if !p.2 || (reach && !engReach e p.1) then some Cause.badspace.code
  else if (match targetOf p.1 with
      | .place (.layer l) off => 3 ≤ ptrSpace p.1 && decide (ptrSpace p.1 ≤ 6) && decide (ptrRank p.1 < 288)
          && s.lostTarget (.place (.layer l) off)
      | _ => false) then none
  else match resolve sizes ch.rank ch.world u p.1 n with
    | none => some Cause.badspace.code
    | some t =>
      if !ch.world && s.prot.targetSecure t n then some Cause.world.code
      else match t with
        | .remote pkg _ => if s.routeLive pkg then none else some 0
        | _ => none

/-- Why the walk of an access fails, if it does, here or at another package (R347, R401): REASON, whether a table's read
failed, and the pointer. -/
def chainWalk (s : State) (e : Fin 96) (ch : Chain) (p : W64) (n : Nat) (write : Bool) : Option (Nat × Bool × W64) :=
  let go (va : Nat) : Option (Nat × Bool × W64) :=
    match s.ctx? ch.ctxid with
    | none => some (4, false, p)
    | some x => match s.translateSpan (engMap e) x va n write with
      | .error (r, t, a) => some (r, t, ptrPlus p (a - va))
      | .ok _ => none
  match targetOf p with
  | .global va => go va
  | .remote pkg off => if pkg = s.mgmt.number.toNat then go off else s.remoteWalk p pkg off n write
  | _ => none

/-! ## Copying pieces (R54-R57, R386) -/

/-- The first fault of the pieces. -/
def piecesFault (s : State) (e : Fin 96) (ch : Chain) (ps : List Piece) : Option EntryFault :=
  ps.findSome? fun p =>
    let src := p.src.bind fun q => (s.chainFault e ch .copySrc true q p.n).map fun c => EntryFault.mk c 0 q.1
    let dst := p.dst.bind fun q => (s.chainFault e ch .copyDst true q p.n).map fun c => EntryFault.mk c 1 q.1
    src.or dst

/-- The first source whose walk fails. -/
def sourcesWalk (s : State) (e : Fin 96) (ch : Chain) (ps : List Piece) : Option (Nat × Bool × W64) :=
  ps.findSome? fun p => p.src.bind fun q => s.chainWalk e ch q.1 p.n false

/-- The lowest of some pointers. -/
def lowest : List W64 → Option W64
  | [] => none
  | a :: rest => some (rest.foldl (fun m x => if x.toNat < m.toNat then x else m) a)

/-- The lowest-addressed lost byte that the sources meet (R386). DEDUCED: log entry 38. -/
def sourcesLost (s : State) (ps : List Piece) : Option W64 :=
  lowest (ps.filterMap fun p => p.src.bind fun q => if s.lostTarget (targetOf q.1) then some q.1 else none)

/-- The bytes of a piece: what lies at its source, 0xFF from a lost layer, or its fill. -/
def pieceRead (s : State) (e : Fin 96) (ch : Chain) (p : Piece) : State × List Byte :=
  match p.src with
  | none => (s, p.fill)
  | some q => match s.readAt (engMap e) ch.ctxid q.1 p.n with
    | (s1, .bytes bs) => (s1.chainTouch e ch q.1 p.n false, bs)
    | (s1, _) => (s1, List.replicate p.n 0xFF)

/-- The write of a part, by the guard maps of the entry's beginning; bytes for a lost layer are dropped. -/
def partWrite (s : State) (e : Fin 96) (ch : Chain) (gs : List (Nat × BitVec 256)) (d : CopyPart) : State :=
  let bs := d.bytes.map fun b => (b, true)
  let s1 := match targetOf d.dst with
    | .place .host _ => (s.writeAt (engMap e) ch.ctxid d.dst bs).1
    | .place pl off => if s.lostTarget (.place pl off) then s else (s.storeOver gs pl off bs).heal pl off d.bytes.length
    | _ => (s.writeAt (engMap e) ch.ctxid d.dst bs).1
  s1.chainTouchBy gs e ch d.dst d.bytes.length true

/-- A part cut at the granules of its destination (R57). -/
def granules : Nat → CopyPart → List CopyPart
  | 0, d => [d]
  | fuel + 1, d =>
    let k := 64 - d.dst.toNat % 64
    if d.bytes.length ≤ k then [d]
    else { d with bytes := d.bytes.take k }
      :: granules fuel { dst := ptrAdd d.dst k, bytes := d.bytes.drop k, src := d.src.map fun p => ptrAdd p k }

/-- The entry is over: what is left of its count is counted, and the chain goes on. -/
def copyDone (s : State) (e : Fin 96) (left : Nat) : State :=
  let pc := match s.engines[e].walk with | some w => w.pc | none => 0
  (s.modWalk e fun w => { w with copy := none, autoCount := w.autoCount + left }).goOn e (pc + 32) .stop

/-- A copying entry has met a lost layer: one record, and LOST (R386). -/
def copyLoss (s : State) (e : Fin 96) (ch : Chain) (w : Walk) (p : W64) (akind remain : Nat) : State :=
  (s.chainRecord e ch w w.pc Cause.xlate.code 8 akind false true p remain).modWalk e fun w => { w with lost := true }

/-- The entry has read its sources: it begins to write these parts; a loss met by a source is recorded (R54, R386).
DEDUCED: log entry 33. -/
def copyBegin (s : State) (e : Fin 96) (ch : Chain) (w : Walk) (todo : List CopyPart) (count : Nat)
    (lost : Option W64) : State :=
  let s1 := match lost with
    | some p => s.copyLoss e ch w p 0 count
    | none => s
  if todo.isEmpty then s1.copyDone e count
  else
    (s1.modWalk e fun w => { w with
      ask := none
      copy := some { todo := todo.flatMap fun d => granules (d.bytes.length / 64 + 2) d, left := count,
                     recorded := lost.isSome, owed := none, guards := s.prot.guards }
      due := s.now + Config.delay .engine s.serial }).bump

/-- A layer has been lost while an engine copies: what came from it and is not yet written becomes 0xFF, with one record for
the entry (R386); where the record has no place, the engine holds its chain until it is written (R350). -/
def copyLoses (s : State) (e : Fin 96) : State :=
  match s.engines[e].queue, s.engines[e].walk with
  | ch :: _, some w => match w.copy with
    | some m =>
      let gone (d : CopyPart) : Bool := match d.src with | some p => s.lostTarget (targetOf p) | none => false
      match lowest ((m.todo.filter gone).filterMap (·.src)) with
      | none => s
      | some p =>
        let t := s.copyLoss e ch w p 0 m.left
        let full := s.overflows t ch.ctxid
        let s1 := if m.recorded || full then s.modWalk e fun w => { w with lost := true } else t
        s1.modWalk e fun w => { w with copy := some { m with
          recorded := true
          owed := if m.recorded then m.owed else if full then some p else none
          todo := m.todo.map fun d => if gone d then { d with bytes := List.replicate d.bytes.length 0xFF } else d } }
    | none => s
  | _, _ => s

/-- The record of an entry: n bytes at an offset of the own terrace 0. -/
structure RecordAt where
  at_ : Nat
  n : Nat

/-- The lines of the record. -/
def RecordAt.lines (q : RecordAt) (ch : Chain) : List (Nat × Nat) := t0Lines (t0Ptr ch.rank q.at_) q.n

/-- The record's reading may touch a guard granule (R46). -/
def touchRecord (s : State) (e : Fin 96) (ch : Chain) (q : RecordAt) : State := s.chainTouch e ch (t0Ptr ch.rank q.at_) q.n false

/-- The lines that the sources of some pieces need. -/
def sourceLines (ps : List Piece) : List (Nat × Nat) :=
  (ps.flatMap fun p => match p.src with | some q => t0Lines q.1 p.n | none => []).eraseDups

/-- The sources of some pieces are read: the state, and the bytes of each piece. -/
def readSources (s : State) (e : Fin 96) (ch : Chain) (ps : List Piece) : State × List (List Byte) :=
  let read (a : State × List (List Byte)) (p : Piece) : State × List (List Byte) :=
    let x := a.1.pieceRead e ch p
    (x.1, x.2 :: a.2)
  let r := ps.foldl read (s, [])
  (r.1, r.2.reverse)

/-- A copying entry with these pieces and this count, whose record has been read: faulty, held, or begun with every source
byte read (R44, R54). DEDUCED: log entry 33. DEDUCED: log entry 38. -/
def copyEntry (s : State) (e : Fin 96) (ch : Chain) (w : Walk) (q : RecordAt) (ps : List Piece) (count : Nat) : State :=
  match s.piecesFault e ch ps with
  | some f => (s.touchRecord e ch q).faultyEntry e ch w f count (w.pc + 32) .stop
  | none => match s.sourcesWalk e ch ps with
    | some (r, t, p) => (s.touchRecord e ch q).holdEntry e ch w p r 0 t false count
    | none => s.readBanks e w (q.lines ch ++ sourceLines ps) fun v =>
      let r := (v.touchRecord e ch q).readSources e ch ps
      let todo := (ps.zip r.2).filterMap fun x => x.1.dst.map fun d =>
        ({ dst := d.1, bytes := x.2, src := x.1.src.map (·.1) } : CopyPart)
      r.1.copyBegin e ch w todo count (s.sourcesLost ps)

/-- A destination that names another package whose last route has been lost (R401). -/
def routeGone (s : State) (p : W64) : Bool :=
  match targetOf p with
  | .remote pkg _ => !s.routeLive pkg
  | _ => false

/-- One destination granule of the entry, whichever a free choice takes, is written whole, in a cycle that leaves its bank of a
terrace 0 idle (R44): dropped if its layer is lost, with one record for the entry; held if its walk fails (R57, R349, R386).
Where no route is left to the package it goes to, the entry is faulty and the rest of it dropped (R401).
DESIGN CHOICE: log entry 11. -/
def copyStep (s : State) (e : Fin 96) (ch : Chain) (w : Walk) (m : CopyRun) : State :=
  match m.todo[Config.openValue (w.ask.getD s.serial) 4 % m.todo.length]? with
  | none => s.copyDone e m.left
  | some d =>
    let here (x : CopyPart) : Bool := x.dst.toNat / 64 == d.dst.toNat / 64
    if s.routeGone d.dst then
      (s.modWalk e fun w => { w with copy := none }).faultyEntry e ch w { cause := 0, akind := 1, addr := d.dst } m.left
        (w.pc + 32) .stop
    else match s.chainWalk e ch d.dst 1 true with
    | some (r, t, p) => s.holdEntry e ch w p r 1 t true m.left
    | none => s.withBanks e w (t0Lines d.dst 1) fun s =>
      let mine := m.todo.filter here
      let rest := m.todo.filter fun x => !here x
      let n := (mine.map fun x => x.bytes.length).sum
      let lost := s.lostTarget (targetOf d.dst)
      let s1 := if lost && !m.recorded then
          let a := (lowest ((m.todo.filter fun x => s.lostTarget (targetOf x.dst)).map (·.dst))).getD d.dst
          s.copyLoss e ch w a 1 m.left
        else s.modWalk e fun w => { w with lost := w.lost || lost }
      let s2 := mine.foldl (fun s x => s.partWrite e ch m.guards x) s1
      if rest.isEmpty then s2.copyDone e m.left
      else
        (s2.modWalk e fun w => { w with
          ask := none
          copy := some { todo := rest, left := m.left - n, recorded := m.recorded || lost, owed := none, guards := m.guards }
          autoCount := w.autoCount + n
          due := s.now + Config.delay .engine s.serial }).bump

/-! ## The entry that an engine has reached -/

/-- The engine can perform its next entry now. -/
def engineReady (s : State) (w : Walk) : Bool := w.held.isNone && !w.waiting && decide (w.due ≤ s.now)

/-- The engine does not go on in this cycle: it tries again in the next. -/
def retry (s : State) (e : Fin 96) : State := s.modWalk e fun w => { w with due := s.now + 1 }

/-- What an entry of the chain would lead to; where its record would find no room, the engine holds the chain instead
(R350). -/
def chainTry (s : State) (e : Fin 96) (ch : Chain) (t : State) : State := if s.overflows t ch.ctxid then s.retry e else t



/-- REMOTE stamps of a chain stand with a link engine: no later SIGNAL of the chain takes effect, and the chain is not
finished, before they have performed (R60, R311). -/
def stampsOut (s : State) (e : Fin 96) (ch : Chain) : Bool :=
  s.engines.any fun k => k.remote.any fun x => x.chain == some e && x.id == ch.id

/-- The chain has reached the limit of R258. -/
def atLimit (w : Walk) : Bool := decide (t0Top ≤ w.pc) || decide (2 ^ 20 ≤ w.streak)

/-- An engine that has reached an entry asks for its line, and takes it, whole, when its turn has come; the reading may touch
a guard granule (R44, R46, R52). -/
def readEntry (s : State) (e : Fin 96) : State :=
  match s.walkOf e with
  | none => s
  | some (ch, w) =>
    if w.entry.isSome || atLimit w || !s.engineReady w then s
    else match s.bankTurn w.ask (t0Lines (t0Ptr ch.rank w.pc) 32) with
      | .wait t k => t.modWalk e fun w => { w with ask := some k }
      | .ready v =>
        (s.chainTouch e ch (t0Ptr ch.rank w.pc) 32 false).modWalk e fun w =>
          { w with entry := some (Vector.ofFn fun i => v.chainWord ch w.pc i.val), ask := none }

/-- KIND of the entry that an engine has read and may perform now (R249). -/
def entryKind (s : State) (e : Fin 96) : Option Nat :=
  match s.walkOf e with
  | some (_, w) => if s.engineReady w && !atLimit w && w.entry.isSome then some (bits (w.word 0) 60 4) else none
  | none => none

/-- XP of that entry. -/
def entryXp (s : State) (e : Fin 96) : Bool :=
  match s.walkOf e with | some (_, w) => (w.word 0).getLsbD 57 | none => false

/-- The event of an entry: what it does with the chain, the walk and the four words, if the engine has read such an entry. -/
def atEntry (s : State) (e : Fin 96) (here : Bool) (f : State → Chain → Walk → (Nat → W64) → State) : Out :=
  match here, s.walkOf e with
  | true, some (ch, w) => .next (s.chainTry e ch (f s ch w w.word))
  | _, _ => .next s

/-- A copy that owes the record of a lost layer writes it, and goes on (R350, R386). -/
def payRecord (s : State) (e : Fin 96) (ch : Chain) (w : Walk) (m : CopyRun) (p : W64) : State :=
  (s.copyLoss e ch w p 0 m.left).modWalk e fun w => { w with copy := some { m with owed := none } }

/-- The event of a copying entry: the next granule of one that has begun, or its beginning. -/
def atCopy (s : State) (e : Fin 96) (here : Bool) (f : State → Chain → Walk → (Nat → W64) → State) : Out :=
  match here, s.walkOf e with
  | true, some (ch, w) => match w.copy with
    | some m => .next (s.chainTry e ch (match m.owed with
      | some p => s.payRecord e ch w m p
      | none => s.copyStep e ch w m))
    | none => s.atEntry e here f
  | _, _ => .next s

/-- The event of an entry that waits until the REMOTE stamps of its chain have performed, and where it writes a stamp the
additions of its chain too (R53, R60, R274). -/
def afterSignals (s : State) (e : Fin 96) (here stamp : Bool) (f : State → Chain → Walk → (Nat → W64) → State) : Out :=
  match here, s.walkOf e with
  | true, some (ch, _) => if s.stampsOut e ch || (stamp && s.addsOut ch.id) then .next (s.retry e) else s.atEntry e here f
  | _, _ => .next s

/-- A store of a core has performed for every agent, or has gone into its task's frame. -/
def storeOut (s : State) (r : Fin 288) (id : Nat) : Bool :=
  !(s.core r).mem.port.any fun a => a.id == id && !a.framed

/-- An accepted chain may start: its COPY's core has reached issue + 4, every agent sees the stores that performed by then,
and the writes that a fence before the COPY releases have performed (R242, R309). -/
def mayStart (s : State) (ch : Chain) : Bool :=
  ch.open_ && decide (ch.due ≤ s.now) && ch.sees.all (s.storeOut ch.rank)
    && ch.after.all fun i => !(s.core ch.rank).mem.port.any fun a => a.id == i

end State

/-! ## CHAIN_START and the limits (R52, R258, R259) -/

/-- CHAIN_START: an idle engine starts its oldest accepted chain. -/
def execChainStart (e : Fin 96) (s : State) : Out :=
  match s.engines[e].walk, s.engines[e].queue with
  | none, ch :: _ =>
    if s.mayStart ch then
      let w : Walk :=
        { pc := ch.start, entry := none, last := ch.start, nest := [], err := false, lost := false, autoCount := 0,
          expand := none, entries := 0, streak := 0, waiting := false, held := none, copy := none, ask := none
          due := s.now + Config.delay .chain s.serial }
      .next (s.modEngine e fun x => { x with walk := some w }).bump
    else .next s
  | _, _ => .next s

/-- The chain is finished (R52). -/
def State.finishChain (s : State) (e : Fin 96) : State :=
  s.modEngine e fun x => { x with walk := none, queue := x.queue.drop 1, done := x.done + 1 }

/-- CHAIN_LIMIT: a chain that has reached 0x17_F800 or the limit of control entries ends, with one record (R258). -/
def execChainLimit (e : Fin 96) (s : State) : Out :=
  match s.walkOf e with
  | some (ch, w) =>
    if s.engineReady w && State.atLimit w then
      let a := if t0Top ≤ w.pc then t0Top else w.last
      if s.stampsOut e ch then .next (s.retry e)
      else .next (s.chainTry e ch ((s.chainRecord e ch w w.last 0 9 0 false false (t0Ptr ch.rank a) 0).finishChain e))
    else .next s
  | none => .next s

/-- END finishes the chain. An entry of KIND 0 with another bit set, or of KIND 8 to 15, is faulty (R249, R258). -/
def execEndChain (e : Fin 96) (s : State) : Out :=
  let k := s.entryKind e
  s.afterSignals e (k == some 0 || (match k with | some n => decide (8 ≤ n) | none => false)) false fun s ch w x =>
    if x 0 = 0 ∧ x 1 = 0 ∧ x 2 = 0 ∧ x 3 = 0 then s.finishChain e
    else s.faultyEntry e ch w (State.ownFault ch w) 0 (w.pc + 32) .keep

/-- JUMP (R254, R258). A faulty JUMP, COND or LOOP lengthens the run of control entries too. DESIGN CHOICE: log entry 101. -/
def execJump (e : Fin 96) (s : State) : Out :=
  s.atEntry e (s.entryKind e == some 7) fun s ch w x =>
    let t := bits (x 0) 0 32
    if bits (x 0) 32 28 ≠ 0 ∨ x 1 ≠ 0 ∨ x 2 ≠ 0 ∨ x 3 ≠ 0 ∨ t % 32 ≠ 0 ∨ t0Top ≤ t ∨ w.nest ≠ [] then
      s.faultyEntry e ch w (State.ownFault ch w) 0 (w.pc + 32) .lengthen
    else s.goOn e t .lengthen

/-- EXPAND (R253). -/
def execExpand (e : Fin 96) (s : State) : Out :=
  s.atEntry e (s.entryKind e == some 6) fun s ch w x =>
    let out := bits (x 0) 58 2
    let q := bits (x 0) 54 4
    if out = 0 ∨ 8 < q ∨ bits (x 0) 0 54 ≠ 0 ∨ x 1 ≠ 0 ∨ x 2 ≠ 0 ∨ x 3 ≠ 0 then
      (s.modWalk e fun w => { w with expand := none }).faultyEntry e ch w (State.ownFault ch w) 0 (w.pc + 32) .keep
    else (s.modWalk e fun w => { w with expand := some (out, q) }).goOn e (w.pc + 32) .keep

/-- LOOP (R254). -/
def execLoopEntry (e : Fin 96) (s : State) : Out :=
  s.atEntry e (s.entryKind e == some 3) fun s ch w x =>
    let n := bits (x 0) 52 8
    let k := bits (x 0) 0 32
    let stop := w.pc + 32 * (n + 1)
    let past : Bool := match w.nest with | f :: _ => decide (f.stop < stop) | [] => false
    if n = 0 ∨ bits (x 0) 32 20 ≠ 0 ∨ bits (x 3) 48 16 ≠ 0 ∨ 4 ≤ w.nest.length ∨ past = true then
      s.faultyEntry e ch w (State.ownFault ch w) 0 stop .lengthen
    else if k = 0 then s.goOn e stop .lengthen
    else
      let f : LoopFrame :=
        { start := w.pc + 32, stop := stop, iter := 0, count := k, sinc := x 1, dinc := x 2, sigInc := bits (x 3) 0 48 }
      (s.modWalk e fun w => { w with nest := f :: w.nest }).goOn e (w.pc + 32) .lengthen

/-! ## MOVE and WINDOW (R250, R251) -/

/-- A signed field of a record. -/
def sfield (w : W64) (lo len : Nat) : Int :=
  let n := bits w lo len
  if n < 2 ^ (len - 1) then n else (n : Int) - 2 ^ len

/-- The positions of a block, dimension 0 fastest. -/
def blockIdx (e3 e2 e1 e0 : Nat) : List (Nat × Nat × Nat × Nat) :=
  (List.range e3).flatMap fun a => (List.range e2).flatMap fun b => (List.range e1).flatMap fun c =>
    (List.range e0).map fun d => (d, c, b, a)

/-- A shape record (R250). -/
structure Shape where
  ext : Vector Nat 4
  bound : Vector Nat 4
  org : Vector Int 4
  sstep : Vector Int 4
  dstep : Vector Int 4
  resv : Bool
deriving DecidableEq, Repr

/-- The shape record of words r 0 to r 15, for an element size. -/
def Shape.ofWords (size : Nat) (r : Nat → W64) : Shape :=
  { ext := #v[bits (r 0) 0 32, bits (r 0) 32 32, bits (r 1) 0 32, bits (r 1) 32 32]
    bound := #v[bits (r 8) 0 32, bits (r 8) 32 32, bits (r 9) 0 32, bits (r 9) 32 32]
    org := #v[sfield (r 10) 0 32, sfield (r 10) 32 32, sfield (r 11) 0 32, sfield (r 11) 32 32]
    sstep := #v[(size : Int), sfield (r 2) 0 50, sfield (r 3) 0 50, sfield (r 4) 0 50]
    dstep := #v[(size : Int), sfield (r 5) 0 50, sfield (r 6) 0 50, sfield (r 7) 0 50]
    resv := ((List.range 6).any fun i => bits (r (2 + i)) 50 14 != 0) || ((List.range 4).any fun i => r (12 + i) != 0) }

/-- The piece of one element of a MOVE: copied, filled or dropped (R250). -/
def Shape.piece (h : Shape) (size : Nat) (dclip : Bool) (sa da fill : W64) (i : Nat × Nat × Nat × Nat) : Option Piece :=
  let iv : Vector Int 4 := #v[(i.1 : Int), (i.2.1 : Int), (i.2.2.1 : Int), (i.2.2.2 : Int)]
  let ov : Vector Int 4 := Vector.zipWith (· + ·) h.org iv
  let dot (a b : Vector Int 4) : Int := (Vector.zipWith (· * ·) a b).toList.sum
  let inb := (List.finRange 4).all fun d => decide (0 ≤ ov[d] ∧ ov[d] < h.bound[d])
  let src := ptrMove sa (dot (if dclip then iv else ov) h.sstep)
  let dst := ptrMove da (dot (if dclip then ov else iv) h.dstep)
  if inb then some { src := some src, dst := some dst, fill := [], n := size }
  else if dclip then none
  else some { src := none, dst := some dst, fill := leBytes size fill.toNat, n := size }

/-- MOVE with XP = 0 (R250). -/
def execMove (e : Fin 96) (s : State) : Out :=
  s.atCopy e (s.entryKind e == some 1 && !s.entryXp e) fun s ch w x =>
    let size := 2 ^ bits (x 0) 58 2
    let at_ := 64 * bits (x 0) 0 15
    if t0Top < at_ + 128 then s.faultyEntry e ch w (State.ownFault ch w) 0 (w.pc + 32) .stop
    else
      let q : State.RecordAt := { at_ := at_, n := 128 }
      s.readBanks e w (q.lines ch) fun v =>
      let h := Shape.ofWords size fun i => v.chainWord ch at_ i
      let count := h.ext[0] * h.ext[1] * h.ext[2] * h.ext[3] * size
      if bits (x 0) 15 41 ≠ 0 ∨ h.resv = true then
        (s.touchRecord e ch q).faultyEntry e ch w (State.ownFault ch w) count (w.pc + 32) .stop
      else
        let inc := loopInc w.nest
        let ps := (blockIdx h.ext[3] h.ext[2] h.ext[1] h.ext[0]).filterMap fun i =>
          h.piece size ((x 0).getLsbD 56) (ptrAdd (x 1) inc.1) (ptrAdd (x 2) inc.2.1) (x 3) i
        s.copyEntry e ch w q ps count

/-- WINDOW (R251). -/
def execWindow (e : Fin 96) (s : State) : Out :=
  s.atCopy e (s.entryKind e == some 2) fun s ch w x =>
    let size := 2 ^ bits (x 0) 58 2
    let at_ := 64 * bits (x 0) 0 15
    if t0Top < at_ + 64 then s.faultyEntry e ch w (State.ownFault ch w) 0 (w.pc + 32) .stop
    else
      let q : State.RecordAt := { at_ := at_, n := 64 }
      s.readBanks e w (q.lines ch) fun v =>
      let r (i : Nat) : W64 := v.chainWord ch at_ i
      let imgw := bits (r 0) 0 32
      let imgh := bits (r 0) 32 32
      let chn := bits (r 1) 32 32
      let wh := bits (r 1) 16 16
      let ww := bits (r 1) 0 16
      let stx := bits (r 3) 32 16
      let sty := bits (r 3) 48 16
      let count := wh * ww * chn * size
      let resv : Bool := bits (x 0) 15 27 != 0 || bits (r 3) 0 32 != 0 || bits (r 4) 50 14 != 0 || bits (r 5) 50 14 != 0
        || bits (r 6) 50 14 != 0 || r 7 != 0
      if resv = true ∨ stx = 0 ∨ sty = 0 then
        (s.touchRecord e ch q).faultyEntry e ch w (State.ownFault ch w) count (w.pc + 32) .stop
      else
        let inc := loopInc w.nest
        let sa := ptrAdd (x 1) inc.1
        let da := ptrAdd (x 2) inc.2.1
        let n := chn * size
        let ps := if n = 0 then [] else
          (List.range wh).flatMap fun (y : Nat) => (List.range ww).map fun (k : Nat) =>
            let py : Int := sfield (r 2) 32 32 + sty * y + sfield (x 0) 50 8
            let px : Int := sfield (r 2) 0 32 + stx * k + sfield (x 0) 42 8
            let dst := ptrMove da ((bits (r 6) 0 50 * (ww * y + k) : Nat) : Int)
            if 0 ≤ py ∧ py < imgh ∧ 0 ≤ px ∧ px < imgw then
              Piece.mk (some (ptrMove sa (py * (bits (r 4) 0 50 : Int) + px * (bits (r 5) 0 50 : Int)))) (some dst) [] n
            else Piece.mk none (some dst) ((List.replicate chn (leBytes size (x 3).toNat)).flatten) n
        s.copyEntry e ch w q ps count

/-! ## Segment moves (R62-R66, R252) -/

/-- A segment that has been read: its header's pointer, how many bytes were read there, what it becomes, and whether it is
copied whole or malformed. -/
structure SegOut where
  ptr : W64
  read : Nat
  bytes : List Byte
  copied : Bool
  malformed : Bool
  expanded : Bool
deriving DecidableEq, Repr

/-- How the reading of the segments ends; where it fails, with the pointer of the header that has been read. -/
inductive SegEnd where
  | done (s : State) (segs : List SegOut) (lost : Option W64)
  | fault (segs : List SegOut) (head : Option W64) (f : EntryFault)
  | hold (segs : List SegOut) (head : Option W64) (ptr : W64) (reason : Nat) (table : Bool)
deriving DecidableEq, Repr

/-- Bytes of a source span of the chain: a fault, a held walk, or the bytes (none from a lost layer). -/
def State.segRead (s : State) (e : Fin 96) (ch : Chain) (p : W64 × Bool) (n : Nat) :
    Except (EntryFault ⊕ (W64 × Nat × Bool)) (State × Option (List Byte)) :=
  match s.chainFault e ch .copySrc true p n with
  | some c => .error (.inl ⟨c, 0, p.1⟩)
  | none => match s.chainWalk e ch p.1 n false with
    | some (r, t, q) => .error (.inr (q, r, t))
    | none => match s.readAt (engMap e) ch.ctxid p.1 n with
      | (s1, .bytes bs) => .ok (s1.chainTouch e ch p.1 n false, some bs)
      | (s1, _) => .ok (s1, none)

/-- The segment of a header whose fields are in order: expanded or copied, or malformed by its CHECK. -/
def segMake (h : SegHead) (p : W64) (expanded : Bool) (out q : Nat) (bs : List Byte) : SegOut :=
  let scales := (bs.drop 16).take h.nblk
  let values := (bs.drop h.voff).take h.valueBytes
  let n := if expanded then 32 * expBytes out * h.blocks else h.span
  if !h.checks scales values then
    { ptr := p, read := h.span, bytes := List.replicate n 0xFF, copied := false, malformed := true, expanded := expanded }
  else if expanded then
    { ptr := p, read := h.span, bytes := h.expand out q h.nblk scales values, copied := false, malformed := false,
      expanded := true }
  else { ptr := p, read := h.span, bytes := bs.take n, copied := true, malformed := false, expanded := false }

/-- The segments from a header on, at most n of them (R252); what a lost layer holds reads as 0xFF (R386), and a lost
header ends the move. Every engine tests what it copies as well as what it expands. DESIGN CHOICE: log entry 72. The output of
a malformed segment is as long as that of a good one with the same header. DESIGN CHOICE: log entry 89. -/
def State.segWalk (s : State) (e : Fin 96) (ch : Chain) (out q : Nat) : Nat → W64 × Bool → List SegOut → Option W64 → SegEnd
  | 0, _, acc, lost => .done s acc lost
  | n + 1, p, acc, lost =>
    match s.segRead e ch p 16 with
    | .error (.inl f) => .fault acc none f
    | .error (.inr (a, r, t)) => .hold acc none a r t
    | .ok (s1, none) => .done s1 acc (some (lost.getD p.1))
    | .ok (s1, some hb) =>
      let h := SegHead.ofBytes hb
      let expanded := engLevel e == some h.xpt
      let next (s : State) (o : SegOut) (l : Option W64) : SegEnd :=
        if h.next = 0 then .done s (acc ++ [o]) l
        else s.segWalk e ch out q n (ptrMove p.1 h.next) (acc ++ [o]) l
      if h.bad ((engLevel e).getD 0) (if expanded then q else 0) then
        let len := if expanded then 32 * expBytes out * h.blocks else h.span
        next s1
          { ptr := p.1, read := 16, bytes := List.replicate len 0xFF, copied := false, malformed := true, expanded := expanded } lost
      else match s1.segRead e ch p h.span with
        | .error (.inl f) => .fault acc (some p.1) f
        | .error (.inr (a, r, t)) => .hold acc (some p.1) a r t
        | .ok (s2, none) =>
          let len := if expanded then 32 * expBytes out * h.blocks else h.span
          next s2
            { ptr := p.1, read := 16, bytes := List.replicate len 0xFF, copied := false, malformed := false, expanded := expanded }
            (some (lost.getD p.1))
        | .ok (s2, some bs) => next s2 (segMake h p.1 expanded out q bs) lost

/-- The lines of terrace 0s that have been read for some segments, and for the header of one that failed after it. -/
def segLines (segs : List SegOut) (head : Option W64) : List (Nat × Nat) :=
  ((segs.flatMap fun o => t0Lines o.ptr o.read) ++ (match head with | some p => t0Lines p 16 | none => [])).eraseDups

/-- The lines that the reading of the segments needed. -/
def SegEnd.lines : SegEnd → List (Nat × Nat)
  | .done _ segs _ => segLines segs none
  | .fault segs h _ => segLines segs h
  | .hold segs h _ _ _ => segLines segs h

/-- Where each segment starts in the output, from a destination offset: what is not expanded starts at the next
16-byte boundary after the output before it. The first starts at DADDR, whatever that is, and the boundaries are those of
destination addresses. DESIGN CHOICE: log entry 100. -/
def segPlace (base : Nat) : Nat → Bool → List SegOut → List (Nat × SegOut)
  | _, _, [] => []
  | pos, first, o :: rest =>
    let start := if o.expanded || first then pos else (base + pos + 15) / 16 * 16 - base
    (start, o) :: segPlace base (start + o.bytes.length) false rest

/-- The output, segment by segment, from the destination's pointer: padding is zero, and NEXT of a copied segment is the
distance to the next copy, or 0. -/
def segParts (da : W64) : Nat → List (Nat × SegOut) → List CopyPart
  | _, [] => []
  | pos, (start, o) :: rest =>
    let next : Nat := match rest.find? fun x => x.2.copied with | some x => x.1 - start | none => 0
    let body := if o.copied then o.bytes.take 12 ++ leBytes 4 next ++ o.bytes.drop 16 else o.bytes
    let pad : CopyPart := { dst := ptrPlus da pos, bytes := List.replicate (start - pos) 0, src := none }
    [pad, { dst := ptrPlus da start, bytes := body, src := some o.ptr }].filter (fun d => !d.bytes.isEmpty)
      ++ segParts da (start + o.bytes.length) rest

/-- The bytes of some parts. -/
def partBytes (ps : List CopyPart) : Nat := (ps.map fun d => d.bytes.length).sum

/-- SEGMENT_MOVE: a MOVE with XP = 1 (R252). -/
def execSegmentMove (e : Fin 96) (s : State) : Out :=
  s.atCopy e (s.entryKind e == some 1 && s.entryXp e) fun s ch w x =>
    let nseg := (x 3).toNat
    let bad : Bool := bits (x 0) 58 2 != 0 || (x 0).getLsbD 56 || bits (x 0) 0 15 != 0 || bits (x 0) 15 41 != 0
      || decide (2 ^ 32 ≤ nseg)
    if bad then s.faultyEntry e ch w (State.ownFault ch w) 0 (w.pc + 32) .stop
    else if nseg = 0 then s.goOn e (w.pc + 32) .stop
    else match w.expand with
      | none => s.faultyEntry e ch w (State.ownFault ch w) 0 (w.pc + 32) .stop
      | some (out, q) =>
        let inc := loopInc w.nest
        let sa := ptrAdd (x 1) inc.1
        let da := ptrAdd (x 2) inc.2.1
        if ptrOff sa % 16 ≠ 0 then s.faultyEntry e ch w (State.ownFault ch w) 0 (w.pc + 32) .stop
        else
          let size (segs : List SegOut) : Nat := partBytes (segParts da 0 (segPlace (ptrOff da) 0 true segs))
          let read := (s.viewOf (w.ask.getD s.serial)).segWalk e ch out q nseg (sa, true) [] none
          s.readBanks e w read.lines fun s =>
          match read with
          | .fault segs _ f => s.faultyEntry e ch w f (size segs) (w.pc + 32) .stop
          | .hold segs h a r t => s.holdEntry e ch w a r (if h.isNone then 4 else 0) t false (size segs)
          | .done s1 segs lost =>
            let placed := segPlace (ptrOff da) 0 true segs
            let parts := segParts da 0 placed
            let n := partBytes parts
            let dst : Piece := { src := none, dst := some (ptrMove da 0), fill := [], n := n }
            match s.piecesFault e ch (if n = 0 then [] else [dst]) with
            | some f => s.faultyEntry e ch w f n (w.pc + 32) .stop
            | none =>
              let s2 := placed.foldl (fun s o =>
                if o.2.malformed then
                  (s.chainRecord e ch w w.pc 0 7 4 false false o.2.ptr (n - o.1)).modWalk e fun w => { w with err := true }
                else s) s1
              s2.copyBegin e ch w parts n lost

/-! ## COND (R255, R256) -/

/-- How a COND's test comes out. -/
inductive CondEnd where
  | holds
  | fails
  /-- REASON, table, pointer -/
  | walk (reason : Nat) (table : Bool) (ptr : W64)
  | lost
deriving DecidableEq, Repr

/-- Why a COND is faulty, if it is; its loop body ends at `stop`. DEDUCED: log entry 35. -/
def State.condFault (s : State) (e : Fin 96) (ch : Chain) (w : Walk) (x : Nat → W64) : Option EntryFault :=
  let ck := bits (x 0) 58 2
  let past : Bool := match w.nest with | f :: _ => decide (f.stop < w.pc + 32 * (1 + bits (x 0) 0 8)) | [] => false
  if ck = 0 ∨ ck = 3 ∨ ((x 0).getLsbD 57 = true ∧ ck = 2) ∨ bits (x 0) 8 48 ≠ 0 ∨ bits (x 2) 48 16 ≠ 0 ∨ x 3 ≠ 0 ∨ past = true then
    some (State.ownFault ch w)
  else if ck = 1 then
    match s.chainFault e ch .signalBar false (x 1, true) 8 with
    | some c => some ⟨c, 0, x 1⟩
    | none => match s.ctx? ch.ctxid with
      | some k => if k.hasCore (ptrRank (x 1)) then none else some (State.ownFault ch w)
      | none => some (State.ownFault ch w)
  else if ptrOff (x 1) % 8 ≠ 0 then some ⟨Cause.badspace.code, 0, x 1⟩
  else (s.chainFault e ch .stamp false (x 1, true) 8).map fun c => ⟨c, 0, x 1⟩

/-- The test of a COND (R13, R255, R256): THRESH 0 holds at once; a barrier by its value at the start of the cycle, and with
SUB less what task starts and lower engines have subtracted in it. DEDUCED: log entry 35. -/
def State.condTest (s : State) (e : Fin 96) (ch : Chain) (x : Nat → W64) : CondEnd :=
  let thresh := bits (x 2) 0 48
  if thresh = 0 then .holds
  else if bits (x 0) 58 2 = 1 then
    let r := ptrRank (x 1)
    let b := ptrOff (x 1) / 8
    let v := if (x 0).getLsbD 57 then s.barrierOf ch.ctxid r b else s.barrierStart ch.ctxid r b
    if thresh ≤ v then .holds else .fails
  else if s.lostTarget (targetOf (x 1)) then .lost
  else match s.chainWalk e ch (x 1) 8 false with
    | some (r, t, p) => .walk r t p
    | none => match s.readAt (engMap e) ch.ctxid (x 1) 8 with
      | (_, .bytes bs) => if thresh ≤ leValue bs % 2 ^ 48 then .holds else .fails
      | _ => .fails

/-- A COND whose condition holds: SUB subtracts, and the walk goes on with the next entry. -/
def State.condPass (s : State) (e : Fin 96) (ch : Chain) (w : Walk) (x : Nat → W64) : State :=
  let s1 := if (x 0).getLsbD 57 then s.subBarrier ch.ctxid (ptrRank (x 1)) (ptrOff (x 1) / 8) (bits (x 2) 0 48) else s
  s1.goOn e (w.pc + 32) .lengthen

/-- The lines of the stamp that a COND reads (R44). -/
def State.condLines (x : Nat → W64) : List (Nat × Nat) := if bits (x 0) 58 2 = 1 then [] else t0Lines (x 1) 8

/-- What a COND does once its stamp has been read, or at once with a barrier: only a subtraction from a barrier writes memory
(R44, R255). -/
def State.condRead (s : State) (e : Fin 96) (w : Walk) (x : Nat → W64) (f : State → State) : State :=
  if (State.condLines x).isEmpty then f s else s.readBanks e w (State.condLines x) f

/-- COND (R255). -/
def execCond (e : Fin 96) (s : State) : Out :=
  s.atEntry e (s.entryKind e == some 4) fun s ch w x =>
    let nxt := w.pc + 32 * (1 + bits (x 0) 0 8)
    match s.condFault e ch w x with
    | some f => s.faultyEntry e ch w f 0 nxt .lengthen
    | none =>
      let fail (s : State) : State :=
        if (x 0).getLsbD 56 then (s.modWalk e fun w => { w with waiting := true, ask := none, due := s.now + 1 }).bump
        else s.goOn e nxt .lengthen
      s.condRead e w x fun s =>
      match s.condTest e ch x with
      | .holds => s.condPass e ch w x
      | .fails => fail s
      | .walk r t p => s.holdEntry e ch w p r 0 t false 0
      | .lost =>
        fail (s.copyLoss e ch w (x 1) 0 0)

/-- COND_HOLDS: a waiting COND is tested again, by the entry as it was read; it releases its chain once its condition holds
(R52, R255). One that can be tested no more, its last route lost, is faulty (R401). -/
def execCondHolds (e : Fin 96) (s : State) : Out :=
  match s.walkOf e with
  | some (ch, w) =>
    if w.waiting && w.held.isNone && decide (w.due ≤ s.now) then
      let x := w.word
      .next (s.chainTry e ch (match s.condFault e ch w x with
        | some f => s.faultyEntry e ch w f 0 (w.pc + 32 * (1 + bits (x 0) 0 8)) .lengthen
        | none => s.condRead e w x fun s => match s.condTest e ch x with
          | .holds => s.condPass e ch w x
          | .walk r t p => s.holdEntry e ch w p r 0 t false 0
          | _ => (s.modWalk e fun w => { w with ask := none, due := s.now + 1 }).bump))
    else .next s
  | none => .next s

/-! ## SIGNAL and REMOTE stamps (R59, R60, R257, R401) -/

/-- The pointer of a stamp names REMOTE. -/
def isRemote (p : W64) : Bool := ptrSpace p == 7

/-- SIGNAL (R257). DEDUCED: log entry 34. A stamp that carries ERR or LOST clears it: each reports what has happened since the
one before it. DESIGN CHOICE: log entry 96. -/
def execSignal (e : Fin 96) (s : State) : Out :=
  let stamp : Bool := match s.walkOf e with | some (_, w) => (w.word 0).getLsbD 59 | none => false
  s.afterSignals e (s.entryKind e == some 5) stamp fun s ch w x =>
    let stamp := (x 0).getLsbD 59
    let auto := (x 0).getLsbD 58
    let p := x 1
    if bits (x 0) 0 58 ≠ 0 ∨ bits (x 2) 48 16 ≠ 0 ∨ x 3 ≠ 0 ∨ (stamp = true ∧ auto = true) then
      s.faultyEntry e ch w (State.ownFault ch w) 0 (w.pc + 32) .stop
    else if !stamp then
      match s.chainFault e ch .signalBar false (p, true) 8 with
      | some c => s.faultyEntry e ch w ⟨c, 1, p⟩ 0 (w.pc + 32) .stop
      | none =>
        let a : BarrierAdd :=
          { id := s.serial, rank := ptrRank p, bar := ptrOff p / 8,
            count := bits (x 2) 0 48 + (if auto then w.autoCount else 0), ctxid := ch.ctxid,
            due := s.now + 1 + Config.delay .bpost s.serial, after := [], from_ := none, chain := some ch.id }
        let s1 := ({ s with adds := s.adds ++ [a] } : State).bump
        (s1.modWalk e fun w => { w with autoCount := if auto then 0 else w.autoCount }).goOn e (w.pc + 32) .stop
    else
      let handed := isRemote p && decide (engLocal e < 20)
      let fault := if ptrOff p % 8 ≠ 0 then some Cause.badspace.code
        else match s.chainFault e ch .stamp false (p, true) 8 with
          -- a handed stamp meets the routing table at its link engine
          | some c => if handed && c == 0 then none else some c
          | none => none
      match fault with
      | some c => s.faultyEntry e ch w ⟨c, 1, p⟩ 0 (w.pc + 32) .stop
      | none =>
        let v := w64 ((bits (x 2) 0 48 + (loopInc w.nest).2.2) % 2 ^ 48 + (if w.lost then 2 ^ 62 else 0)
          + (if w.err then 2 ^ 63 else 0))
        let clear (s : State) : State := s.modWalk e fun w => { w with err := false, lost := false }
        if handed then
          let y : RemoteStamp :=
            { id := ch.id, ptr := p, value := v, ctxid := ch.ctxid, world := ch.world, rank := ch.rank,
              due := s.now + 1 + Config.delay .remote s.serial, chain := some e, job := ch.job, entry := w.entries,
              loops := State.loopsOf w, detail := State.detailOf ch w.pc, held := none }
          ((clear s).modEngine (State.linkEngine (engDie e) (engLocal e)) fun k => { k with remote := k.remote ++ [y] }).goOn e
            (w.pc + 32) .stop
        else match s.chainWalk e ch p 8 true with
          | some (r, t, q) => s.holdEntry e ch w q r 1 t true 0
          | none =>
            if s.lostTarget (targetOf p) then (s.copyLoss e ch w p 1 0).goOn e (w.pc + 32) .stop
            else s.withBanks e w (t0Lines p 8) fun s =>
              let s1 := (s.writeAt (engMap e) ch.ctxid p ((leBytes 8 v.toNat).map fun b => (b, true))).1
              ((clear s1).chainTouch e ch p 8 true).goOn e (w.pc + 32) .stop

namespace State

/-- A REMOTE stamp leaves its link engine. -/
def dropRemote (s : State) (e : Fin 96) (x : RemoteStamp) : State :=
  s.modEngine e fun k => { k with remote := k.remote.erase x }

/-- The access of a core's port that a handed stamp stands for has performed. DEDUCED: log entry 39. -/
def remoteDone (s : State) (x : RemoteStamp) : State := if x.chain.isNone then s.portDone x.rank x.id else s

/-- The REMOTE stamp that a link engine may write now: the oldest that is due and not held. -/
def remoteReady (s : State) (e : Fin 96) : Option RemoteStamp :=
  s.engines[e].remote.find? fun x => x.held.isNone && decide (x.due ≤ s.now)

/-- The write of a stamp handed to a link engine, or the walk that fails, here or at the package it goes to (R401). -/
def remoteWrite (s : State) (e : Fin 96) (x : RemoteStamp) : State × Reach :=
  match s.remoteWalk x.ptr (bits x.ptr 47 12) (bits x.ptr 0 47) 8 true with
  | some (r, t, p) => (s, .fault r t p)
  | none => s.writeAt (some e) x.ctxid x.ptr ((leBytes 8 x.value.toNat).map fun b => (b, true))

/-- A link engine writes a stamp handed to it, or records that there is no route; a walk that fails holds it (R401). -/
def writeRemote (s : State) (e : Fin 96) (x : RemoteStamp) : State :=
  let base : FaultRec :=
    { FaultRec.zero with src := 1, engine := e.val, akind := 1, rank := x.rank.val, entry := x.entry, addr := x.ptr,
                         loops := x.loops, detail := x.detail }
  if !s.routeLive (bits x.ptr 47 12) then
    let s1 := (s.record x.ctxid { base with reason := 6 }).dropRemote e x
    match x.chain with
    | some i => (s1.modEngine i fun k => { k with walk := match k.queue.head?, k.walk with
        | some ch, some w => some (if ch.id == x.id then { w with err := true } else w)
        | _, o => o })
    | none => s1.remoteDone x
  else match s.remoteWrite e x with
    | (s1, .fault r t p) =>
      let h : HeldAccess :=
        { ptr := p, write := true, reason := r, gen := s.genOf x.ctxid, order := s.serial, freezes := true }
      let s2 := s1.modEngine e fun k =>
        { k with remote := k.remote.map fun y => if y == x then { y with held := some h } else y }
      (match x.chain with
        | some _ => s2.record x.ctxid { base with
            cause := Cause.xlate.code, reason := r, held := true, akind := if t then 3 else 1, addr := p }
        | none => match (s2.core x.rank).mem.port.find? (fun (a : Access) => a.id == x.id) with
          | some a => s2.holdAccess x.rank a r t p
          | none => s2).bump
    | (s1, _) => (s1.dropRemote e x).remoteDone x

/-- The stamp is written; where its record would find no room, the link engine keeps it (R350). -/
def remoteTry (s : State) (e : Fin 96) (x : RemoteStamp) : State :=
  let t := s.writeRemote e x
  if s.overflows t x.ctxid then
    s.modEngine e fun k => { k with remote := k.remote.map fun y => if y == x then { y with due := s.now + 1 } else y }
  else t

end State

/-- REMOTE_STAMP: a link engine writes a stamp handed to it (R401). -/
def execRemoteStamp (e : Fin 96) (s : State) : Out :=
  match s.remoteReady e with
  | none => .next s
  | some x => .next (s.remoteTry e x)

/-! ## COPY and CSTAT at the engine (R242, R243) -/

/-- The status 2, 3 or 4 of R242, or 0. -/
def State.refuse (s : State) (r : Fin 288) (eng : W64) : Nat :=
  if h : eng.toNat < 96 then
    let e : Fin 96 := ⟨eng.toNat, h⟩
    if engDie e ≠ r.val / 72 then 3 else if s.engines[e].world != (s.core r).secure then 4 else 0
  else 2

/-- A fence of package or system scope that releases writes (R309). -/
def AccKind.releases : AccKind → Bool
  | .fence .package .release | .fence .package .sc | .fence .system .release | .fence .system .sc => true
  | _ => false

/-- The writes that a COPY issued at a cycle releases beside the terrace 0 stores performed by then (R242, R309): those of
its task before an earlier fence of package or system scope, which still stand in the core's memory port. -/
def Core.copyAfter (c : Core) (issue : Nat) : List Nat :=
  let early := c.mem.port.filter fun a => c.owns a && decide (a.issue < issue)
  ((early.reverse.dropWhile fun a => !a.kind.releases).filter fun a => a.kind.writes).map (·.id)

/-- The terrace 0 stores that a chain sees whose COPY issued at a cycle: those of its core that perform by issue + 4
(R242). -/
def Core.storesBy (c : Core) (issue : Nat) : List Nat :=
  (c.mem.port.filter fun a => !a.framed && ((c.owns a && decide (a.issue < issue)) || !a.under.isEmpty)
    && (match a.kind with | .store _ => true | _ => false)).map (·.id)

/-- COPY's engine is tested: the status, and the chain queued, with the latch that opens it at issue + 4 (R52, R242). -/
def State.copyTest (s : State) (r : Fin 288) (issue : Nat) (eng : W64) (off : Nat) : State × W64 × Option LatchKind :=
  let st := s.refuse r eng
  if h : st = 0 ∧ eng.toNat < 96 then
    let e : Fin 96 := ⟨eng.toNat, h.2⟩
    if 64 ≤ s.engines[e].queue.length then (s, 1, none)
    else
      let c := s.core r
      let ch : Chain :=
        { id := s.serial, rank := r, start := off, ctxid := c.ctxid, world := c.secure,
          job := (c.tasks.run.bind fun t => t.chunk).map fun c => c.job, open_ := false, due := 0,
          after := c.copyAfter issue, sees := c.storesBy issue }
      ((s.modEngine e fun x => { x with queue := x.queue ++ [ch] }).bump, 0, some (.chainGo e s.serial))
  else (s, w64 st, none)

/-- The chains of an engine that satisfy p may start from the next package cycle. -/
def State.openChains (s : State) (e : Fin 96) (p : Chain → Bool) : State :=
  let go (ch : Chain) : Chain := if p ch && !ch.open_ then { ch with open_ := true, due := s.now + 1 } else ch
  s.modEngine e fun x => { x with queue := x.queue.map go }

/-- The chains of a core whose latches are dropped may start all the same: they are accepted (R52). -/
def State.openAll (s : State) (r : Fin 288) : State :=
  (List.finRange 96).foldl (fun s e => s.openChains e fun ch => ch.rank == r) s

/-- The word of CSTAT (R243). -/
def State.cstatWord (s : State) (r : Fin 288) (eng : W64) (off : Nat) : W64 :=
  let st := s.refuse r eng
  if h : st = 0 ∧ eng.toNat < 96 then
    let x := s.engines[(⟨eng.toNat, h.2⟩ : Fin 96)]
    let queued := x.queue.any fun c => c.rank == r && c.start == off
    w64 (x.done.toNat * 2 ^ 8 + (if queued then 2 ^ 7 else 0) + x.queue.length)
  else w64 (st * 2 ^ 61)

end Sys2Proof.Machine
end

