-- ==== Sys2Proof/Machine/Image.lean ====
section
/-! DEFINITION. The package save area (R369-R371): the images of the ring's slots and of the engines' chains, as words of
LPDDR memory that a driver may copy out and back, and what they are read back to. DESIGN CHOICE: log entry 47. -/

namespace Sys2Proof.Machine

/-! ## Words of an image, written and read in one order -/

/-- A flag, an optional value and a list as words: a flag or count before what it announces. -/
def flagWord (b : Bool) : Nat := if b then 1 else 0
def optWords {α : Type} (f : α → List Nat) : Option α → List Nat
  | none => [0]
  | some a => 1 :: f a
def listWords {α : Type} (f : α → List Nat) (xs : List α) : List Nat := xs.length :: xs.flatMap f

/-- A reader takes its words from the front of those left; past their end every word reads 0. -/
abbrev Reader (α : Type) := StateM (List Nat) α

def readWord : Reader Nat := fun ws => match ws with
  | [] => (0, [])
  | w :: rest => (w, rest)

def readFlag : Reader Bool := do return (← readWord) != 0

def readOpt {α : Type} (f : Reader α) : Reader (Option α) := do
  if ← readFlag then return some (← f) else return none

def readTimes {α : Type} (f : Reader α) : Nat → Reader (List α)
  | 0 => return []
  | n + 1 => do
    let a ← f
    return a :: (← readTimes f n)

/-- A list, of no more entries than there are words left. -/
def readList {α : Type} (f : Reader α) : Reader (List α) := do
  let n ← readWord
  let left ← get
  readTimes f (min n left.length)

/-! ## What an engine holds -/

/-- A number as an engine. -/
def engineNo (n : Nat) : Fin 96 := ⟨n % 96, Nat.mod_lt _ (by decide)⟩
/-- A number as a rank. -/
def rankNo (n : Nat) : Fin 288 := ⟨n % 288, Nat.mod_lt _ (by decide)⟩

def HeldAccess.words (h : HeldAccess) : List Nat :=
  [h.ptr.toNat, flagWord h.write, h.reason, h.gen.toNat, h.order, flagWord h.freezes]

def readHeld : Reader HeldAccess := do
  return { ptr := w64 (← readWord), write := ← readFlag, reason := ← readWord, gen := BitVec.ofNat 32 (← readWord)
           order := ← readWord, freezes := ← readFlag }

def Chain.words (c : Chain) : List Nat :=
  [c.id, c.rank.val, c.start, c.ctxid.toNat, flagWord c.world] ++ optWords (fun n => [n]) c.job ++ [flagWord c.open_, c.due]
    ++ listWords (fun n => [n]) c.after ++ listWords (fun n => [n]) c.sees

def readChain : Reader Chain := do
  return { id := ← readWord, rank := rankNo (← readWord), start := ← readWord, ctxid := BitVec.ofNat 16 (← readWord)
           world := ← readFlag, job := ← readOpt readWord, open_ := ← readFlag, due := ← readWord
           after := ← readList readWord, sees := ← readList readWord }

def LoopFrame.words (f : LoopFrame) : List Nat :=
  [f.start, f.stop, f.iter, f.count, f.sinc.toNat, f.dinc.toNat, f.sigInc]

def readLoop : Reader LoopFrame := do
  return { start := ← readWord, stop := ← readWord, iter := ← readWord, count := ← readWord, sinc := w64 (← readWord)
           dinc := w64 (← readWord), sigInc := ← readWord }

def CopyPart.words (d : CopyPart) : List Nat :=
  [d.dst.toNat] ++ listWords (fun b => [b.toNat]) d.bytes ++ optWords (fun p => [p.toNat]) d.src

def readPart : Reader CopyPart := do
  return { dst := w64 (← readWord), bytes := ← readList (return BitVec.ofNat 8 (← readWord))
           src := ← readOpt (return w64 (← readWord)) }

/-- A guard map: its region and its 256 bits in four words. -/
def guardWords (g : Nat × BitVec 256) : List Nat := g.1 :: (List.range 4).map fun i => (g.2.extractLsb' (64 * i) 64).toNat

def readGuard : Reader (Nat × BitVec 256) := do
  let k ← readWord
  let ws ← readTimes readWord 4
  return (k, BitVec.ofNat 256 (ws.foldr (fun w n => w + 2 ^ 64 * n) 0))

def CopyRun.words (m : CopyRun) : List Nat :=
  listWords CopyPart.words m.todo ++ [m.left, flagWord m.recorded] ++ optWords (fun p => [p.toNat]) m.owed
    ++ listWords guardWords m.guards

def readCopy : Reader CopyRun := do
  return { todo := ← readList readPart, left := ← readWord, recorded := ← readFlag
           owed := ← readOpt (return w64 (← readWord)), guards := ← readList readGuard }

/-- The chain position, the entry that has been read, loop coordinates and AUTO count of a chain under way (R52, R370). What it
waits to read or write it asks for again. -/
def Walk.words (w : Walk) : List Nat :=
  [w.pc] ++ optWords (fun x => x.toList.map (·.toNat)) w.entry ++ [w.last] ++ listWords LoopFrame.words w.nest ++ [flagWord w.err, flagWord w.lost, w.autoCount]
    ++ optWords (fun x => [x.1, x.2]) w.expand ++ [w.entries, w.streak, flagWord w.waiting]
    ++ optWords HeldAccess.words w.held ++ optWords CopyRun.words w.copy ++ [w.due]

/-- Two words. -/
def readPair : Reader (Nat × Nat) := do return (← readWord, ← readWord)

def readEntryWords : Reader (Vector W64 4) := do
  return #v[w64 (← readWord), w64 (← readWord), w64 (← readWord), w64 (← readWord)]

def readWalk : Reader Walk := do
  return { pc := ← readWord, entry := ← readOpt readEntryWords, last := ← readWord, nest := ← readList readLoop, err := ← readFlag, lost := ← readFlag
           autoCount := ← readWord, expand := ← readOpt readPair, entries := ← readWord, streak := ← readWord
           waiting := ← readFlag, held := ← readOpt readHeld, copy := ← readOpt readCopy, ask := none
           due := ← readWord }

def RemoteStamp.words (x : RemoteStamp) : List Nat :=
  [x.id, x.ptr.toNat, x.value.toNat, x.ctxid.toNat, flagWord x.world, x.rank.val, x.due]
    ++ optWords (fun e => [e.val]) x.chain ++ optWords (fun n => [n]) x.job ++ [x.entry] ++ x.loops.toList
    ++ [x.detail.toNat] ++ optWords HeldAccess.words x.held

def readStamp : Reader RemoteStamp := do
  return { id := ← readWord, ptr := w64 (← readWord), value := w64 (← readWord), ctxid := BitVec.ofNat 16 (← readWord)
           world := ← readFlag, rank := rankNo (← readWord), due := ← readWord
           chain := ← readOpt (return engineNo (← readWord)), job := ← readOpt readWord, entry := ← readWord
           loops := #v[← readWord, ← readWord, ← readWord, ← readWord], detail := w64 (← readWord)
           held := ← readOpt readHeld }

/-- What pre-emption saves of an engine: its queue, the chain it runs, and the stamps handed to it. -/
def Engine.words (x : Engine) : List Nat :=
  listWords Chain.words x.queue ++ optWords Walk.words x.walk ++ listWords RemoteStamp.words x.remote

/-- An engine with what an image gives it. -/
def readEngine (x : Engine) : Reader Engine := do
  return { x with queue := ← readList readChain, walk := ← readOpt readWalk, remote := ← readList readStamp }

/-- The engines in order. -/
def readEngines : List Engine → Reader (List Engine)
  | [] => return []
  | x :: rest => do
    let y ← readEngine x
    return y :: (← readEngines rest)

/-! ## What a ring slot holds (R68) -/

/-- The header word of a slot, with the mark of a sweep at the next col crossing in bit 52 of the image (R82). -/
def RingSlot.head (x : RingSlot) : Nat :=
  x.key.toNat + x.ctxid.toNat * 2 ^ 32 + flagWord x.world * 2 ^ 48
    + (match x.st with | .free => 0 | .boarded => 1 | .broken => 2) * 2 ^ 49 + flagWord x.par * 2 ^ 51
    + flagWord x.freeAtCol * 2 ^ 52

/-- A slot's image: its header and its payload. -/
def RingSlot.words (x : RingSlot) : List Nat := x.head :: x.payload.toList.map (·.toNat)

/-- The slot of an image. -/
def RingSlot.ofWords (f : Nat → Nat) : RingSlot :=
  let h := w64 (f 0)
  { par := h.getLsbD 51, st := match bits h 49 2 with | 0 => .free | 1 => .boarded | _ => .broken
    world := h.getLsbD 48, ctxid := h.extractLsb' 32 16, key := h.extractLsb' 0 32
    payload := Vector.ofFn fun i => w64 (f (1 + i.val)), freeAtCol := h.getLsbD 52 }

/-! ## The images in the save area -/

/-- Where the image of the ring stands in the save area, behind those of the layers: its phase, then the slots of every track
in order. -/
def ringImageAt (area : Nat) : Nat := area + 0x300000000
/-- Where the image of the engines stands: how many words it has, then those. -/
def engineImageAt (area : Nat) : Nat := area + 0x300100000

/-- Bytes of words in a row. -/
def wordsBytes (ws : List Nat) : List Byte := ws.flatMap natBytes

/-- The image of the ring. -/
def Saved.ringImage (v : Saved) : List Byte := wordsBytes (v.phase :: v.ring.toList.flatMap RingSlot.words)

/-- The image of the engines. -/
def Saved.engineImage (v : Saved) : List Byte :=
  let ws := v.engines.toList.flatMap Engine.words
  wordsBytes (ws.length :: ws)

namespace State

/-- Word i of LPDDR memory from an address on. -/
def lpWord (s : State) (at_ i : Nat) : Nat := (s.rawWord .lpddr (at_ + 8 * i)).toNat

/-- The image of the ring is written. -/
def putRingImage (s : State) (v : Saved) : State :=
  if v.area = 0 then s else { s with mem := memPut s.mem (Place.lpddr.key (ringImageAt v.area)) v.ringImage }

/-- The image of the engines is written. -/
def putEngineImage (s : State) (v : Saved) : State :=
  if v.area = 0 then s else { s with mem := memPut s.mem (Place.lpddr.key (engineImageAt v.area)) v.engineImage }

/-- The bytes of an image still stand at an address. -/
def imageStands (s : State) (at_ : Nat) (bs : List Byte) : Bool := memReadN s.mem (Place.lpddr.key at_) bs.length == bs

/-- The ring as the save area holds it: what was saved last, or what a driver has copied back there (R371). -/
def savedRing (s : State) (v : Saved) : Saved :=
  if v.area = 0 || s.imageStands (ringImageAt v.area) v.ringImage then v
  else
    let f (i : Nat) : Nat := s.lpWord (ringImageAt v.area) i
    { v with phase := f 0, ring := Vector.ofFn fun j => RingSlot.ofWords fun i => f (1 + 9 * j.val + i) }

/-- The engines as the save area holds them. -/
def savedEngines (s : State) (v : Saved) : Saved :=
  if v.area = 0 || s.imageStands (engineImageAt v.area) v.engineImage then v
  else
    let at_ := engineImageAt v.area
    let ws := (List.range (min (s.lpWord at_ 0) (2 ^ 20))).map fun i => s.lpWord at_ (i + 1)
    let es := (readEngines v.engines.toList ws).1
    { v with engines := Vector.ofFn fun e => (es[e.val]?).getD v.engines[e] }

/-- A change of the ring that a pre-emption has saved and no RESIDE has restored yet. -/
def modSavedRing (s : State) (f : Saved → Saved) : State :=
  match s.saved with
  | some v => if !v.fresh then s
      else
        let w := f (s.savedRing v)
        ({ s with saved := some w } : State).putRingImage w
  | none => s

/-- A change of the engines that a pre-emption has saved and no RESIDE has restored yet. -/
def modSavedEngines (s : State) (f : Saved → Saved) : State :=
  match s.saved with
  | some v => if !v.fresh then s
      else
        let w := f (s.savedEngines v)
        ({ s with saved := some w } : State).putEngineImage w
  | none => s

end State

end Sys2Proof.Machine
end

