-- ==== Sys2Proof/Machine/HostIf.lean ====
section
/-! DEFINITION. The PCIe function, the mailbox, worlds, guard maps, keys and attestation (R325-R329, R334, R340-R345), and
the writing of fault records (R350, R351). -/

namespace Sys2Proof.Machine

namespace State

/-- n bytes of host memory, and the 64-bit word at a host physical address. -/
def hostBytes (s : State) (pa n : Nat) : List Byte := memReadN s.mem (Place.host.key pa) n
def hostWord (s : State) (pa : Nat) : W64 := s.rawWord .host pa

/-! ## BELLERR (R340) -/

/-- BELLERR bits are set; vector 67 is raised when it becomes nonzero. -/
def bell (s : State) (v : W64) : State :=
  let old := s.mailbox.bellerr
  let s1 := { s with mailbox := { s.mailbox with bellerr := old ||| v } }
  if old = 0 ∧ v ≠ 0 then s1.raise 67 else s1

/-- A doorbell write is discarded: its bit, and LASTOFF. -/
def badBell (s : State) (bit : Nat) (off : Nat) : State :=
  let old := s.mailbox.bellerr
  let v := w64 (bits old 0 32 + off / 8 % 2 ^ 32 * 2 ^ 32) ||| w64 (2 ^ bit)
  let s1 := { s with mailbox := { s.mailbox with bellerr := v } }
  if old = 0 then s1.raise 67 else s1

end State

/-! ## Register reads (R326) -/

/-- DEVSTAT, CMDSTAT and the RESIDn registers, as BAR0 reads return them; BELLERR clears by BELLERR_READ. -/
def State.bar0Read (s : State) (off : Nat) : W64 :=
  match off with
  | 0x0000 => w64 (0x9140 * 2 ^ 48 + Config.stepping.toNat * 2 ^ 40)
  | 0x0008 => w64 ((if s.base.ready then 1 else 0) + (if s.base.secureMonitor then 2 else 0))
  | 0x0010 => s.mailbox.cmd
  | 0x0018 => s.mailbox.args[0]
  | 0x0020 => s.mailbox.args[1]
  | 0x0028 => s.mailbox.args[2]
  | 0x0030 => s.mailbox.args[3]
  | 0x0038 => w64 (s.mailbox.tag.toNat * 2 ^ 48 + (if s.mailbox.busy then 256 else 0) + s.mailbox.result.toNat)
  | 0x0040 => s.tick
  | 0x0048 => s.cairn.version.setWidth 64
  | 0x0050 => s.mailbox.bellerr
  | _ =>
    if off % 8 = 0 ∧ 0x100 ≤ off ∧ off < 0x300 then
      match s.contexts.find? fun c => c.resident == some (BitVec.ofNat 6 ((off - 0x100) / 8)) with
      | some c => w64 (2 ^ 63 + c.id.toNat)
      | none => 0
    else 0

/-- A doorbell read (R334); a misaligned one reads zero (R325), and before READY only BAR0 answers (R343). -/
def State.doorbellRead (s : State) (off : Nat) : W64 :=
  if off % 8 ≠ 0 ∨ s.base.ready = false then 0
  else match s.ctx? (BitVec.ofNat 16 (off / 32)) with
  | some x =>
    let q := x.queues[(⟨off / 8 % 4, Nat.mod_lt _ (by decide)⟩ : Fin 4)]
    w64 (q.head.toNat * 2 ^ 16 + q.tail.toNat)
  | none => 0

/-! ## The mailbox (R327-R329) -/

/-- CMD without its reserved field, which reads zero (R2, R327). -/
def cmdShown (value : W64) : W64 := w64 (bits value 48 16 * 2 ^ 48 + bits value 0 8)

/-- CMD: a write sets BUSY and the command reads its arguments, or it is discarded with BELLERR.CMD; before READY the
host interface answers only reads (R327, R343). -/
def execCmd (value : W64) (s : State) : Out :=
  if !s.base.ready then .next s
  else if s.mailbox.busy then .next (s.bell 8)
  else
    .next ({ s with mailbox := { s.mailbox with
      cmd := cmdShown value, busy := true, cur := value, curArgs := s.mailbox.args, pendingResult := none
      due := s.now + Config.delay .mailbox s.serial } } : State).bump

/-- REGISTER_WRITE: ARG0 to ARG3 store the value; every other write is discarded (R326), one at a misaligned offset with
BELLERR.SIZE (R325, R340). -/
def execRegisterWrite (offset : Nat) (value : W64) (s : State) : Out :=
  if !s.base.ready then .next s
  else if offset % 8 ≠ 0 then .next (s.bell 16)
  else
    let put (i : Fin 4) : Out := .next { s with mailbox := { s.mailbox with args := s.mailbox.args.set i value } }
    match offset with
    | 0x18 => put 0
    | 0x20 => put 1
    | 0x28 => put 2
    | 0x30 => put 3
    | _ => .next s

/-- BELLERR_READ clears every bit (R340). -/
def execBellerrRead (s : State) : Out := .next { s with mailbox := { s.mailbox with bellerr := 0 } }

/-- A BAR access that is not an aligned 8-byte access sets BELLERR.SIZE; a write is discarded, and a read returns zero
(`State.barRead`) (R325); a write in BAR2 is a discarded doorbell write, which LASTOFF names (R340). Before READY the interface
does not answer it (R343). -/
def execMisalignedBarAccess (a : BarAccess) (s : State) : Out :=
  if !s.base.ready then .next s
  else if a.write && a.bar == 2 then .next (s.badBell 4 a.offset)
  else .next (s.bell 16)

/-- DOORBELL (R334); one at a misaligned offset is discarded with BELLERR.SIZE and LASTOFF (R325, R340). -/
def execDoorbell (offset : Nat) (value : W64) (s : State) : Out :=
  if !s.base.ready then .next s
  else if offset % 8 ≠ 0 then .next (s.badBell 4 offset)
  else
    let id := BitVec.ofNat 16 (offset / 32)
    let q : Fin 4 := ⟨offset / 8 % 4, Nat.mod_lt _ (by decide)⟩
    match s.ctx? id with
    | none => .next (s.badBell 0 offset)
    | some x =>
      let tail := value.extractLsb' 0 16
      if x.qlog q = 0 then .next (s.badBell 1 offset)
      else if 2 ^ x.qlog q < (tail - x.queues[q].head).toNat then .next (s.badBell 2 offset)
      else .next (s.modCtx id fun c => { c with queues := c.queues.set q { c.queues[q] with tail := tail } })

namespace State

/-- CODE of the command that executes and has still to act, and its arguments. -/
def curCode (s : State) : Option Nat :=
  let m := s.mailbox
  if m.busy && m.pendingResult.isNone && decide (m.due ≤ s.now) then
    some (if bits m.cur 8 40 = 0 then bits m.cur 0 8 else 0)
  else none

def arg (s : State) (i : Fin 4) : W64 := s.mailbox.curArgs[i]

/-- The command has acted; it completes with a result. -/
def result (s : State) (r : Nat) : State :=
  { s with mailbox := { s.mailbox with pendingResult := some (BitVec.ofNat 8 r) } }

/-- A command's effect, if it is the one that executes. DESIGN CHOICE: log entry 6. -/
def onCommand (s : State) (code : Nat) (f : State → State) : Out :=
  if s.curCode = some code then .next (f s) else .next s

/-- A value fits in n bits. -/
def fits (w : W64) (n : Nat) : Bool := decide (w.toNat < 2 ^ n)

/-- The id that ARG0[15:0] names. -/
def argId (s : State) : BitVec 16 := (s.arg 0).extractLsb' 0 16

/-- A command that touches a secure context or region is authorised (R328, R343, R344).
DESIGN CHOICE: log entry 18. -/
def authorised (s : State) (secure : Bool) : Bool := !secure || (s.base.ownerKey.isSome && Config.authorised s.serial)

/-- Bytes of a field of n bytes. -/
def fixed (n : Nat) (bs : List Byte) : List Byte := (bs ++ List.replicate n 0).take n

/-- The 32 bytes of a SHA-256 hash (R343). -/
def digest (bs : List Byte) : List Byte := fixed 32 (Config.sha256 bs)

/-- An authorisation block at a host address, for the command and the data it refers to (R343). -/
def authBlock (s : State) (pa : Nat) (data : List Byte) : Bool :=
  match s.base.ownerKey with
  | none => false
  | some key =>
    let h := digest (leBytes 8 s.mailbox.cur.toNat ++ (s.mailbox.curArgs.toList.flatMap fun a => leBytes 8 a.toNat) ++ data)
    pa != 0 && s.hostBytes pa 32 == h && Config.lmsVerify key h (s.hostBytes (pa + 32) 2508)

end State

/-- COMMAND_COMPLETE: RESULT, TAG and BUSY = 0 in one update, and vector 66 (R327). -/
def execCommandComplete (s : State) : Out :=
  match s.mailbox.busy, s.mailbox.pendingResult with
  | true, some r =>
    .next (({ s with mailbox := { s.mailbox with
      busy := false, result := r, tag := s.mailbox.cur.extractLsb' 48 16, pendingResult := none } } : State).raise 66)
  | _, _ => .next s

/-- The codes of R328. -/
def knownCode (n : Nat) : Bool := decide (1 ≤ n ∧ n ≤ 14)

/-- UNKNOWN_COMMAND: a code that is not listed, or a reserved bit of CMD, gives RESULT 1 (R328). -/
def execUnknownCommand (s : State) : Out :=
  match s.curCode with
  | some n => if knownCode n then .next s else .next (s.result 1)
  | none => .next s

/-! ## Guard maps, ring slots, DEBUG (R328, R342) -/

/-- The 64 KiB terrace region that a pointer names: its place and first offset. -/
def State.regionOf (s : State) (p : W64) : Option (Place × Nat) :=
  if ptrOff p % 65536 ≠ 0 ∨ 288 ≤ ptrRank p then none
  else match ptrSpace p with
    | 2 => if ptrOff p < 0x180000 then some (.t0 (ptrRank p), ptrOff p) else none
    | 3 | 4 | 5 | 6 =>
      if ptrOff p < ((s.cairn.layers[layerOf p]?).map fun l => l.size).getD 0 then
        some (.layer (layerOf p), ptrOff p) else none
    | _ => none

/-- GUARD replaces the guard map of one terrace region (R342). -/
def execGuard (s : State) : Out :=
  s.onCommand 6 fun s =>
    match s.regionOf (s.arg 0) with
    | none => s.result 1
    | some (pl, off) =>
      if s.prot.secureAt pl off && !s.authorised true then (s.result 6).bump
      else match pl.region off with
        | none => s.result 1
        | some k =>
          let map : BitVec 256 := BitVec.ofNat 256 (leValue (s.hostBytes (s.arg 1).toNat 32))
          let rest := s.prot.guards.filter fun g => g.1 != k
          { s with prot := { s.prot with guards := if map = 0 then rest else (k, map) :: rest } }.result 0

/-- A change of the ring's slots, and of those that a pre-emption has saved (R370). -/
def State.eachRing (s : State) (f : Ring → Ring) : State :=
  ({ s with ring := f s.ring } : State).modSavedRing fun v => { v with ring := (f { s.ring with slots := v.ring }).slots }

/-- FREESLOT: a BROKEN slot becomes FREE at its next col crossing (R328). -/
def execFreeslot (s : State) : Out :=
  s.onCommand 7 fun s =>
    if State.fits (s.arg 0) 3 && State.fits (s.arg 1) 10 then
      let t : Fin 8 := ⟨(s.arg 0).toNat % 8, Nat.mod_lt _ (by decide)⟩
      let j : Fin 1024 := ⟨(s.arg 1).toNat % 1024, Nat.mod_lt _ (by decide)⟩
      if (s.ring.slot t j).st = .broken then
        (s.eachRing fun g => g.modSlot t j fun x => { x with freeAtCol := x.freeAtCol || x.st == .broken }).result 0
      else s.result 1
    else s.result 1

/-- DBGREQ raises DEBUG on a core whose context has debug privilege (R328). -/
def execDbgreq (s : State) : Out :=
  s.onCommand 13 fun s =>
    if !State.fits (s.arg 0) 9 then s.result 1
    else if h : (s.arg 0).toNat < 288 then
      let r : Fin 288 := ⟨(s.arg 0).toNat, h⟩
      match s.ctx? (s.core r).ctxid with
      | some x =>
        if !s.authorised x.secure then (s.result 7).bump
        else if x.debugBit then
          (s.modCore r fun c => { c with pending := { c.pending with debug := true } }).result 0
        else s.result 6
      | none => s.result 6
    else s.result 1

/-! ## Worlds (R341) -/

/-- One entry of a world table. -/
structure WorldEntry where
  res : Nat
  secure : Bool
  count : Nat
  first : W64
  resv : Bool
deriving DecidableEq, Repr

/-- The entry in 16 bytes. DEDUCED: log entry 43. -/
def WorldEntry.ofBytes (bs : List Byte) : WorldEntry :=
  let w := wordAt bs 0
  { res := bits w 60 4, secure := w.getLsbD 59, count := bits w 0 32, first := wordAt bs 8, resv := bits w 32 27 != 0 }

namespace State

/-- The entry names resources that exist: its regions of a terrace are those of one rank or one layer. DESIGN CHOICE: log
entry 104. -/
def worldEntryOk (s : State) (e : WorldEntry) : Bool :=
  let upTo (n : Nat) : Bool := decide (e.first.toNat + e.count ≤ n)
  !e.resv && e.count != 0 && match e.res with
    | 0 => upTo 288
    | 1 => upTo 96
    | 2 => ptrSpace e.first == 2 && (s.regionOf e.first).isSome && decide (ptrOff e.first / 65536 + e.count ≤ 24)
    | 3 => decide (3 ≤ ptrSpace e.first ∧ ptrSpace e.first ≤ 6) && (s.regionOf e.first).isSome
        && decide (ptrOff e.first + 65536 * e.count ≤ ((s.cairn.layers[layerOf e.first]?).map fun l => l.size).getD 0)
    | 4 => upTo 768
    | 5 => upTo 8
    | 6 => upTo 16
    | _ => false

/-- The tables that a context's page tables reach from PTROOT: address and size. -/
def tablesFrom (s : State) : List WalkLevel → Nat → List (Nat × Nat)
  | [], _ => []
  | l :: rest, table =>
    (table, 8 * 2 ^ l.width) :: (List.range (2 ^ l.width)).flatMap fun i =>
      let e := s.rawWord .lpddr (table + 8 * i)
      if pteV e && !pteLeaf e && !rest.isEmpty then s.tablesFrom rest (pteAddr e) else []

/-- A GiB of LPDDR memory holds a page table or part of the frame area of a resident context. -/
def lpddrInUse (s : State) (g : Nat) : Bool :=
  s.contexts.any fun x => x.resident.isSome &&
    ((x.frames, 0x4200000 * x.cores.length) :: s.tablesFrom walkLevels x.ptroot).any fun a =>
      decide (a.1 < (g + 1) * 2 ^ 30 ∧ g * 2 ^ 30 < a.1 + a.2)

/-- A resource of the entry is not idle (RESULT 8). -/
def worldBusy (s : State) (e : WorldEntry) : Bool :=
  let f := e.first.toNat
  (List.range e.count).any fun i => match e.res with
    | 0 => match s.core? (f + i) with | some c => c.ctx.isSome | none => false
    | 1 => match s.engines[f + i]? with | some x => !x.queue.isEmpty | none => false
    | 4 => s.lpddrInUse (f + i)
    | 5 => (List.range 1024).any fun j => match s.ring.slots[1024 * (f + i) + j]? with
        | some x => x.st == .boarded
        | none => false
    | _ => false

/-- Keys added to or removed from a list of secure regions. -/
def setKeys (l : List Nat) (ks : List Nat) (secure : Bool) : List Nat :=
  let rest := l.filter fun k => !ks.contains k
  if secure then ks ++ rest else rest

/-- The entry is applied. -/
def worldApply (s : State) (e : WorldEntry) : State :=
  let f := e.first.toNat
  let ix (base : Nat) : List Nat := (List.range e.count).map (base + ·)
  let p := s.prot
  match e.res with
  | 0 => { s with cores := s.cores.mapIdx fun r c => if f ≤ r ∧ r < f + e.count then { c with world := e.secure } else c }
  | 1 => { s with engines := s.engines.mapIdx fun i x =>
      if f ≤ i ∧ i < f + e.count then { x with world := e.secure } else x }
  | 2 => { s with prot := { p with
      t0Secure := setKeys p.t0Secure (ix (24 * ptrRank e.first + ptrOff e.first / 65536)) e.secure } }
  | 3 => { s with prot := { p with
      layerSecure := setKeys p.layerSecure (ix (16384 * layerOf e.first + ptrOff e.first / 65536)) e.secure } }
  | 4 => { s with prot := { p with lpddrSecure := setKeys p.lpddrSecure (ix f) e.secure } }
  | 5 => { s with ring := { s.ring with secure := s.ring.secure.mapIdx fun i b =>
      if f ≤ i ∧ i < f + e.count then e.secure else b } }
  | 6 => { s with prot := { p with portSecure := p.portSecure.mapIdx fun i b =>
      if f ≤ i ∧ i < f + e.count then e.secure else b } }
  | _ => s

end State

/-- WORLDSET applies a signed world table in one step, with a valid authorisation block (R328, R341).
DEDUCED: log entry 43. -/
def execWorldset (s : State) : Out :=
  s.onCommand 10 fun s =>
    let pa := (s.arg 0).toNat
    let n := (s.hostWord pa).toNat
    let size := 8 + 16 * n
    let table := s.hostBytes pa size
    let es := (List.range n).map fun i => WorldEntry.ofBytes ((table.drop (8 + 16 * i)).take 16)
    if !es.all s.worldEntryOk then s.result 1
    else if !s.authorised true || !(match s.base.ownerKey with
        | some key => Config.lmsVerify key table (s.hostBytes (pa + size) 2508)
        | none => false) then (s.result 7).bump
    else if es.any s.worldBusy then s.result 8
    else
      let s1 := es.foldl (fun s e => s.worldApply e) s
      { s1 with base := { s1.base with worldTableHash := State.digest table } }.result 0

/-! ## Keys and attestation (R343-R345) -/

/-- OWNERKEY (R344). -/
def execOwnerkey (s : State) : Out :=
  s.onCommand 14 fun s =>
    let b := s.hostBytes (s.arg 0).toNat 2612
    let replaces := (b.drop 16).take 32
    let key := (b.drop 48).take 56
    if wordAt b 0 ≠ 1 then s.result 1
    else if !(Config.lmsVerify Config.rootKey (b.take 104) (b.drop 104) && decide (Config.rollback ≤ (wordAt b 8).toNat)
        && (match s.base.ownerKey with
          | none => replaces == List.replicate 32 0
          | some k => replaces == State.digest k)) then s.result 7
    else if s.base.ownerKey.isSome && s.contexts.any (fun c => c.resident.isSome) then s.result 8
    else { s with base := { s.base with ownerKey := some key } }.result 0

/-- The body of an attestation report (R345). -/
def State.reportBody (s : State) (nonce : List Byte) : List Byte :=
  fixed 256 (leBytes 8 1 ++ fixed 32 nonce ++ fixed 32 Config.firmwareHash ++ fixed 32 Config.monitorHash
    ++ fixed 32 s.base.worldTableHash
    ++ leBytes 4 s.cairn.version.toNat ++ leBytes 8 s.tick.toNat ++ leBytes 4 s.base.nextLeaf)

/-- ATTEST writes a report whose signature spends one leaf, or the device certificate (R345). -/
def execAttest (s : State) : Out :=
  s.onCommand 11 fun s =>
    let at_ := (s.arg 1).toNat
    if !State.fits (s.arg 2) 1 then s.result 1
    else if s.arg 2 = 1 then (s.putBytes .host at_ (State.fixed 56 Config.deviceKey ++ Config.deviceCert)).result 0
    else if 2 ^ 20 ≤ s.base.nextLeaf then s.result 9
    else
      let body := s.reportBody (s.hostBytes (s.arg 0).toNat 32)
      let sig := State.fixed 2828 (Config.lmsSign s.base.nextLeaf body)
      let s1 := { s with base := { s.base with nextLeaf := s.base.nextLeaf + 1 } }
      (s1.putBytes .host at_ (body ++ sig)).result 0

/-! ## Fault records (R350, R351) -/

/-- The 64 bytes of a record, written at a tick for a context. -/
def FaultRec.bytes (r : FaultRec) (id : BitVec 16) (tick : W64) : List Byte :=
  let bit (p : Bool) (n : Nat) : Nat := if p then 2 ^ n else 0
  let w0 := r.cause.toNat * 2 ^ 56 + r.src * 2 ^ 52 + r.reason * 2 ^ 48 + r.engine * 2 ^ 40 + bit r.held 39 + bit r.lost 38
    + r.akind * 2 ^ 35 + r.rank * 2 ^ 23 + r.slot * 2 ^ 18
  let l (i : Fin 4) : Nat := r.loops[i] % 2 ^ 32
  [w0, r.gen.toNat * 2 ^ 32 + r.entry % 2 ^ 32, r.addr.toNat, l 1 * 2 ^ 32 + l 0, l 3 * 2 ^ 32 + l 2, r.remain,
    r.detail.toNat, id.toNat * 2 ^ 48 + tick.toNat % 2 ^ 48].flatMap natBytes

namespace State

/-- Writes of the base controller to one span of n bytes at a GLOBAL address of a context, in order, each with its enables;
the span is translated once. -/
def putInTurn (s : State) (id : BitVec 16) (va n : Nat) (ws : List (List (Byte × Bool))) : Option State :=
  match s.ctx? id with
  | none => none
  | some x => match s.translateSpan none x va n true with
    | .error _ => none
    | .ok ps => some (ws.foldl (fun s w => (s.writePieces ps w).noteWrites ps) s)

/-- Bytes written by the base controller to a GLOBAL address of a context. -/
def putGlobal (s : State) (id : BitVec 16) (va : Nat) (bs : List Byte) : Option State :=
  s.putInTurn id va bs.length [bs.map fun b => (b, true)]

/-- Bytes with one enable for all. -/
def enabled (p : Bool) (bs : List Byte) : List (Byte × Bool) := bs.map fun b => (b, p)

/-- Bytes read by the base controller at a GLOBAL address of a context. -/
def getGlobal (s : State) (id : BitVec 16) (va n : Nat) : Option (List Byte) :=
  match s.ctx? id with
  | none => none
  | some x => match s.translateSpan none x va n false with
    | .error _ => none
    | .ok ps => some (s.readPieces ps)

/-- What the base controller can do with the oldest waiting record: write it, or set OVF for want of space. -/
inductive RecordTurn where
  | write
  | overflow
  | wait
deriving DecidableEq, Repr

/-- The turn of a context's oldest waiting record. -/
def recordTurn (s : State) (id : BitVec 16) : RecordTurn :=
  match s.ctx? id with
  | none => .wait
  | some x => match x.waiting with
    | [] => .wait
    | r :: _ =>
      if s.now < r.due then .wait
      else
        let va := ptrOff x.fbuf
        match s.getGlobal id va 64, s.putGlobal id va [] with
        | some h, some _ =>
          let cons := (wordAt h 8).extractLsb' 0 32
          if (x.prod - cons).toNat < x.fbufn then
            (if (s.putGlobal id (va + 64 + 64 * (x.prod.toNat % max x.fbufn 1)) (List.replicate 64 0)).isSome
              && (s.putInTurn id va 32 []).isSome then .write else .wait)
          else if !(wordAt h 24).getLsbD 0 && (s.putInTurn id va 32 []).isSome then .overflow
          else .wait
        | _, _ => .wait

end State

/-- The device's part of a fault buffer's header: PROD, GEN or OVF written, CONS kept (R350). -/
def headerWrite (prod gen ovf : Option Nat) : List (Byte × Bool) :=
  let word (v : Option Nat) : List (Byte × Bool) := State.enabled v.isSome (natBytes (v.getD 0))
  word prod ++ word none ++ word gen ++ word ovf

/-- FAULT_RECORD_WRITE: the oldest waiting record is written whole, then PROD advances, then vector 64 is raised; a
record without space sets OVF (R350). DEDUCED: log entry 40. -/
def execFaultRecordWrite (ctxid : BitVec 16) (s : State) : Out :=
  match s.recordTurn ctxid, s.ctx? ctxid with
  | .write, some x => match x.waiting with
    | [] => .next s
    | r :: rest =>
      let va := ptrOff x.fbuf
      let s1 := (s.putGlobal ctxid (va + 64 + 64 * (x.prod.toNat % max x.fbufn 1)) (r.bytes ctxid s.tick)).getD s
      let head := headerWrite (some (x.prod + 1).toNat) (some x.gen.toNat) none
      let s2 := (s1.putInTurn ctxid va 32 [head]).getD s1
      .next ((s2.modCtx ctxid fun c => { c with prod := c.prod + 1, waiting := rest }).raise 64)
  | .overflow, some x => .next ((s.putInTurn ctxid (ptrOff x.fbuf) 32 [headerWrite none none (some 1)]).getD s)
  | _, _ => .next s

end Sys2Proof.Machine
end

