-- ==== Sys2Proof/Machine/Contexts.lean ====
section
/-! DEFINITION. Contexts (R330-R333), RESOLVE and the disposal of stopped tasks (R352, R364), eviction and whole-package
pre-emption (R368-R371), acknowledgement and deadlines (R387, R389). -/

namespace Sys2Proof.Machine

/-! ## Context records (R330) -/

/-- A GLOBAL pointer aligned to n bytes. -/
def globalAligned (p : W64) (n : Nat) : Bool := ptrSpace p == 1 && ptrRank p == 0 && ptrOff p % n == 0

/-- A power of two from 2^lo to 2^hi. -/
def powerBetween (n lo hi : Nat) : Bool := (List.range (hi + 1 - lo)).any fun i => n == 2 ^ (lo + i)

/-- The limits of a context record. -/
def recordOk (w : Vector W64 16) : Bool :=
  let q (i : Nat) : Nat := bits w[10] (4 * i) 4
  bits w[0] 48 16 != 0xFFFF && bits w[0] 10 38 == 0 && bits w[0] 1 7 == 0
    && w[1].toNat % 8192 == 0 && globalAligned w[2] 64
    && bits w[3] 41 23 == 0 && decide (bits w[3] 16 25 ≤ 2 ^ 24)
    && w[4].toNat % 2 ^ 21 == 0 && bits w[5] 32 32 == 0 && powerBetween (bits w[5] 0 32) 4 20
    && bits w[10] 16 48 == 0 && bits w[15] 32 32 == 0
    && (List.finRange 4).all fun i => q i == 0 || (decide (4 ≤ q i) && globalAligned (w[6 + i.val]) 64)

/-- A queue with no card. -/
def JobQueue.init : JobQueue := { head := 0, tail := 0, held := false, dealing := none }

/-- A context just created (R333, R350, R352, R388). -/
def Context.init (w : Vector W64 16) (version : BitVec 32) : Context :=
  { id := w[0].extractLsb' 48 16, record := w, resident := none, gen := 1, prod := 0, waiting := [], ackv := version,
    clocks := [], stale := false, preempted := false, queues := Vector.replicate 4 JobQueue.init, parked := [] }

/-- The fault buffer of a context just created: PROD, CONS and OVF 0, GEN 1 (R350). -/
def freshHeader : List (Byte × Bool) :=
  State.enabled true (natBytes 0 ++ natBytes 0 ++ natBytes 1 ++ List.replicate 40 0)

/-- CREATE (R330); the header of its fault buffer takes its reset values where it can be written (R350). -/
def execCreate (s : State) : Out :=
  s.onCommand 1 fun s =>
    let pa := (s.arg 0).toNat
    let w : Vector W64 16 := Vector.ofFn fun i => s.hostWord (pa + 8 * i.val)
    if pa % 64 ≠ 0 ∨ recordOk w = false then s.result 1
    else
      let x := Context.init w s.cairn.version
      if x.secure && !s.authBlock (s.arg 1).toNat (s.hostBytes pa 128) then s.result 7
      else if (s.ctx? x.id).isSome then s.result 3
      else
        -- its barrier file is zero
        let s1 := x.cores.foldl (fun (s : State) r =>
          { s with mem := memClear s.mem (Place.lpddr.key (x.block r + 0x180000)) (Place.lpddr.key (x.block r + 0x180800)) }) s
        let s2 : State := { s1 with contexts := s1.contexts ++ [x] }
        ((s2.putInTurn x.id (ptrOff x.fbuf) 64 [freshHeader]).getD s2).result 0

/-- A value of word i of a record keeps the limits that no other word of the record decides (R330). -/
def wordOk (i : Nat) (v : W64) : Bool :=
  match i with
  | 0 => bits v 48 16 != 0xFFFF && bits v 10 38 == 0 && bits v 1 7 == 0
  | 3 => bits v 41 23 == 0 && decide (bits v 16 25 ≤ 2 ^ 24)
  | 10 => bits v 16 48 == 0 && (List.range 4).all fun q => bits v (4 * q) 4 == 0 || decide (4 ≤ bits v (4 * q) 4)
  | 15 => bits v 32 32 == 0
  | _ => true

/-- SETATTR (R331); what the id does not decide of RESULT 1 is tested before the id (R329). -/
def execSetattr (s : State) : Out :=
  s.onCommand 5 fun s =>
    let i := (s.arg 1).toNat
    let v := s.arg 2
    if !State.fits (s.arg 0) 16 || decide (16 ≤ i) || i == 1 || i == 2 || i == 4 || i == 5 || !wordOk i v then s.result 1
    else match s.ctx? s.argId with
      | none => s.result 2
      | some x =>
        let w := x.record.setIfInBounds i v
        let small : Bool := i != 0 || (v ^^^ x.record[0]) &&& ~~~(0x300 : W64) == 0
        if !recordOk w || !small then s.result 1
        else if !s.authorised x.secure then (s.result 7).bump
        else if 6 ≤ i ∧ x.resident.isSome then s.result 8
        else (s.modCtx x.id fun c => { c with record := w }).result 0

/-! ## Eviction (R333, R368) -/

namespace State

/-- The eviction of a context that is in progress. -/
def evictionOf (s : State) (id : BitVec 16) : Option Eviction := s.evicting.find? fun (e : Eviction) => e.ctxid == id

/-- The eviction of a resident context begins: its running tasks stop at their boundaries. -/
def startEvict (s : State) (e : Eviction) : State :=
  let cores := s.cores.map fun (c : Core) =>
    if c.ctx == some e.ctxid then
      { c with pending := match e.cause with
          | .mapstale => { c.pending with mapstale := some (e.faux.extractLsb' 0 32) }
          | _ => { c.pending with evict := true } }
    else c
  { s with cores := cores, evicting := s.evicting ++ [e] }

/-- Every core of the context has stopped, no descriptor is on its way to one, and the writes of its tasks that nothing
holds have performed (R317, R368). -/
def evictReady (s : State) (id : BitVec 16) : Bool :=
  (s.cores.all fun (c : Core) => c.ctx != some id || (c.tasks.run.isNone && c.stop.isNone && c.tasks.writes.isEmpty))
    && !(List.finRange 288).any (s.ctxWriteComing id)

/-- The terrace 0 stores of a core that only it sees are seen by every agent from now on: its context leaves the core. -/
def showStores (s : State) (r : Nat) : State :=
  if h : r < 288 then
    ((s.core ⟨r, h⟩).mem.port.filter fun a => !a.under.isEmpty).foldl (fun s a => s.portDone ⟨r, h⟩ a.id) s
  else s

/-- The core's terrace 0 image and barrier file go to its block, and the core is unbound. -/
def saveCore (s : State) (x : Context) (r : Nat) : State :=
  match s.core? r with
  | none => s
  | some c =>
    let s := s.showStores r
    let s1 := { s with mem := memCopy s.mem ((Place.t0 r).key 0) (Place.lpddr.key (x.block r)) 0x180000 }
    let s2 := s1.putBytes .lpddr (x.block r + 0x180000) c.bars.image
    s2.modCore? r fun c =>
      { c with
        ctx := none, ctxSlot := 0, bars := Barriers.init, pending := Pending.init
        tasks := { Tasks.init with lastEnd := c.tasks.lastEnd } }

/-- The captures of a context that is destroyed, on any core, and those that wait for the ring to restart: none of them boards
a slot later (R82, R333). -/
def dropCaptures (s : State) (id : BitVec 16) : State :=
  (List.finRange 288).foldl (fun s r =>
    let gone := (s.core r).mem.captures.filter fun k => k.ctxid == id
    let s1 := gone.foldl (fun s k => if k.op = .alt then s.portDone r (k.id + 1) else s) s
    s1.modCore r fun c =>
      { c with mem := { c.mem with
          captures := c.mem.captures.filter fun k => k.ctxid != id
          orphans := c.mem.orphans.filter fun o => o.1 != id } }) s

/-- A context that is destroyed: its cards, chunks, records, captures and guard touches are discarded, its ring slots, the
saved ones too, swept, its id removed (R82, R333). -/
def removeCtx (s : State) (id : BitVec 16) : State :=
  let sweep (x : RingSlot) : RingSlot := if x.st == .boarded && x.ctxid == id then { x with freeAtCol := true } else x
  (({ s with
    cores := s.cores.map fun (c : Core) => c.setGuard id none
    contexts := s.contexts.filter fun c => c.id != id
    jobs := s.jobs.filter fun j => j.ctxid != id
    acks := s.acks.filter fun a => a.1 != id } : State).dropCaptures id).eachRing fun g => { g with slots := g.slots.map sweep }

/-- A task slot as it is kept while its context is not resident: a common tick that was fixed counts no more (R371). -/
def parkSlot (t : TaskSlot) : TaskSlot := { t with resumeTick := t.resumeTick.map fun _ => unfixedTick }

/-- The eviction ends: blocks are saved, the cores unbound, the slot freed, cached translations discarded (R348). -/
def finishEvict (s : State) (e : Eviction) : State :=
  match s.ctx? e.ctxid with
  | none => { s with evicting := s.evicting.filter fun (y : Eviction) => y.ctxid != e.ctxid }
  | some x =>
    let mine := (idxWhere 288 fun r => (s.core? r).any fun c => c.ctx == some e.ctxid)
    let slots := mine.filterMap fun r => (s.core? r).map fun c => (r, c.tasks.slots.map parkSlot)
    let s1 := mine.foldl (fun s r => s.saveCore x r) s
    let s2 := s1.modCtx e.ctxid fun c =>
      { c with resident := none, parked := slots, stale := c.stale || e.cause == .mapstale, preempted := c.preempted || e.preempt }
    let s3 : State :=
      { s2 with
        evicting := s2.evicting.filter fun (y : Eviction) => y.ctxid != e.ctxid
        resumes := s2.resumes.filter fun (g : GangResume) => !g.ranks.any mine.contains
        engines := s2.engines.map fun (y : Engine) => { y with tlb := y.tlb.filter fun t => t.ctxid != e.ctxid } }
    if e.destroy then s3.removeCtx e.ctxid else s3

/-- EVICT and DESTROY of the context that ARG0 names; one that meets an eviction under way waits for it.
DEDUCED: log entry 42. -/
def evictCommand (s : State) (destroy : Bool) : State :=
  if !fits (s.arg 0) 16 then s.result 1
  else match s.ctx? s.argId with
    | none => s.result 2
    | some x =>
      let own := (s.evictionOf x.id).filter (·.commanded)
      match own with
      | some e => if s.evictReady x.id then (s.finishEvict e).result 0 else s
      | none =>
        if !s.authorised x.secure then (s.result 7).bump
        else match s.evictionOf x.id with
          | some e =>
            { s with evicting := s.evicting.map fun (y : Eviction) =>
                if y == e then { e with destroy := destroy, commanded := true } else y }
          | none =>
            if x.resident.isSome then
              s.startEvict { ctxid := x.id, cause := .preempt, faux := 0, destroy := destroy, preempt := false,
                             commanded := true }
            else if destroy then (s.removeCtx x.id).result 0
            else s.result 0

end State

/-- EVICT: every running task of the context stops with KIND 3; then its blocks are saved and its slot freed (R333,
R368). DEDUCED: log entry 42. -/
def execEvict (s : State) : Out := s.onCommand 4 fun s => s.evictCommand false

/-- DESTROY evicts a resident context, and discards what it had (R333). -/
def execDestroy (s : State) : Out := s.onCommand 2 fun s => s.evictCommand true

/-! ## RESIDE (R332, R371) -/

namespace State

/-- A core's block is restored to it, and it is bound; a slot whose task is of another version is WAITING, or SUSPENDED where
the task has a frame (R15, R58, R368, R384). DEDUCED: log entry 41. -/
def restoreCore (s : State) (x : Context) (slot : BitVec 6) (r : Nat) : State :=
  let s1 := { s with mem := memCopy s.mem (Place.lpddr.key (x.block r)) ((Place.t0 r).key 0) 0x180000 }
  let bar (b : Nat) : W64 := s.rawWord .lpddr (x.block r + 0x180000 + 8 * b)
  let saved : Vector TaskSlot 32 := match x.parked.find? fun (p : Nat × Vector TaskSlot 32) => p.1 == r with
    | some p => p.2
    | none => Vector.replicate 32 TaskSlot.init
  let slots := saved.mapIdx fun n (t : TaskSlot) =>
    let d := s1.slotDesc r n
    match t.st with
    | .suspended =>
      if t.evicted && descVersion d == s.cairn.version then
        { t with st := .waiting, mode := .resume, evicted := false,
                 resumeTick := if descGang d then some unfixedTick else none }
      else t
    | .waiting | .runnable =>
      { (if descVersion d == s.cairn.version then t else staleSlot t (descCls d)) with stampDue := Vector.replicate 4 s.now }
    | _ => t
  s1.modCore? r fun c =>
    { c with
      ctx := some x.id, ctxSlot := slot, attr := x.attr
      bars := { val := Vector.ofFn fun b => (bar b.val).extractLsb' 0 48
                start := Vector.ofFn fun b => (bar b.val).extractLsb' 0 48
                pend := Vector.ofFn fun b => (bar b.val).getLsbD 63 }
      tasks := { c.tasks with slots := slots, reserved := s.reservedFor x.id r } }

/-- The gangs whose members stand in slots waiting for a resume tick, over these ranks; their cores are reserved
(R364, R371). A member disposed of after others joins their resumption while its tick is not fixed. DEDUCED: log entry 109. -/
def formResumes (s : State) (ranks : List Nat) : State :=
  let members := ranks.flatMap fun r => match s.core? r with
    | none => []
    | some c => (List.finRange 32).filterMap fun n =>
        if (c.tasks.slots[n]).resumeTick == some unfixedTick then some (descGangid (s.slotDesc r n.val), r) else none
  let known (m : BitVec 16 × Nat) : Bool := s.resumes.any fun (x : GangResume) => x.gangid == m.1 && x.ranks.contains m.2
  let fresh := members.filter fun m => !known m
  let of (g : BitVec 16) : List Nat := (fresh.filter fun m => m.1 == g).map (·.2)
  let open_ (x : GangResume) : Bool := x.tick.isNone && x.ranks.any ranks.contains
  let joined := s.resumes.map fun (x : GangResume) => if open_ x then { x with ranks := x.ranks ++ of x.gangid } else x
  let ids := (fresh.map (·.1)).eraseDups.filter fun g => !s.resumes.any fun (x : GangResume) => open_ x && x.gangid == g
  let s1 := { s with resumes := joined ++ ids.map fun g => GangResume.mk g (of g) none }
  (fresh.map (·.2)).foldl (fun s r => s.modCore? r fun c =>
    { c with tasks := { c.tasks with reserved := some (c.tasks.reserved.getD 0) } }) s1

/-- Where the image of a layer stands in the package save area: the layers in the order of their entries, each at its whole
size. DESIGN CHOICE: log entry 47. -/
def imageOf (area e : Nat) : Nat := area + ((List.range e).map wholeSize).sum

/-- The images of T1-T4, of the ring's slots and of the engines' chains go to the package save area (R370).
DESIGN CHOICE: log entry 47. -/
def saveTerraces (s : State) : State :=
  match s.cairn.saveArea with
  | none => s
  | some a =>
    let s1 : State := { s with
      mem := (List.range 16).foldl
        (fun m e => memCopy m ((Place.layer e).key 0) (Place.lpddr.key (imageOf a e)) (wholeSize e)) s.mem }
    match s.saved with
    | none => s1
    | some v =>
      let w : Saved := { v with area := a }
      (({ s1 with saved := some w } : State).putRingImage w).putEngineImage w

/-- The images of T1-T4 come back; those of lost layers are skipped (R371, R390). -/
def restoreTerraces (s : State) (v : Saved) : State :=
  { s with mem := (List.range 16).foldl (fun m e =>
      if v.area = 0 || s.lostTarget (.place (.layer e) 0) then m
      else memCopy m (Place.lpddr.key (imageOf v.area e)) ((Place.layer e).key 0) (wholeSize e)) s.mem }

/-- The first RESIDE after a pre-emption restores T1-T4, the ring and the chains, as their images stand in the save area (R371,
R390). -/
def restorePackage (s : State) : State :=
  match s.saved with
  | some v =>
    if !v.fresh then s
    else
      let v := s.savedEngines (s.savedRing v)
      let ring : Ring := if v.ringLost then { s.ring with stopped := false }
        else { s.ring with slots := v.ring, phase := v.phase, stopped := false }
      { s.restoreTerraces v with
        ring := ring
        engines := Vector.zipWith (fun (a b : Engine) =>
          { a with queue := b.queue ++ a.queue, walk := b.walk, remote := b.remote ++ a.remote }) s.engines v.engines
        cores := s.cores.map fun (c : Core) =>
          { c with mem := { c.mem with captures := c.mem.captures.map fun k => { k with parked := false } } }
        saved := some { v with fresh := false } }
  | none => s

/-- No chain runs that the restored chains would meet. -/
def restoreReady (s : State) (x : Context) : Bool :=
  match s.saved with
  | some v => !(x.preempted && v.fresh) || s.engines.all fun (e : Engine) => e.walk.isNone
  | none => true

/-- Every core of the set, and every engine of its dies, belongs to the context's world. -/
def worldMatches (s : State) (x : Context) : Bool :=
  x.cores.all (fun r => (s.core? r).any fun c => c.world == x.secure)
    && (List.finRange 96).all fun e => !(x.cores.any fun r => r / 72 == engDie e) || s.engines[e].world == x.secure

end State

/-- RESIDE binds a context to a resident slot and to its cores (R332, R371, R389, R406). DEDUCED: log entry 41. While the
compute dies have no power it is refused as the heat that took it refuses it (R406). DESIGN CHOICE: log entry 94. -/
def execReside (s : State) : Out :=
  s.onCommand 3 fun s =>
    if !State.fits (s.arg 0) 16 || !State.fits (s.arg 1) 6 then s.result 1
    else match s.ctx? s.argId with
      | none => s.result 2
      | some x =>
        let slot : BitVec 6 := (s.arg 1).extractLsb' 0 6
        let others := s.contexts.filter fun c => c.resident.isSome && c.id != x.id
        let fresh : Bool := match s.saved with | some v => v.fresh && x.preempted | none => false
        if !s.authorised x.secure then (s.result 7).bump
        else if x.resident.isSome || others.any (fun c => c.resident == some slot) then s.result 4
        else if x.cores.any (fun r => !((s.cairn.live[r]?).getD false) || others.any (fun c => c.hasCore r)) then s.result 5
        else if !s.worldMatches x then s.result 6
        else if s.base.hot || !s.base.powered || (fresh && !others.isEmpty) || (x.stale && x.ackv != s.cairn.version) then
          s.result 8
        else if !s.restoreReady x then s
        else
          let s1 := if fresh then s.restorePackage else s
          let s2 := (x.cores.foldl (fun s r => s.restoreCore x slot r) s1).formResumes x.cores
          let s3 := s2.modCtx x.id fun c =>
            { c with
              resident := some slot, parked := [], preempted := false, stale := false
              clocks := c.clocks.map fun k => (k.1, some (k.2.getD s.tick)) }
          { s3 with base := { s3.base with everResident := true } }.result 0

/-! ## RESOLVE (R352, R364) -/

/-- What becomes of a stopped task. -/
inductive Disposal where
  | keep
  | resume
  | restart
  | terminate (cause : Byte)
deriving DecidableEq, Repr

namespace State

/-- The VERSION that a framed task of a rank must have: that of its core where the core is bound to the task's context
(R384). -/
def versionAt (s : State) (x : Context) (r : Nat) : BitVec 32 :=
  match s.core? r with
  | some c => if c.ctx == some x.id then c.view.version else s.cairn.version
  | none => s.cairn.version

/-- The suspended slots of a context whose frames RESOLVE disposes of: rank, slot, LPDDR address of the frame. One of KIND 3
is left to RESIDE, but for a task of another version that ACTION 2 terminates (R364, R384). -/
def framesOf (s : State) (x : Context) : List (Nat × Nat × Nat) :=
  let mine (r n : Nat) : Bool :=
    let h := s.rawWord .lpddr (x.frameOf r n)
    let version := (s.rawWord .lpddr (x.frameOf r n + 128)).extractLsb' 16 32
    bits h 2 2 != 3 || (decide (2 ≤ bits h 6 2) && version != s.versionAt x r)
  let pick (r : Nat) (v : Vector TaskSlot 32) : List (Nat × Nat × Nat) :=
    (List.finRange 32).filterMap fun n =>
      if v[n].st == .suspended && mine r n.val then some (r, n.val, x.frameOf r n.val) else none
  match x.resident with
  | some _ => x.cores.flatMap fun r => match s.core? r with | some c => pick r c.tasks.slots | none => []
  | none => x.parked.flatMap fun p => pick p.1 p.2

/-- What an ACTION means for the task of a frame, by its own RESUMABLE and RERUN (R364). -/
def frameAction (s : State) (action at_ : Nat) : Disposal :=
  let h := s.rawWord .lpddr at_
  let d := s.rawWord .lpddr (at_ + 128)
  if action = 0 ∧ h.getLsbD 5 = true then .resume
  else if action = 1 ∧ d.getLsbD 10 = true then .restart
  else .terminate (h.extractLsb' 8 8)

/-- The disposal of a stopped task: the ACTION of the lowest rank of its gang decides, and a task of another version is never
made RUNNABLE (R364, R384). -/
def disposal (s : State) (x : Context) (fs : List (Nat × Nat × Nat)) (r at_ : Nat) : Disposal :=
  let desc (a i : Nat) : W64 := s.rawWord .lpddr (a + 128 + 8 * i)
  let d (i : Nat) : W64 := desc at_ i
  let lead := if descGang d then
      (fs.filter fun f => descGang (desc f.2.2) && descGangid (desc f.2.2) == descGangid d).foldl
        (fun m f => if f.1 < m.1 then (f.1, f.2.2) else m) (r, at_)
    else (r, at_)
  match s.frameAction (bits (s.rawWord .lpddr lead.2) 6 2) at_ with
  | .terminate c => .terminate c
  | a => if descVersion d = s.versionAt x r then a else .keep

/-- A task slot of a context changed, on its core or as it is kept while the context is not resident. -/
def modTask (s : State) (x : Context) (r n : Nat) (f : TaskSlot → TaskSlot) : State :=
  match x.resident with
  | some _ => s.modCore? r fun c => { c with tasks := { c.tasks with slots := vecMod c.tasks.slots n f } }
  | none => s.modCtx x.id fun c =>
      { c with parked := c.parked.map fun p => if p.1 == r then (p.1, vecMod p.2 n f) else p }

/-- The chunk of a task slot. -/
def taskChunk (s : State) (x : Context) (r n : Nat) : Option ChunkRef :=
  let of (v : Vector TaskSlot 32) : Option ChunkRef := (v[n]?).bind fun t => t.chunk
  match x.resident with
  | some _ => (s.core? r).bind fun c => of c.tasks.slots
  | none => (x.parked.find? fun p => p.1 == r).bind fun p => of p.2

/-- A frame is given up: what it held of its core's memory port goes, and what was kept beside it. -/
def forgetFrame (s : State) (x : Context) (r n : Nat) : State :=
  if h : r < 288 then
    let q : Fin 288 := ⟨r, h⟩
    let mine (a : Access) : Bool := a.framed && a.ctxid == x.id && a.slot.val == n && !a.ended
    let other {α : Type} (o : BitVec 16 × Fin 32 × α) : Bool := !(o.1 == x.id && o.2.1.val == n)
    let s1 := s.modCore q fun c => { c with mem := { c.mem with
      orphans := c.mem.orphans.filter other, faults := c.mem.faults.filter other
      origins := c.mem.origins.filter fun o => !(o.ctxid == x.id && o.slot.val == n) } }
    ((s.core q).mem.port.filter mine).foldl (fun s a => s.portDone q a.id) s1
  else s

/-- One stopped task is disposed of. It keeps the class to which it had risen, and a restart begins its reruns anew (R367).
DESIGN CHOICE: log entry 71. -/
def disposeOf (s : State) (x : Context) (f : Nat × Nat × Nat) (d : Disposal) : State :=
  let gang := descGang fun i => s.rawWord .lpddr (f.2.2 + 128 + 8 * i)
  let again (s : State) (mode : StartMode) (reruns : Nat → Nat) : State :=
    s.modTask x f.1 f.2.1 fun t =>
      { t with st := .waiting, mode := mode, reruns := reruns t.reruns, runFor := 0, age := 0,
               resumeTick := if gang then some unfixedTick else none }
  match d with
  | .keep => s
  | .resume => again s .resume id
  | .restart => again (s.forgetFrame x f.1 f.2.1) .restart fun _ => 0
  | .terminate c =>
    let s1 := if h : f.1 < 288 then s.chunkEnded ⟨f.1, h⟩ (s.taskChunk x f.1 f.2.1) (some c) else s
    (s1.forgetFrame x f.1 f.2.1).modTask x f.1 f.2.1 fun _ => TaskSlot.init

/-- Every access of the context that translation holds walks again (R349). -/
def walkAgain (s : State) (id : BitVec 16) : State :=
  let again (t : TaskSlot) : TaskSlot := { t with stampDue := t.stampDue.map fun d => if d = 2 ^ 64 then s.now else d }
  let core (c : Core) : Core :=
    { c with
      mem := { c.mem with port := c.mem.port.map fun (a : Access) =>
        if a.ctxid == id && a.held.isSome then { a with held := none, due := s.now + 1 } else a }
      tasks := if c.ctx == some id then
          { c.tasks with slots := c.tasks.slots.map again }
        else c.tasks }
  let engine (e : Engine) : Engine :=
    { e with
      walk := match e.queue.head?, e.walk with
        | some ch, some w => some (if ch.ctxid == id && w.held.isSome then { w with held := none, due := s.now + 1 } else w)
        | _, o => o
      remote := e.remote.map fun (y : RemoteStamp) =>
        if y.ctxid == id && y.held.isSome then { y with held := none, due := s.now + 1 } else y }
  (({ s with cores := s.cores.map core, engines := s.engines.map engine } : State).modSavedEngines fun v =>
    { v with engines := v.engines.map engine }).modCtx id fun c =>
      { c with queues := c.queues.map fun (q : JobQueue) => { q with held := false } }

end State

/-- RESOLVE of the current generation (R352). DEDUCED: log entry 40. -/
def execResolve (s : State) : Out :=
  s.onCommand 8 fun s =>
    if !State.fits (s.arg 0) 16 then s.result 1
    else match s.ctx? s.argId with
      | none => s.result 2
      | some x =>
        if (s.arg 1).toNat ≠ x.gen.toNat then s.result 1
        else if !s.authorised x.secure then (s.result 7).bump
        else
          let gen : BitVec 32 := if x.gen = BitVec.allOnes 32 then 1 else x.gen + 1
          let s1 := (s.modCtx x.id fun c => { c with gen := gen, waiting := [] }).walkAgain x.id
          let s2 := (s1.putInTurn x.id (ptrOff x.fbuf) 32 [headerWrite none (some gen.toNat) none]).getD s1
          let fs := s.framesOf x
          let s3 := fs.foldl (fun t f => t.disposeOf x f (s.disposal x fs f.1 f.2.2)) s2
          (s3.formResumes (if x.resident.isSome then x.cores else [])).result 0

/-! ## Acknowledgement and deadlines (R387, R389) -/

namespace State

/-- A published version records a shrinking change. -/
def shrank (s : State) (v : Nat) : Bool := s.cairn.history.any fun h => h.version.toNat == v && h.cls == 2

/-- A context acknowledges a version and every lower one. -/
def acknowledge (s : State) (id : BitVec 16) (v : BitVec 32) : State :=
  s.modCtx id fun c =>
    { c with ackv := if c.ackv.ult v then v else c.ackv, clocks := c.clocks.filter fun k => v.ult k.1 }

end State

/-- ACKMAP (R387). -/
def execAckmap (s : State) : Out :=
  s.onCommand 9 fun s =>
    if !State.fits (s.arg 0) 16 || !State.fits (s.arg 1) 32 || decide (s.cairn.version.toNat < (s.arg 1).toNat) then s.result 1
    else match s.ctx? s.argId with
      | none => s.result 2
      | some x =>
        let v : BitVec 32 := (s.arg 1).extractLsb' 0 32
        let shrunk := s.cairn.history.any fun h => h.cls == 2 && x.ackv.ult h.version && h.version.ule v
        if x.resident.isSome && shrunk then s.result 1
        else if !s.authorised x.secure then (s.result 7).bump
        else (s.acknowledge x.id v).result 0

/-- The deadline of a context has passed: MAPDL after the publication of the oldest version above its ACKV, or after the
RESIDE that followed it (R389). -/
def State.deadlinePassed (s : State) (x : Context) : Bool :=
  match x.clocks.head? with
  | some (_, some d) => !x.stale && decide (d.toNat + x.mapdl ≤ s.tick.toNat)
  | _ => false

/-- MAP_DEADLINE: a context whose deadline passes is suspended with MAPSTALE; the event also ends that eviction once every
core has stopped (R389). -/
def execMapDeadline (ctxid : BitVec 16) (s : State) : Out :=
  match s.ctx? ctxid with
  | none => .next s
  | some x => match s.evictionOf ctxid with
    | some e =>
      if e.cause = .mapstale ∧ e.commanded = false ∧ s.evictReady ctxid = true then .next (s.finishEvict e) else .next s
    | none =>
      if !s.deadlinePassed x then .next s
      else if x.resident.isSome then
        .next ((s.modCtx ctxid fun c => { c with stale := true }).startEvict
          { ctxid := ctxid, cause := .mapstale, faux := s.cairn.version.setWidth 64, destroy := false, preempt := false,
            commanded := false })
      else .next (s.modCtx ctxid fun c => { c with stale := true })

/-! ## Whole-package pre-emption (R370) -/

namespace State

/-- The package freezes: the ring stops, the engines' chains go to the save area, and every resident context is evicted. -/
def preemptFreeze (s : State) : State :=
  -- chains of an earlier pre-emption that no RESIDE has restored stay saved
  let chains := match s.saved with
    | some v => if v.fresh then Vector.zipWith (fun (a b : Engine) =>
        { b with queue := a.queue ++ b.queue, walk := if a.walk.isSome then a.walk else b.walk, remote := a.remote ++ b.remote })
        (s.savedEngines v).engines s.engines
      else s.engines
    | none => s.engines
  let s1 : State :=
    { s with
      ring := { s.ring with stopped := true }
      freezing := true
      saved := some { area := 0, ring := s.ring.slots, phase := s.ring.phase, engines := chains, fresh := true,
                      ringLost := false }
      engines := s.engines.map fun (e : Engine) => { e with queue := [], walk := none, remote := [], tlb := [] } }
  s1.contexts.foldl (fun s x =>
    if x.resident.isSome && (s.evictionOf x.id).isNone then
      s.startEvict { ctxid := x.id, cause := .preempt, faux := 0, destroy := false, preempt := true, commanded := false }
    else s) s1

/-- PREEMPT in its stages: the tick is fixed, the package freezes, contexts are evicted one by one, the terraces are
saved. The thermal limit takes the same course without a command. DESIGN CHOICE: log entry 47. -/
def preemptStep (s : State) (done : State → State) : State :=
  match s.preemptAt with
  | none => { s with preemptAt := some (s.tick + 4096) }
  | some p =>
    if s.tick.toNat < p.toNat then s
    else if !s.freezing then s.preemptFreeze
    else match s.evicting.find? fun (e : Eviction) => e.preempt && !e.commanded && s.evictReady e.ctxid with
      | some e => s.finishEvict e
      | none =>
        if s.evicting.isEmpty then done { s.saveTerraces with preemptAt := none, freezing := false }
        else s

/-- The next stage of a pre-emption can be taken. -/
def preemptReady (s : State) : Bool :=
  match s.preemptAt with
  | none => true
  | some p => decide (p.toNat ≤ s.tick.toNat) && (!s.freezing || s.evicting.isEmpty
      || s.evicting.any fun (e : Eviction) => e.preempt && !e.commanded && s.evictReady e.ctxid)

end State

/-- PREEMPT (R370). DESIGN CHOICE: log entry 47. It asks for no authorisation, though it evicts secure contexts too (R328).
DESIGN CHOICE: log entry 90. -/
def execPreempt (s : State) : Out := s.onCommand 12 fun s => s.preemptStep fun s => s.result 0

end Sys2Proof.Machine
end

