-- ==== Sys2Proof/Machine/Jobs.lean ====
section
/-! DEFINITION. The distributor (R26-R30, R335-R339): job cards, chunks, gangs and completion records. -/

namespace Sys2Proof.Machine

/-! ## Job cards (R337) -/

/-- Fields of a card. -/
def Job.kind (j : Job) : Nat := bits j.card[0] 60 4
def Job.ranked (j : Job) : Bool := j.card[0].getLsbD 59
def Job.irq (j : Job) : Bool := j.card[0].getLsbD 58
def Job.recsize (j : Job) : Nat := bits j.card[0] 32 16
def Job.n (j : Job) : Nat := bits j.card[0] 0 32
def Job.tmpl (j : Job) : W64 := j.card[1]
def Job.base (j : Job) : W64 := j.card[2]
def Job.minchunk (j : Job) : Nat := bits j.card[3] 32 32
def Job.compl (j : Job) : W64 := j.card[4]

/-- A reserved field of the card is nonzero. -/
def Job.resv (j : Job) : Bool :=
  bits j.card[0] 48 10 != 0 || bits j.card[3] 18 14 != 0 || j.card[6] != 0 || j.card[7] != 0

/-- A pointer with its RANK replaced. -/
def withRank (p : W64) (r : Nat) : W64 := w64 (p.toNat / 2 ^ 59 * 2 ^ 59 + r % 512 * 2 ^ 50 + p.toNat % 2 ^ 50)

namespace State

/-- The live cores of a job's set, ascending (R337, R385); its card's ranks are `Job.lo` and `Job.hi`. -/
def jobCores (s : State) (j : Job) : List Nat :=
  match s.ctx? j.ctxid with
  | none => []
  | some x => x.cores.filter fun r => decide (j.lo ≤ r ∧ r ≤ j.hi) && (s.cairn.live[r]?).getD false

/-- A descriptor of the job: the template with CTXID, CLASS, ARGS, and for a gang GANG and word 7 (R337).
DEDUCED: log entry 45. -/
def jobDesc (j : Job) (args : W64) (word7 : W64) : List W64 :=
  let t := j.template
  let w0 : W64 := j.ctxid ++ t[0].extractLsb' 16 32 ++ BitVec.ofNat 4 j.queue.val ++ t[0].extractLsb' 9 3
    ++ (if j.gang then 1#1 else t[0].extractLsb' 8 1) ++ t[0].extractLsb' 0 8
  [w0, t[1], args, t[3], t[4], t[5], t[6], word7]

/-- ARGS for a first record and a rank (R29, R338). -/
def jobArgs (j : Job) (first r : Nat) : W64 :=
  let p := ptrAdd j.base (first * j.recsize : Nat)
  if j.ranked then withRank (if j.gang then j.base else p) r else p

/-- A record of a job card (R409). -/
def cardRecord (s : State) (j : Job) (cause : Byte) (reason : Nat) (akind : Nat) (held : Bool) (addr : W64) : State :=
  s.record j.ctxid
    { FaultRec.zero with cause := cause, src := 2, reason := reason, akind := akind, held := held, addr := addr,
                         detail := w64 (j.queue.val * 2 ^ 16 + j.index.toNat) }

/-- The status that refuses a card, if one does, tested in the order of R338. -/
def cardStatus (s : State) (j : Job) (tmplOk complOk : Bool) : Option Nat :=
  let cs := s.jobCores j
  if decide (1 < j.kind) || j.resv || j.recsize % 8 != 0 || !globalAligned j.compl 32 || !globalAligned j.tmpl 64
      || !tmplOk || !complOk then some 0x10
  else if j.kind = 0 ∧ j.minchunk = 0 then some 0x11
  else if cs = [] ∨ j.hi < j.lo then some 0x12
  else
    let r := cs.headD 0
    let d := listDesc (jobDesc j (jobArgs j 0 r) (if j.gang then w64 (j.gangid.toNat * 2 ^ 48) else j.template[7]))
    let bad : Bool := match s.core? r with
      | some c => !s.descOk r c d || j.template[7] != 0
      | none => true
    if bad then some 0x13
    else if j.gang ∧ j.n ≠ cs.length then some 0x14
    else none

/-- Card H of a queue is read and tested; H advances and its job begins dealing, or is refused; an entry that fails
translation holds the queue (R335, R338). -/
def readCard (s : State) (x : Context) (q : Fin 4) : State :=
  let k := x.queues[q]
  let p := ptrPlus (x.qbase q) (64 * (k.head.toNat % 2 ^ x.qlog q))
  let blank : Job :=
    { id := s.serial, ctxid := x.id, queue := q, index := k.head, card := Vector.replicate 8 0,
      template := Vector.replicate 8 0, gang := false, dealt := 0, chunks := 0, open_ := [], redeal := [],
      freeSince := [], failed := none, missed := none, refused := none, gangid := 0, startTick := none,
      endTick := none, noRecord := none }
  match s.translateSpan none x (ptrOff p) 64 false with
  | .error (r, t, a) =>
    let k1 : JobQueue := { k with held := true }
    (s.cardRecord blank Cause.xlate.code r (if t then 3 else 0) true (ptrPlus p (a - ptrOff p))).modCtx x.id
      fun c => { c with queues := c.queues.set q k1 }
  | .ok ps =>
    let bs := s.readPieces ps
    let card : Vector W64 8 := Vector.ofFn fun i => wordAt bs (8 * i.val)
    let j0 : Job := { blank with card := card, gang := bits card[0] 60 4 == 1 }
    let tm := if globalAligned j0.tmpl 64 then s.getGlobal x.id (ptrOff j0.tmpl) 64 else none
    let failed : Option Nat := if !globalAligned j0.compl 32 then none
      else match s.translateSpan none x (ptrOff j0.compl) 32 true with
        | .error (r, _, _) => some r
        | .ok _ => none
    let tb := tm.getD []
    let j1 : Job := { j0 with template := Vector.ofFn fun i => wordAt tb (8 * i.val), noRecord := failed }
    let st := s.cardStatus j1 tm.isSome failed.isNone
    let j : Job := { j1 with refused := st }
    let k1 : JobQueue := { k with head := k.head + 1, dealing := if st.isSome then none else some j.id }
    (({ s with jobs := s.jobs ++ [j] } : State).modCtx x.id fun c => { c with queues := c.queues.set q k1 }).bump

/-- The queue can have its next card read (R335), and a record of it would find room (R350). -/
def cardReady (s : State) (x : Context) (q : Fin 4) : Bool :=
  let k := x.queues[q]
  x.resident.isSome && x.qlog q != 0 && k.head != k.tail && k.dealing.isNone && !k.held && s.preemptAt.isNone
    && (s.evictionOf x.id).isNone && !s.overflows (s.readCard x q) x.id

end State

/-- CARD_READ (R335, R338). -/
def execCardRead (ctxid : BitVec 16) (q : Fin 4) (s : State) : Out :=
  match s.ctx? ctxid with
  | none => .next s
  | some x => if s.cardReady x q then .next (s.readCard x q) else .next s

/-! ## Chunks (R28, R29, R336) -/

/-- Records of the job that no chunk has taken. -/
def Job.left (j : Job) : Nat := j.n - j.dealt

/-- The job has chunks to deal. -/
def Job.dealing (j : Job) : Bool := !j.gang && j.refused.isNone && (j.left != 0 || !j.redeal.isEmpty)

namespace State

/-- The core holds an unstarted chunk task of the job. -/
def holdsUnstarted (c : Core) (job : Nat) : Bool :=
  let mine (k : Option ChunkRef) : Bool := match k with | some ch => ch.job == job | none => false
  c.tasks.writes.any (fun w => mine w.chunk)
    || c.tasks.slots.any fun t => (t.st == .waiting || t.st == .runnable) && t.mode == .fresh && mine t.chunk

/-- A core of the set is free for the job: it has an EMPTY slot and holds no unstarted chunk task of the job (R29). -/
def coreFree (s : State) (j : Job) (r : Nat) : Bool :=
  match s.core? r with
  | some c => c.ctx == some j.ctxid && c.live && (freeTaskSlot c).isSome && !holdsUnstarted c j.id
  | none => false

/-- A gang has reserved the core: it takes no chunk (R26). -/
def coreReserved (s : State) (r : Nat) : Bool := (s.core? r).any fun c => c.tasks.reserved.isSome

/-- A job of a higher-numbered queue of the context deals to the core (R336), whether or not the core is free for that job.
DESIGN CHOICE: log entry 74. -/
def outranked (s : State) (j : Job) (r : Nat) : Bool :=
  s.jobs.any fun k => k.ctxid == j.ctxid && decide (j.queue.val < k.queue.val) && k.dealing && (s.jobCores k).contains r

/-- When the cores of each dealing job became free, at the start of a cycle (R29); a core that is free as the job begins to
deal counts from then. DESIGN CHOICE: log entry 73. -/
def noteFree (s : State) : State :=
  { s with jobs := s.jobs.map fun j =>
      if j.dealing then
        { j with freeSince := (s.jobCores j).filterMap fun r =>
            if s.coreFree j r then
              some (r, match j.freeSince.find? fun p => p.1 == r with | some p => p.2 | none => s.now)
            else none }
      else j }

/-- The core that takes the job's next chunk: free the longest, ties to the lower rank. -/
def chunkCore (s : State) (j : Job) : Option Nat :=
  let cands := j.freeSince.filter fun p => s.coreFree j p.1 && !s.coreReserved p.1 && !s.outranked j p.1
  match cands with
  | [] => none
  | p :: rest => some (rest.foldl (fun m x => if x.2 < m.2 ∨ (x.2 = m.2 ∧ x.1 < m.1) then x else m) p).1

/-- A chunk can be dealt now. -/
def chunkReady (s : State) (j : Job) : Bool :=
  j.dealing && s.base.powered && s.preemptAt.isNone && (s.evictionOf j.ctxid).isNone
    && (match s.ctx? j.ctxid with | some x => x.resident.isSome | none => false) && (s.chunkCore j).isSome

/-- A descriptor of the distributor is sent to the lowest EMPTY slot of a core, if R14 admits it.
DEDUCED: log entry 45. -/
def sendDesc (s : State) (r : Nat) (desc : List W64) (ch : ChunkRef) : Option State :=
  if h : r < 288 then
    let c := s.core ⟨r, h⟩
    match freeTaskSlot c with
    | some n =>
      if s.descOk r c (listDesc desc) then
        let w : SlotWrite :=
          { slot := n, desc := desc, due := s.now + 1 + Config.delay .slotWrite s.serial, chunk := some ch, from_ := none,
            after := [], ask := none }
        let s1 := (s.modSlot ⟨r, h⟩ n fun t => { t with st := .reserved }).modCore ⟨r, h⟩ fun c =>
          { c with tasks := { c.tasks with writes := c.tasks.writes ++ [w] } }
        some s1.bump
      else none
    | none => none
  else none

/-- The lower first record of two failures (R339). -/
def worse (f : Option (Nat × Byte)) (first : Nat) (c : Byte) : Option (Nat × Byte) :=
  match f with
  | some g => some (if first < g.1 then (first, c) else g)
  | none => some (first, c)

/-- A chunk or member that R14 refuses as it is dealt counts as ended, by a trap with ECAUSE BADSPACE (R338, R339). -/
def refusedAt (s : State) (j : Job) (first : Nat) : Job :=
  { j with failed := worse j.failed first Cause.badspace.code, endTick := some s.tick }

/-- The queue of a job goes on to its next card once the job has dealt its last chunk. -/
def releaseQueue (s : State) (j : Job) : State :=
  s.modCtx j.ctxid fun c =>
    if c.queues[j.queue].dealing == some j.id then
      let k : JobQueue := { c.queues[j.queue] with dealing := none }
      { c with queues := c.queues.set j.queue k }
    else c

end State

/-- CHUNK_DEAL: the next chunk becomes a task on the core that has been free for the job the longest (R28, R29, R336,
R338); chunks of a lost core are dealt again first (R385). A job with no record left to deal releases its queue. -/
def execChunkDeal (job : Nat) (s : State) : Out :=
  match s.job? job with
  | none => .next s
  | some j =>
    if !j.gang && j.refused.isNone && j.left == 0 && j.redeal.isEmpty then .next (s.releaseQueue j)
    else if !s.chunkReady j then .next s
    else match s.chunkCore j with
      | none => .next s
      | some r =>
        let cores := (s.jobCores j).length
        let again := j.redeal.head?
        let first := match again with | some p => p.1 | none => j.dealt
        let count := match again with
          | some p => p.2
          | none => min j.left (max j.minchunk ((j.left + 2 * cores - 1) / (2 * cores)))
        let ch : ChunkRef := { job := j.id, member := false, first := first, count := count }
        let desc := State.jobDesc j (State.jobArgs j first r) j.template[7]
        let taken (k : Job) : Job := match again with
          | some _ => { k with redeal := k.redeal.drop 1 }
          | none => { k with dealt := k.dealt + count, chunks := k.chunks + 1 }
        match s.sendDesc r desc ch with
        | some s1 =>
          .next (s1.modJob j.id fun k =>
            { taken k with open_ := k.open_ ++ [(r, first)], freeSince := k.freeSince.filter fun p => p.1 != r })
        | none =>
          .next (s.modJob j.id fun k => s.refusedAt (taken k) first)

/-! ## Gangs (R26, R338) -/

namespace State

/-- GANGIDs that tasks in slots of the package carry, or gangs that still reserve cores use; the tasks of contexts that are
not resident keep theirs. -/
def gangsInUse (s : State) : List (BitVec 16) :=
  let slots := (List.finRange 288).flatMap fun r => (List.finRange 32).filterMap fun n =>
    let d := s.slotDesc r.val n.val
    if (s.slotOf r n).st != .empty && descGang d then some (descGangid d) else none
  let sent := s.cores.toList.flatMap fun c => c.tasks.writes.filterMap fun w =>
    if descGang (listDesc w.desc) then some (descGangid (listDesc w.desc)) else none
  let away := s.contexts.flatMap fun x => x.parked.flatMap fun p => (List.finRange 32).filterMap fun n =>
    let d (i : Nat) : W64 := s.rawWord .lpddr (x.block p.1 + t0Top + 64 * n.val + 8 * i)
    if (p.2[n]).st != .empty && descGang d then some (descGangid d) else none
  slots ++ sent ++ away ++ (s.jobs.filterMap fun j => if j.gang && j.dealt != 0 then some j.gangid else none)
    ++ s.resumes.map (·.gangid)

/-- A GANGID that no other gang in the package carries. -/
def freshGangid (s : State) (j : Job) : BitVec 16 :=
  let used := ({ s with jobs := s.jobs.filter fun k => k.id != j.id } : State).gangsInUse
  BitVec.ofNat 16 (((List.range 65536).find? fun n => !used.contains (BitVec.ofNat 16 n)).getD 0)

/-- The gang job is one that has still to be placed; its cores are reserved once `dealt` is 1. -/
def gangWaits (j : Job) : Bool := j.gang && j.refused.isNone && j.startTick.isNone

/-- None of the cores is reserved. DEDUCED: log entry 46. -/
def coresUnreserved (s : State) (cs : List Nat) : Bool :=
  cs.all fun r => match s.core? r with | some c => c.tasks.reserved.isNone | none => true

/-- Every reserved core is idle and has an EMPTY slot (R26). -/
def gangIdle (s : State) (cs : List Nat) : Bool :=
  cs.all fun r => match s.core? r with
    | some c => c.tasks.run.isNone && c.stop.isNone && (freeTaskSlot c).isSome
    | none => true

/-- The distributor can reserve the gang's cores, or place its members. -/
def gangReady (s : State) (j : Job) : Bool :=
  gangWaits j && s.base.powered && s.preemptAt.isNone && (s.evictionOf j.ctxid).isNone
    && (match s.ctx? j.ctxid with | some x => x.resident.isSome | none => false)
    && (if j.dealt = 0 then s.coresUnreserved (s.jobCores j) else s.gangIdle (s.jobCores j))

end State

/-- GANG_PLACE: the member cores are reserved; once all are idle with an EMPTY slot the members are written with STARTTICK
= the current tick + 4,096 (R26, R338). -/
def execGangPlace (job : Nat) (s : State) : Out :=
  match s.job? job with
  | none => .next s
  | some j =>
    if !s.gangReady j then .next s
    else
      let cs := s.jobCores j
      if j.dealt = 0 then
        let s1 := cs.foldl (fun (s : State) r => s.modCore? r fun c => { c with tasks := { c.tasks with reserved := some 0 } }) s
        .next (s1.modJob j.id fun k => { k with dealt := 1, gangid := s.freshGangid j })
      else
        let tick := s.tick + 4096
        -- a TASKQ may have brought the number into use since the cores were reserved
        let id := s.freshGangid j
        let j : Job := { j with gangid := id }
        let w7 : W64 := id ++ tick.extractLsb' 0 48
        let place (s : State) (p : Nat × Nat) : State :=
          let ch : ChunkRef := { job := j.id, member := true, first := p.2, count := 1 }
          match s.sendDesc p.1 (State.jobDesc j (State.jobArgs j p.2 p.1) w7) ch with
          | some s1 => s1.modJob j.id fun k => { k with open_ := k.open_ ++ [(p.1, p.2)] }
          | none => s.modJob j.id fun k => s.refusedAt k p.2
        let s1 := cs.zipIdx.foldl place s
        let s2 := cs.foldl (fun (s : State) r => s.modCore? r fun c =>
          { c with tasks := { c.tasks with reserved := some tick.toNat } }) s1
        .next ((s2.modJob j.id fun k => { k with startTick := some tick, gangid := id }).releaseQueue j)

/-! ## Completion (R30, R315, R339) -/

namespace State

/-- Every task of the job has ended. DEDUCED: log entry 51. -/
def jobOver (j : Job) : Bool :=
  j.open_.isEmpty
    && (j.refused.isSome || (j.redeal.isEmpty && (if j.gang then j.startTick.isSome else j.left == 0)))

/-- No chain of the job is queued, running or saved, no REMOTE stamp of one stands with a link engine, and no write of its
cores is outstanding (R30, R315). DEDUCED: log entry 51. -/
def jobQuiet (s : State) (j : Job) : Bool :=
  let still (e : Engine) : Bool := !e.queue.any (fun c => c.job == some j.id) && !e.remote.any fun y => y.job == some j.id
  s.engines.all still
    && (match s.saved with | some v => !v.fresh || (s.savedEngines v).engines.all still | none => true)
    && (s.jobCores j).all fun r => match s.core? r with
      | some c => !c.mem.port.any fun a => a.ctxid == j.ctxid && a.kind.writes
      | none => true

/-- STATUS, CHUNKS, FIRSTERR, ECAUSE and ENDTICK (R339). -/
def completionWords (s : State) (j : Job) : List Nat :=
  let (st, chunks, first, cause, tick) : Nat × Nat × Nat × Nat × Nat :=
    match j.refused, j.missed, j.failed with
    | some r, _, _ => (r, 0, 0, 0, 0)
    | none, some m, _ => (3, j.chunks, m, 0, (j.endTick.getD s.tick).toNat)
    | none, none, some f => (2, j.chunks, f.1, f.2.toNat, (j.endTick.getD s.tick).toNat)
    | none, none, none => (1, j.chunks, 0, 0, (j.endTick.getD s.tick).toNat)
  [2 ^ 63 + st * 2 ^ 48 + chunks % 2 ^ 32, j.card[5].toNat, first % 2 ^ 32 * 2 ^ 32 + cause, tick]

/-- The job completes: words 1 to 3 of its record are written, then word 0, and the slot's vector is raised where IRQ = 1; a
COMPL that cannot be written, one that is no aligned GLOBAL pointer included, gets one fault record instead (R338, R339).
DESIGN CHOICE: log entry 91. One that failed the test of its card gets it whatever it translates to by now.
DESIGN CHOICE: log entry 103. -/
def complete (s : State) (j : Job) : State :=
  let s1 := ({ s with jobs := s.jobs.filter fun k => k.id != j.id } : State).releaseQueue j
  match s.ctx? j.ctxid with
  | none => s1
  | some x =>
    if !globalAligned j.compl 32 then s1.cardRecord j 0 9 1 false j.compl
    else match j.noRecord, s.translateSpan none x (ptrOff j.compl) 32 true with
      | some r, _ | none, .error (r, _, _) => s1.cardRecord j Cause.xlate.code r 1 false j.compl
      | none, .ok ps =>
        let w := s.completionWords j
        let head (p : Bool) : List (Byte × Bool) := enabled p ((w.take 1).flatMap natBytes)
        let rest (p : Bool) : List (Byte × Bool) := enabled p ((w.drop 1).flatMap natBytes)
        let s2 := ((s1.writePieces ps (head false ++ rest true)).writePieces ps (head true ++ rest false)).noteWrites ps
        match x.resident with
        | some slot => if j.irq then s2.raise slot.toNat else s2
        | none => s2

/-- The completion record can be written: the job is over, what it releases has performed, and a fault record in its place
would find room (R315, R350). -/
def completionReady (s : State) (j : Job) : Bool :=
  jobOver j && ((j.refused.isSome && j.chunks == 0) || s.jobQuiet j) && !s.overflows (s.complete j) j.ctxid

end State

/-- COMPLETION_RECORD (R338, R339). -/
def execCompletionRecord (job : Nat) (s : State) : Out :=
  match s.job? job with
  | none => .next s
  | some j => if s.completionReady j then .next (s.complete j) else .next s

end Sys2Proof.Machine
end

