-- ==== Sys2Proof/Machine/Cairn.lean ====
section
/-! DEFINITION. The cairn (R373-R390): publication, degradations, recovery points, and the mirror page. -/

namespace Sys2Proof.Machine

/-- REASON of R380. -/
def reasonCode (w : HistReason) : Nat :=
  match w with
  | .bootTest => 0 | .correctedRate => 1 | .uncorrectable => 2 | .sparesGone => 3 | .linkTraining => 4

namespace State

/-! ## Publication (R373-R376, R384, R389) -/

/-- The scree takes a history entry. History stands in non-volatile storage at once: the scree keeps every entry, whatever
counts a loss of power takes (R380). -/
def keepHistory (s : State) (e : HistEntry) : State :=
  { s with
    scree := { s.scree with history := s.scree.history ++ [e] }
    screeSaved := { s.screeSaved with history := s.screeSaved.history ++ [e] } }

/-- The new map is published with one degradation of a class: version, history, vector 65, recovery points, and the clock of
the version's deadline in every context, which runs from now where the context is resident (R389); past the last version it
is recorded in the scree only, and READY falls. The mirror is rewritten in no time: no read meets an odd SEQ.
DESIGN CHOICE: log entry 106. -/
def publish (s : State) (cls res index reason : Nat) (change : Cairn → Cairn) : State :=
  let v := s.cairn.version + 1
  let e : HistEntry := { version := v, cls := cls, res := res, index := index, tick := s.tick.extractLsb' 0 48, reason := reason }
  if s.cairn.version = BitVec.allOnes 32 then
    { s.keepHistory { e with version := 0 } with base := { s.base with ready := false, exhausted := true } }
  else
    let cn := change { s.cairn with
      version := v, seq := s.cairn.seq + 2, pubTick := s.tick.extractLsb' 0 48, cls := cls
      lastShrink := if cls = 2 then v else s.cairn.lastShrink, history := e :: s.cairn.history }
    let s1 : State :=
      { if v.toNat ≤ 1024 then s.keepHistory e else s with
        cairn := cn
        cores := s.cores.map fun (c : Core) =>
          if c.live && notStarted c then { c with recoverBy := some (c.recoverBy.getD (s.now + 64)) } else c
        contexts := s.contexts.map fun (x : Context) =>
          { x with clocks := x.clocks ++ [(v, if x.resident.isSome then some s.tick else none)] } }
    s1.raise 65

/-- The core owes CAIRN if it has a RUNNING task; FAUX holds the newest version. A task whose end cycle this is ends first
(R385, R390). -/
def owesCairn (s : State) (p : Nat → Core → Bool) : State :=
  { s with cores := s.cores.mapIdx fun r c =>
      if !notStarted c && p r c then
        { c with pending := { c.pending with cairn := some (s.cairn.version, s.now + 1) } }
      else c }

/-- A landing from a layer has been read and has not arrived. -/
def fromLayer (e : Nat) (l : Landing) : Bool :=
  (match l.kind with | .land .. | .lands _ => true | _ => false)
    && (match l.value with | some (.bytes _) | some (.spoilt ..) => true | _ => false)
    && !l.poison && (match targetOf l.source with | .place (.layer k) _ => k == e | _ => false)

/-- The bytes that a landing receives. -/
def landSize (l : Landing) : Nat := match l.kind with | .lands _ => 8 | _ => 2048

/-- The landings of a core in flight from a lost layer receive 0xFF, each owing one record; so do those that wait for it in
the core's port, at once (R386, R390). -/
def loseLandings (s : State) (e : Nat) (r : Fin 288) : State :=
  let c := s.core r
  let blank (l : Landing) : Landing :=
    if fromLayer e l then { l with value := some (.bytes (List.replicate (landSize l) 0xFF)) } else l
  let owe (s : State) (l : Landing) : State :=
    let a : Access := { s.accessOf c s.serial (.read 0 (landSize l)) l.source l.issue with due := s.now, owes := true }
    (s.modCore r fun c => { c with mem := { c.mem with port := c.mem.port ++ [a] } }).bump
  let s1 := s.modCore r fun c => { c with mem := { c.mem with landings := c.mem.landings.map blank } }
  let s2 := (c.mem.landings.filter (fromLayer e)).foldl owe s1
  (c.mem.landings.filterMap (s.lostAccess r)).foldl (fun s a => s.meetLost r a) s2

/-- The copies that stand with the chains of a pre-emption meet a lost layer as those of an engine do (R386, R390). -/
def savedLoses (s : State) : State :=
  match s.saved with
  | none => s
  | some v =>
    if !v.fresh then s
    else
      let t := (List.finRange 96).foldl copyLoses { s with engines := (s.savedEngines v).engines }
      ({ t with engines := s.engines } : State).modSavedEngines fun w => { w with engines := t.engines }

/-- A layer is lost: its bytes, what is in flight from it, and the copies that meet it (R383, R385, R386, R390). -/
def loseLayer (s : State) (e : Fin 16) (group : Option (Fin 64)) : State :=
  let s1 := s.publish 2 2 e.val 3 fun cn =>
    let l := cn.layers[e]
    let gs := match group with | some g => l.gspare.set g 3 | none => l.gspare
    let l' := { l with state := 2, size := 0, lostVer := cn.version, gspare := gs }
    { cn with layers := cn.layers.set e l' }
  if s1.cairn.version = s.cairn.version then s1
  else
    let lo := (Place.layer e.val).key 0
    let hi := (Place.layer (e.val + 1)).key 0
    let s2 : State :=
      { s1 with mem := memClear s1.mem lo hi, poison := s1.poison.filter fun k => !(decide (lo ≤ k) && decide (k < hi)) }
    let s3 := (List.finRange 288).foldl (fun s r => s.loseLandings e.val r) s2
    let s4 := ((List.finRange 96).foldl copyLoses s3).savedLoses
    s4.owesCairn fun r _ => r / 72 == e.val / 4

/-- A bank of T1-T4 is retired: a spare of the group takes its place; with none left the layer is lost (R381, R383). -/
def retireBank (s : State) (entry : Fin 16) (group bank : Fin 64) (why : HistReason) : State :=
  let l := s.cairn.layers[entry]
  if l.state = 2 then s
  else if 2 ≤ (l.gspare[group]).toNat then s.loseLayer entry (some group)
  else
    s.publish 1 0 (entry.val * 2 ^ 16 + group.val * 2 ^ 10 + bank.val) (reasonCode why) fun cn =>
      { cn with layers := cn.layers.set entry { l with state := 1, gspare := l.gspare.set group (l.gspare[group] + 1) } }

/-- Banks of a bank group of a layer (R32). -/
def groupSize (entry : Nat) : Nat := if entry % 4 < 2 then 64 else 32

/-- The bank of a number within a layer is retired. DEDUCED: log entry 55. -/
def retireNumber (s : State) (entry : Fin 16) (bank : Nat) (why : HistReason) : State :=
  s.retireBank entry ⟨bank / groupSize entry.val % 64, Nat.mod_lt _ (by omega)⟩
    ⟨bank % groupSize entry.val % 64, Nat.mod_lt _ (by omega)⟩ why

end State

/-! ## Degradations (R381-R386) -/

/-- BANK_RETIRE: a spare of the group takes the bank's place; with none left the layer is lost (R381, R383). -/
def execBankRetire (entry : Fin 16) (group bank : Fin 64) (why : HistReason) (s : State) : Out :=
  .next (s.retireBank entry group bank why)

/-- LANE_SPARE: the lane group's spare takes the lane's place; a second failure in the group loses the layer (R382,
R383). -/
def State.spareLane (s : State) (entry : Fin 16) (group : Fin 512) (why : HistReason) : State :=
  let l := s.cairn.layers[entry]
  if l.state = 2 then s
  else if l.lgroup.getLsbD group.val then (s.loseLayer entry none)
  else
    let s1 := { s with scree := { s.scree with tsvLanes := vecMod s.scree.tsvLanes entry.val fun n => min (n + 1) (2 ^ 32 - 1) } }
    (s1.publish 1 1 (entry.val * 2 ^ 16 + group.val) (reasonCode why) fun cn =>
      let l' := { l with state := 1, lanes := l.lanes + 1, lgroup := l.lgroup ||| (1#512 <<< group.val) }
      { cn with layers := cn.layers.set entry l' })

/-- LANE_SPARE. -/
def execLaneSpare (entry : Fin 16) (group : Fin 512) (why : HistReason) (s : State) : Out := .next (s.spareLane entry group why)

/-- LAYER_LOST: a bank failure in a group whose spares are both in use, or a second lane failure in a group that has one
(R383). -/
def execLayerLost (entry : Fin 16) (group : Option (Fin 64)) (s : State) : Out :=
  let l := s.cairn.layers[entry]
  let spent : Bool := match group with | some g => decide (2 ≤ (l.gspare[g]).toNat) | none => l.lgroup != 0
  if l.state = 2 ∨ spent = false then .next s else .next (s.loseLayer entry group)

namespace State

/-- Nothing that waited for a lost core's accesses waits longer. DEDUCED: log entry 48. -/
def dropWaits (s : State) (r : Fin 288) : State :=
  { s with adds := s.adds.map fun (a : BarrierAdd) => if a.from_ == some r then { a with after := [] } else a }

/-- Tasks of a context that are lost with their core: chunks are dealt again whole, the others are lost with one record
(R385). DEDUCED: log entry 49. -/
def loseHeld (s : State) (r : Fin 288) (id : BitVec 16) (held : List (Option ChunkRef)) : State :=
  let chunk (k : Option ChunkRef) : Option ChunkRef := k.bind fun ch => if ch.member then none else some ch
  let chunks := held.filterMap chunk
  let others := held.filter fun k => (chunk k).isNone
  let s1 := chunks.foldl (fun (s : State) ch => s.modJob ch.job fun j =>
    { j with open_ := j.open_.filter fun o => o != (r.val, ch.first), redeal := j.redeal ++ [(ch.first, ch.count)] }) s
  -- a member's task ends with its core
  let s2 := (others.filterMap fun k => k).foldl (fun (s : State) ch => s.chunkEnded r (some ch) none) s1
  if others.isEmpty then s2 else s2.record id { FaultRec.zero with src := 2, reason := 8, rank := r.val }

/-- The tasks of a lost core (R385). DEDUCED: log entry 49. -/
def loseTasks (s : State) (r : Fin 288) : State :=
  let c := s.core r
  let held := (c.tasks.slots.toList.filterMap fun t => if t.st == .empty || t.st == .reserved then none else some t.chunk)
    ++ c.tasks.writes.map fun w => w.chunk
  s.loseHeld r c.ctxid held

/-- The tasks that contexts which are not resident keep parked for a lost core (R368, R385). DEDUCED: log entry 49. -/
def loseParked (s : State) (r : Fin 288) : State :=
  s.contexts.foldl (fun s x =>
    let mine := x.parked.filter fun p => p.1 == r.val
    let held := mine.flatMap fun p => p.2.toList.filterMap fun t =>
      if t.st == .empty || t.st == .reserved then none else some t.chunk
    let gone (p : Nat × Vector TaskSlot 32) : Nat × Vector TaskSlot 32 :=
      if p.1 == r.val then (p.1, Vector.replicate 32 TaskSlot.init) else p
    (s.loseHeld r x.id held).modCtx x.id fun c => { c with parked := c.parked.map gone }) s

end State

/-- CORE_LOST, of which the loss of a terrace 0 bank is one (R385). DEDUCED: log entry 49. -/
def State.loseCore (s : State) (r : Fin 288) (why : HistReason) : State :=
  if !s.cairn.live[r] then s
  else
    let gang := (s.core r).gang
    let s1 := s.publish 2 3 r.val (reasonCode why) fun cn =>
      { cn with live := cn.live.set r false, stationLost := cn.stationLost.set r true }
    if s1.cairn.version = s.cairn.version then s1
    else
      let s2 := (((s1.loseTasks r).loseParked r).dropWaits r).openAll r
      let s3 := s2.modCore r fun c =>
        { c.leaveStop s.now with live := false, mem := MemSide.init, tasks := Tasks.init, pending := Pending.init, recoverBy := none }
      let s4 : State :=
        { s3 with
          gangs := s3.gangs.map fun (g : GangFreeze) => { g with toTake := g.toTake.filter (· != r.val) }
          resumes := (s3.resumes.map fun (g : GangResume) => { g with ranks := g.ranks.filter (· != r.val) }).filter fun g =>
            !g.ranks.isEmpty }
      (s4.owesCairn fun _ c => gang.isSome && c.gang == gang)

/-- CORE_LOST. -/
def execCoreLost (r : Fin 288) (why : HistReason) (s : State) : Out := .next (s.loseCore r why)

/-- STATION_LOST: the station becomes pass-through; captures that still wait there end with RINGFAULT (R85).
DEDUCED: log entry 48. Their FAUX names the track that each has, a keyed one's too. DESIGN CHOICE: log entry 83. -/
def State.loseStation (s : State) (r : Fin 288) (why : HistReason) : State :=
  if s.cairn.stationLost[r] then s
  else
    let s1 := s.publish 2 4 r.val (reasonCode why) fun cn => { cn with stationLost := cn.stationLost.set r true }
    if s1.cairn.version = s.cairn.version then s1
    else
      let s2 := (s1.core r).mem.captures.foldl (fun (s : State) k =>
        let t := s.capEnd r k (.ringFault k.track.val k.absentSlot 2)
        if k.op = .alt then t.portDone r (k.id + 1) else t) s1
      (s2.owesCairn fun q _ => q == r.val)

/-- STATION_LOST. -/
def execStationLost (r : Fin 288) (why : HistReason) (s : State) : Out := .next (s.loseStation r why)

/-- Positions that a re-forming may assign (R86, R379): 1 to 1,023, none shared by live stations, ascending on a die. -/
def positionsOk (pos : Vector (BitVec 10) 288) (lost : Vector Bool 288) : Bool :=
  (List.finRange 288).all fun a => pos[a] != 0 &&
    (List.finRange 288).all fun b => !(decide (a.val < b.val))
      || ((lost[a] || lost[b] || pos[a] != pos[b]) && (a.val / 72 != b.val / 72 || (pos[a]).ult pos[b]))

/-- Contexts that hold a BOARDED slot; a BROKEN slot is held by none. DESIGN CHOICE: log entry 76. -/
def holdersOf (slots : Vector RingSlot 8192) : List (BitVec 16) :=
  (slots.toList.filterMap fun x => if x.st == .boarded then some x.ctxid else none).eraseDups

/-- RING_REFORM: every slot is lost, positions are new, and each context that held slots gets one record (R69, R86,
R390). -/
def execRingReform (pos : Vector (BitVec 10) 288) (why : HistReason) (s : State) : Out :=
  if !positionsOk pos s.cairn.stationLost then .next s
  else
    let s1 := s.publish 2 5 0 (reasonCode why) fun cn => { cn with pos := pos }
    if s1.cairn.version = s.cairn.version then .next s1
    else
      let saved := match s.saved with
        | some v => if v.fresh && !v.ringLost then holdersOf (s.savedRing v).ring else []
        | none => []
      let held := (holdersOf s.ring.slots ++ saved).eraseDups
      let s2 : State :=
        { s1 with
          ring := { s1.ring with slots := Vector.replicate 8192 RingSlot.init, phase := 0 }
          saved := s1.saved.map fun v => { v with ringLost := v.ringLost || v.fresh } }
      let s3 := held.foldl (fun (s : State) id =>
        s.record id { FaultRec.zero with cause := Cause.ringfault.code, src := 2, reason := 8 }) s2
      .next (s3.owesCairn fun _ _ => true)

namespace State

/-- An LPDDR address lies in region g. -/
def inRegion (g a : Nat) : Bool := a / 2 ^ 36 == g

/-- A context's page tables, a byte of its fault buffer or its frame area lies in a region (R385). -/
def leansOn (s : State) (x : Context) (g : Nat) : Bool :=
  (s.tablesFrom walkLevels x.ptroot).any (fun t => inRegion g t.1)
    || ((s.physical x (ptrOff x.fbuf) (64 + 64 * x.fbufn)).any fun p =>
          p.1 == .lpddr && (inRegion g p.2.1 || inRegion g (p.2.1 + p.2.2 - 1)))
    || (List.range x.cores.length).any fun i => inRegion g (x.frames + 0x4200000 * i) || inRegion g (x.frames + 0x4200000 * (i + 1) - 1)

end State

/-- CHANNEL_LOST: the channel's region of 64 GiB is lost, and contexts that lean on it are suspended (R383, R385, R389). -/
def State.loseChannel (s : State) (ch : Fin 48) (why : HistReason) : State :=
  if !s.cairn.chan.getLsbD ch.val then s
  else
    let g := ch.val / 4
    let hit := s.contexts.filter fun x => s.leansOn x g
    let s1 := s.publish 2 6 ch.val (reasonCode why) fun cn =>
      { cn with chan := cn.chan &&& ~~~(1#48 <<< ch.val), region := cn.region &&& ~~~(1#12 <<< g) }
    if s1.cairn.version = s.cairn.version then s1
    else
      (hit.foldl (fun (s : State) x =>
        let s1 := s.modCtx x.id fun c => { c with stale := true }
        if x.resident.isSome && (s.evictionOf x.id).isNone then
          let e : Eviction :=
            { ctxid := x.id, cause := .mapstale, faux := s.cairn.version.setWidth 64, destroy := false, preempt := false,
              commanded := false }
          s1.startEvict e
        else s1) s1)

/-- CHANNEL_LOST. -/
def execChannelLost (ch : Fin 48) (why : HistReason) (s : State) : Out := .next (s.loseChannel ch why)

/-- A Svamus port is lost: its bit goes, and the flits that its replay buffer holds leave by the next port of their routes,
so no byte is lost (R377, R398, R401). -/
def State.losePort (s : State) (p : Fin 16) (why : HistReason) : State :=
  if !s.cairn.port.getLsbD p.val then s
  else
    let s1 := s.publish 2 7 p.val (reasonCode why) fun cn => { cn with port := cn.port &&& ~~~(1#16 <<< p.val) }
    if s1.cairn.version = s.cairn.version then s1
    else
      s.links[p].unacked.foldl passOn { s1 with links := vecMod s1.links p.val fun l => { l with unacked := [] } }

/-- PORT_LOST (R398). -/
def execPortLost (p : Fin 16) (why : HistReason) (s : State) : Out := .next (s.losePort p why)

/-- RECOVERY_POINT of a core with no RUNNING task, 64 cycles after a publication; a task that it has committed itself to and
that has not started does not start under an older version (R384). -/
def execRecoveryPoint (r : Fin 288) (s : State) : Out :=
  if s.recoveryDue r then .next ((s.uncommit r).recover r) else .next s

/-! ## Errors of memory (R356, R367, R381, R402) -/

/-- UNIT of R356. -/
def unitCode (u : ErrUnit) : Nat :=
  match u with
  | .t0 => 0 | .layer => 1 | .lpddr => 2 | .vregs => 3 | .sregs => 4 | .acc => 5 | .landbuf => 6

/-- One more corrected error in an error word (R402). -/
def oneCorrected (p : Nat × Nat) : Nat × Nat := (min (p.1 + 1) (2 ^ 32 - 1), p.2)

/-- One more uncorrected error in an error word (R402). -/
def oneUncorrected (p : Nat × Nat) : Nat × Nat := (p.1, min (p.2 + 1) (2 ^ 32 - 1))

namespace State

/-- An uncorrectable error is counted in the error word of its terrace 0, bank group or LPDDR channel (R402).
DEDUCED: log entry 55. -/
def countUncorr (s : State) (r : Fin 288) (unit : ErrUnit) (line : W64) : State :=
  let sc := s.scree
  match unit with
  | .t0 => { s with scree := { sc with t0Err := vecMod sc.t0Err r.val oneUncorrected } }
  | .layer =>
    let e := layerOf line
    let group := bankOf (.layer e) (ptrOff line) / groupSize e
    { s with scree := { sc with bankErr := vecMod sc.bankErr (64 * e + group) oneUncorrected } }
  | .lpddr => match s.ctx? (s.core r).ctxid with
    | none => s
    | some x => match s.translate none x (ptrOff line) false with
      | .ok (.lpddr, pa, _) =>
        { s with scree := { sc with chanErr := vecMod sc.chanErr (pa / 2 ^ 36 * 4 + pa / 256 % 4) oneUncorrected } }
      | _ => s
  | _ => s

/-- A bank of T1-T4 that yields an uncorrectable error is retired, and the line reaches the spare as poison; an error that
is such poison retires nothing more (R381). -/
def spoilLine (s : State) (unit : ErrUnit) (line : W64) : State :=
  let k := layerOf line
  if h : k < 16 then
    let off := ptrOff line / 128 * 128
    let keys := (List.range 128).map fun j => (Place.layer k).key (off + j)
    if unit != .layer || keys.any (fun x => s.poison.contains x) then s
    else
      let s1 := s.retireNumber ⟨k, h⟩ (bankOf (.layer k) off) .uncorrectable
      if (s1.cairn.layers[k]).state = 2 then s1 else { s1 with poison := keys ++ s1.poison }
  else s

/-- The tests of TASKQ and COPY words whose latches are about to be dropped are made at once: the words have issued
(R173, R242). -/
def testNow (s : State) (r : Fin 288) : State :=
  ((s.core r).pipe.latches.foldl (fun s l => match l.kind with
    | .taskqTest _ target desc pre => (s.taskqTest r l.issue target desc pre).1
    | .engineTest _ eng _ off true => (s.copyTest r l.issue eng off).1
    | _ => s) s).openAll r

/-- The running task starts again from cycle 0 without its start conditions (R364, R367). What its words have sent to memory
and to the ring goes on; its landings, its terrace 0 stores and its latches are dropped. DEDUCED: log entry 78. -/
def rerun (s : State) (r : Fin 288) (run : Running) : State :=
  let s0 := (s.backTo r false).testNow r
  let c := s0.core r
  let drops (a : Access) : Bool :=
    c.owns a && !a.owes && (match a.kind with | .read .. => true | .store _ => a.under.isEmpty | _ => false)
  let gone := (c.mem.port.filter drops).map (·.id)
  let s1 := gone.foldl (fun s id => s.portDone r id) s0
  let wait := descAlignq (fun i => run.desc[i]?.getD 0) && s.ring.phase % 1024 != 0
  let s2 := s1.modCore r fun c =>
    let k := State.freshCore r.val { c with freeze := none } run.desc run.chunk fun _ => State.StreamPos.first
    { k with
      mem := { k.mem with landings := [] }
      tasks := { k.tasks with run := some { run with aligned := wait, mode := .restart } }
      pending := { k.pending with rerun := false } }
  (s2.modSlot r run.slot fun t => { t with reruns := t.reruns + 1, settledAt := none }).fetchFirst r

/-- The rerun's record is written, and the task starts again; while the record has no place the core waits, its task
stopped (R350, R367). DEDUCED: log entry 93. -/
def rerunTry (s : State) (r : Fin 288) (run : Running) : State :=
  let id := (s.core r).ctxid
  let s := match (s.core r).freeze with | some f => s.lateStop r f.since | none => s
  let s1 := s.record id
    { FaultRec.zero with cause := Cause.uncorr.code, src := 3, reason := 9, rank := r.val, slot := run.slot.val }
  if s.overflows s1 id then s.modCore r fun c => { c with freeze := none, pending := { c.pending with rerun := true } }
  else s1.rerun r run

/-- A core whose rerun waits for the place of its record tries again. -/
def rerunHeld (s : State) (r : Fin 288) : State :=
  match (s.core r).tasks.run with
  | some run => if (s.core r).pending.rerun then s.rerunTry r run else s
  | none => s

end State

/-- UNCORR: an uncorrectable error is counted, and retires its bank of T1-T4. A running task consumes it: it is rerun from
cycle 0, at most twice, with a record and no frame, or it stops with a frame that cannot be resumed (R367). An error that no
task consumes changes no task; a task that waits for its rerun consumes nothing. -/
def execUncorr (r : Fin 288) (unit : ErrUnit) (line : W64) (index : BitVec 16) (s : State) : Out :=
  let s0 := s.modCore r fun c => { c with pending := { c.pending with uncorr := none } }
  let s := (s0.countUncorr r unit line).spoilLine unit line
  let c := s.core r
  match c.tasks.run with
  | none => .next s
  | some run =>
    if c.stop.isSome || run.aligned || c.pending.rerun then .next s
    else
      let t := s.slotOf r run.slot
      let faux := w64 (c.sp.cyc % 2 ^ 32 * 2 ^ 32 + unitCode unit * 2 ^ 16 + index.toNat)
      if (run.desc[0]).getLsbD 10 && decide (t.reruns < 2) then .next (s.rerunTry r run)
      else .next (s.stopCore r .uncorr .trap c.sp.cyc line faux false)

/-- An error is corrected: it is counted, and the 256th of a T1-T4 bank within 3,600 s retires the bank (R83, R381, R402).
DEDUCED: log entry 55. -/
def State.corrected (s : State) (c : Corrected) : State :=
  let sc := s.scree
  match c with
  | .slot t => { s with scree := { sc with ringErr := vecMod sc.ringErr t.val oneCorrected } }
  | .channel n => { s with scree := { sc with chanErr := vecMod sc.chanErr n oneCorrected } }
  | .t0 n => { s with scree := { sc with t0Err := vecMod sc.t0Err n oneCorrected } }
  | .bank n =>
    let k := n / 4096
    let b := n % 4096
    if h : k < 16 then
      if 64 * State.groupSize k ≤ b then s
      else
        let s1 := { s with scree := { sc with bankErr := vecMod sc.bankErr (64 * k + b / State.groupSize k) oneCorrected } }
        let recent := (n, s.now) :: s.bankTimes.filter fun x => decide (s.now < x.2 + 4320000000000)
        if 256 ≤ (recent.filter fun x => x.1 == n).length then
          ({ s1 with bankTimes := recent.filter fun x => x.1 != n } : State).retireNumber ⟨k, h⟩ b .correctedRate
        else { s1 with bankTimes := recent }
    else s

/-! ## The mirror page (R375-R380, R388) -/

/-- Words of a history entry (R380). -/
def HistEntry.word (h : HistEntry) (i : Nat) : W64 :=
  match i with
  | 0 => w64 (h.version.toNat * 2 ^ 32 + h.cls * 2 ^ 30 + h.res * 2 ^ 20 + h.index)
  | 1 => h.tick.setWidth 64
  | 2 => w64 h.reason
  | _ => 0

/-- Words of a layer entry (R378). -/
def Layer.word (l : Layer) (i : Nat) : W64 :=
  match i with
  | 0 => w64 (l.state * 2 ^ 62 + l.size)
  | 1 | 2 => w64 ((List.range 32).foldl (fun n g => n + ((l.gspare[32 * (i - 1) + g]?).getD 0).toNat * 4 ^ g) 0)
  | 3 => w64 (l.lostVer.toNat * 2 ^ 32 + l.lanes)
  | _ => if i < 12 then l.lgroup.extractLsb' (64 * (i - 4)) 64 else 0

/-- A BAR4 read of the mirror, which is answered once the base controller is ready (R326, R343). -/
def State.mirrorRead (s : State) (off : Nat) : W64 :=
  let cn := s.cairn
  if off % 8 ≠ 0 || !s.base.ready then 0
  else if off < 0x40 then
    match off / 8 with
    | 0 => cn.seq ++ cn.version
    | 1 => cn.pubTick.setWidth 64
    | 2 => w64 (cn.lastShrink.toNat * 2 ^ 32 + 1200 * 2 ^ 16 + cn.cls)
    | _ => 0
  else if off < 0x68 then
    w64 ((List.range 64).foldl (fun n b => if (cn.live[64 * ((off - 0x40) / 8) + b]?).getD false then n + 2 ^ b else n) 0)
  else if off = 0x68 then cn.chan.setWidth 64
  else if off = 0x70 then cn.region.setWidth 64
  else if off = 0x78 then cn.port.setWidth 64
  else if 0x100 ≤ off ∧ off < 0x900 then
    match cn.layers[(off - 0x100) / 128]? with | some l => l.word ((off - 0x100) % 128 / 8) | none => 0
  else if 0x900 ≤ off ∧ off < 0xB40 then
    let r := (off - 0x900) / 2
    w64 ((List.range 4).foldl (fun n i =>
      n + (((cn.pos[r + i]?).getD 0).toNat + (if (cn.stationLost[r + i]?).getD false then 2 ^ 15 else 0)) * 2 ^ (16 * i)) 0)
  else if 0xC00 ≤ off ∧ off < 0x8C00 then
    match (cn.history.take 1024).find? fun h => h.version.toNat % 1024 == (off - 0xC00) / 32 with
    | some h => h.word ((off - 0xC00) % 32 / 8)
    | none => 0
  else if 0x8C00 ≤ off ∧ off < 0x8E00 then
    match s.contexts.find? fun c => c.resident == some (BitVec.ofNat 6 ((off - 0x8C00) / 8)) with
    | some c => w64 (c.id.toNat * 2 ^ 48 + 2 ^ 32 + c.ackv.toNat)
    | none => 0
  else 0

end Sys2Proof.Machine
end

