-- ==== Sys2Proof/Machine/Fleet.lean ====
section
/-! DEFINITION. Package time, the management port, Svamus links, the scree, power (R395-R408), and words that no encoding
assigns (R141). -/

namespace Sys2Proof.Machine

/-! ## TICK (R395) -/

namespace State

/-- Members of a gang whose context is not resident when its start tick comes miss their start (R24, R25).
DEDUCED: log entry 52. -/
def missParked (s : State) (x : Context) : State :=
  let due (r n : Nat) (t : TaskSlot) : Bool :=
    let d (i : Nat) : W64 := s.rawWord .lpddr (x.block r + t0Top + 64 * n + 8 * i)
    (t.st == .waiting || t.st == .runnable) && t.mode == .fresh && descGang d && descTick d == s.tick.extractLsb' 0 48
  let missed := x.parked.flatMap fun (p : Nat × Vector TaskSlot 32) =>
    (List.finRange 32).filterMap fun n => if due p.1 n.val p.2[n] then some (p.1, n, (p.2[n]).chunk) else none
  missed.foldl (fun s m =>
    let s1 := s.modTask x m.1 m.2.1.val fun _ => TaskSlot.init
    match m.2.2 with
    | some ch => s1.modJob ch.job fun j =>
        { j with missed := some (min ch.first (j.missed.getD ch.first)), open_ := j.open_.filter fun o => o != (m.1, ch.first) }
    | none => s1.record x.id { FaultRec.zero with src := 2, reason := 10, rank := m.1, slot := m.2.1.val }) s

/-- What a core cycle adds to the fractional accumulator, of the 12 * 10^8 that make a tick: 10^8 at the nominal rate,
corrected in units of 0.01 ppm (R395, R396). DEDUCED: log entry 79. -/
def tickRate (s : State) : Nat := ((100000000 : Int) + s.ptp.slew.toInt).toNat

/-- Core cycles to the next increment of TICK: the fewest that fill the accumulator (R395). -/
def tickGap (s : State) : Nat := (1200000000 - s.tickAcc + s.tickRate - 1) / s.tickRate

/-- The start tick is over: a member that missed it leaves its slot EMPTY (R25), and the reservation of a core for that
tick ends (R26). -/
def endTickSlots (slots : Vector TaskSlot 32) : Vector TaskSlot 32 :=
  slots.map fun t => if t.missed then TaskSlot.init else t

/-- A lane is retired: it is counted, and a port that falls below 4 of its 8 lanes is lost (R398). -/
def retireLane (s : State) (port : Fin 16) : State :=
  let n := min ((s.scree.portLanes[port]) + 1) 65535
  let s1 : State := { s with scree := { s.scree with portLanes := s.scree.portLanes.set port n } }
  if 8 < n + 4 then s1.losePort port .linkTraining else s1

/-- Core cycles of 60 s: the span over which R398 counts a port's replays, and between two saves of the scree (R402). -/
def linkSpan : Nat := 72000000000

/-- The 60 s under way end: a port whose replays exceeded 1 in 10^6 flits retires a lane (R398). DEDUCED: log entry 80. -/
def judgeLinks (s : State) : State :=
  if s.now < s.linksDue then s
  else
    ((List.finRange 16).filter fun p => decide (s.links[p].flits < s.links[p].replays * 1000000)).foldl retireLane
      { s with links := s.links.map fun l => { l with flits := 0, replays := 0 }, linksDue := s.now + linkSpan }

end State

/-- TICK advances by exactly 1; the accumulator places the next increment (R395). The tick that ends takes with it the slots
of members that missed it and the reservations made for it (R25, R26); the time of power-on is counted (R402), and the links
are judged (R398). DEDUCED: log entry 52. -/
def execTick (s : State) : Out :=
  if s.now < s.tickDue then .next s
  else
    let t := s.tick + 1
    let free (c : Core) : Core :=
      { c with tasks := { c.tasks with
          slots := State.endTickSlots c.tasks.slots
          reserved := match c.tasks.reserved with
            | some k => if k ≠ 0 ∧ k < t.toNat then none else some k
            | none => none } }
    let s1 : State := { s with
      tick := t, tickDue := s.now + s.tickGap, tickAcc := s.tickAcc + s.tickGap * s.tickRate - 1200000000
      cores := s.cores.map free, scree := { s.scree with upTime := s.scree.upTime + s.tickGap }
      contexts := s.contexts.map fun (x : Context) =>
        { x with parked := x.parked.map fun p => (p.1, State.endTickSlots p.2) } }
    let away := s1.contexts.filter fun x => x.resident.isNone
    .next (away.foldl (fun s x => s.missParked x) s1).judgeLinks

/-- The rate correction for an offset from the master, in units of 0.01 ppm (R396): against the offset, so fast that a second
takes the offset out or else the full 50 ppm, and no faster than that; the rest is open. DESIGN CHOICE: log entry 12. -/
def slewFor (offsetNs : Int) (draw : Nat) : Int :=
  let least := min 5000 ((offsetNs.natAbs + 9) / 10)
  let rate : Int := (least + draw % (5001 - least) : Nat)
  if offsetNs = 0 then (draw % 10001 : Nat) - 5000 else if 0 < offsetNs then -rate else rate

/-- PTP_SYNC: the measured offset is shown, the tick rate corrected by at most 50 ppm, and the clock is locked after 16
offsets below 20 ns; TICK is loaded at the first lock after reset if no context has been resident (R396). -/
def execPtpSync (offsetNs : Int) (taiNs : Nat) (s : State) : Out :=
  let good := if offsetNs.natAbs < 20 then s.ptp.good + 1 else 0
  let locked : Bool := decide (16 ≤ good)
  let load : Bool := locked && !s.ptp.loaded && !s.base.everResident
  let slew := slewFor offsetNs (Config.delay .slew s.serial)
  let s1 : State := { s with
    tick := if load then w64 (taiNs / 10) else s.tick
    ptp := { locked := locked, loaded := s.ptp.loaded || load, slew := BitVec.ofInt 16 slew
             offset := BitVec.ofInt 32 offsetNs, good := good } }
  .next s1.bump

/-- The link-local IPv6 address that RFC 4862 forms from the port's MAC address: fe80::/64 and the EUI-64 identifier, with
its universal bit inverted (R400). -/
def Mgmt.ipv6 (m : Mgmt) : BitVec 128 :=
  let oui := m.mac.extractLsb' 24 24 ^^^ 0x020000#24
  0xFE80000000000000#64 ++ (oui ++ 0xFFFE#16 ++ m.mac.extractLsb' 0 24)

/-- The time status word (R396). -/
def Ptp.word (p : Ptp) : W64 :=
  w64 ((if p.locked then 2 ^ 63 else 0) + (if p.loaded then 2 ^ 62 else 0) + p.slew.toNat * 2 ^ 32 + p.offset.toNat)

/-! ## The management port (R399, R400) -/

/-- Bytes of a reply. -/
def replyBytes (d : Datagram) (status : Nat) (body : List Byte) : List Byte :=
  leBytes 2 0x9140 ++ [d.op] ++ leBytes 1 status ++ leBytes 4 d.seq.toNat ++ leBytes 2 body.length ++ List.replicate 6 0 ++ body

/-- Operations of R400. -/
def knownOp (op : Byte) : Bool := [0x01, 0x02, 0x11, 0x12, 0x20, 0x21].contains op.toNat

/-- The 4 bytes of a routing entry. -/
def routeBytes (w : BitVec 32) : List Byte := leBytes 4 w.toNat

/-- A port of a routing entry: 0 to 15, or 0xFF for none. -/
def portByteOk (b : Byte) : Bool := decide (b.toNat < 16) || b == 0xFF

/-- FIRST and COUNT of GETROUTE and STAGEROUTE, if they are in range and the other bits zero. -/
def routeSpan (body : List Byte) : Option (Nat × Nat) :=
  let w := leValue (body.take 4)
  let first := w % 4096
  let count := w / 65536 % 4096
  if w / 4096 % 16 = 0 ∧ w / 2 ^ 28 = 0 ∧ 1 ≤ count ∧ count ≤ 256 ∧ first + count ≤ 4096 then some (first, count) else none

namespace State

/-- A reply is sent to the request's source, and kept for a request repeated. -/
def reply (s : State) (d : Datagram) (status : Nat) (body : List Byte) : State :=
  let bs := replyBytes d status body
  { s with mgmt := { s.mgmt with
    lastSource := some (d.source, d.seq), lastReply := bs, sent := s.mgmt.sent ++ [(d.source, bs)] } }

/-- The header of a request and its LEN are good; LEN depends on OP, and for STAGEROUTE on COUNT.
DEDUCED: log entry 58. -/
def requestOk (d : Datagram) : Bool :=
  let len := match d.op.toNat with
    | 0x02 => 4
    | 0x11 => 8
    | 0x12 => 4 + 4 * (leValue (d.body.take 4) / 65536 % 4096)
    | 0x20 => 2540
    | _ => 0
  d.magic == 0x9140 && knownOp d.op && d.status == 0 && d.resv == 0 && d.len == d.body.length && d.len == len

/-- A request of an operation: repeated, it draws the previous reply; with a bad header or LEN it draws STATUS 1. -/
def onRequest (s : State) (op : Nat) (d : Datagram) (f : State → State) : Out :=
  if d.op.toNat ≠ op then .next s
  else if s.mgmt.lastSource = some (d.source, d.seq) then
    .next { s with mgmt := { s.mgmt with sent := s.mgmt.sent ++ [(d.source, s.mgmt.lastReply)] } }
  else if !requestOk d then .next (s.reply d 1 [])
  else .next (f s)

end State

/-- GETNUM. -/
def execGetnum (d : Datagram) (s : State) : Out :=
  s.onRequest 0x01 d fun s => s.reply d 0 (leBytes 8 s.mgmt.number.toNat)

/-- GETROUTE. -/
def execGetroute (d : Datagram) (s : State) : Out :=
  s.onRequest 0x02 d fun s => match routeSpan d.body with
    | none => s.reply d 1 []
    | some (first, count) => s.reply d 0 ((s.mgmt.routes.toList.drop first).take count |>.flatMap routeBytes)

/-- STAGENUM. -/
def execStagenum (d : Datagram) (s : State) : Out :=
  s.onRequest 0x11 d fun s =>
    let n := leValue d.body
    if 4096 ≤ n then s.reply d 1 []
    else ({ s with mgmt := { s.mgmt with stagedNumber := BitVec.ofNat 12 n } } : State).reply d 0 []

/-- STAGEROUTE. -/
def execStageroute (d : Datagram) (s : State) : Out :=
  s.onRequest 0x12 d fun s => match routeSpan d.body with
    | none => s.reply d 1 []
    | some (first, count) =>
      let es := d.body.drop 4
      if !es.all portByteOk then s.reply d 1 []
      else
        let entry (i : Nat) : BitVec 32 := BitVec.ofNat 32 (leValue ((es.drop (4 * i)).take 4))
        let routes := s.mgmt.stagedRoutes.mapIdx fun j w => if first ≤ j ∧ j < first + count then entry (j - first) else w
        ({ s with mgmt := { s.mgmt with stagedRoutes := routes } } : State).reply d 0 []

/-- The authorisation block of a COMMIT holds over the staged number and table (R343, R400). -/
def State.commitAuthorised (s : State) (body : List Byte) : Bool :=
  match s.base.ownerKey with
  | none => false
  | some key =>
    let h := Config.sha256 (leBytes 8 s.mgmt.stagedNumber.toNat ++ s.mgmt.stagedRoutes.toList.flatMap routeBytes)
    body.take 32 == h && Config.lmsVerify key h (body.drop 32)

/-- COMMIT puts the staged number and table in use in one step (R399, R400). DEDUCED: log entry 58. -/
def execCommit (d : Datagram) (s : State) : Out :=
  s.onRequest 0x20 d fun s =>
    if !s.commitAuthorised d.body then s.reply d 7 []
    else if s.contexts.any fun x => x.resident.isSome then s.reply d 8 []
    else ({ s with mgmt := { s.mgmt with number := s.mgmt.stagedNumber, routes := s.mgmt.stagedRoutes } } : State).reply d 0 []

/-- DISCARD. -/
def execDiscard (d : Datagram) (s : State) : Out :=
  s.onRequest 0x21 d fun s =>
    ({ s with mgmt := { s.mgmt with stagedNumber := s.mgmt.number, stagedRoutes := s.mgmt.routes } } : State).reply d 0 []

/-- BAD_OP: a datagram with a bad header, OP or LEN draws a reply with STATUS 1 and changes nothing. -/
def execBadOp (d : Datagram) (s : State) : Out :=
  if State.requestOk d then .next s
  else if s.mgmt.lastSource = some (d.source, d.seq) then
    .next { s with mgmt := { s.mgmt with sent := s.mgmt.sent ++ [(d.source, s.mgmt.lastReply)] } }
  else .next (s.reply d 1 [])

/-- DHCP_OFFER gives the management port its IPv4 address. -/
def execDhcpOffer (addr : BitVec 32) (s : State) : Out := .next { s with mgmt := { s.mgmt with ipv4 := some addr } }

/-! ## Svamus links (R398, R399, R401) -/

namespace State

/-- Replays of a port, in the scree and in the 60 s under way (R398). DEDUCED: log entry 80. -/
def countReplays (s : State) (port : Fin 16) (n : Nat) : State :=
  { s with
    scree := { s.scree with replays := vecMod s.scree.replays port.val (· + n) }
    links := vecMod s.links port.val fun l => { l with replays := l.replays + n } }

/-- Flits have come in by a port: they are acknowledged, or refused where they fail their CRC (R398). -/
def countFlit (s : State) (port : Fin 16) (flits : Nat) (crcOk : Bool) : State :=
  let s1 : State := { s with links := vecMod s.links port.val fun l =>
    { l with flits := l.flits + flits, acked := if crcOk then l.acked + flits else l.acked
             naked := if crcOk then l.naked else l.naked + flits } }
  if crcOk then s1 else s1.countReplays port flits

/-- The other end of a port has taken the oldest entries of its replay buffer (R398). -/
def linkAck (s : State) (port : Fin 16) (n : Nat) : State :=
  { s with links := vecMod s.links port.val fun l => { l with unacked := l.unacked.drop n } }

/-- The oldest entry of a port's replay buffer fails its CRC at the other end: it is sent again (R398). -/
def linkNak (s : State) (port : Fin 16) : State :=
  match s.links[port].unacked with
  | [] => s
  | f :: _ =>
    let s1 : State := { s with
      sent := s.sent ++ [f]
      links := vecMod s.links port.val fun l => { l with flits := l.flits + flitCount f.bytes } }
    s1.countReplays port (flitCount f.bytes)

/-- What another package asks of this one is answered: the walk's REASON, or the bytes (R401). -/
def answerFlit (s : State) (x : Flit) (kind : FlitKind) (bs : List Byte) : State :=
  s.sendFlit x.src.toNat kind x.ctxid x.world x.off bs

/-- A flit for this package writes or reads by the page tables of the context it names, resident or not; without such a
context of the flit's world the walk ends with REASON 4 (R401). An answer is taken: what it brings the issuing chain drew
when it asked. DEDUCED: log entry 39. DESIGN CHOICE: log entry 56. -/
def serveFlit (s : State) (x : Flit) : State :=
  let walk (n : Nat) (write : Bool) (f : List (Place × Nat × Nat × Leaf) → State) : State :=
    match s.ctx? x.ctxid with
    | some c =>
      if c.secure = x.world then
        match s.translateSpan none c x.off n write with
        | .ok ps => f ps
        | .error (r, _, _) => s.answerFlit x (.failed r) []
      else s.answerFlit x (.failed 4) []
    | none => s.answerFlit x (.failed 4) []
  match x.kind with
  | .write => walk x.bytes.length true fun ps => (s.writePieces ps (x.bytes.map fun b => (b, true))).noteWrites ps
  | .read n => walk n false fun ps => s.answerFlit x .answer (s.readPieces ps)
  | .answer | .failed _ => s

end State

/-- FLIT_RECEIVE: a flit that fails its CRC is counted, and is sent again; one for another package is forwarded whole by the
first live port of its route (R398, R399, R401). -/
def execFlitReceive (port : Fin 16) (crcOk : Bool) (x : Flit) (s : State) : Out :=
  if !s.cairn.port.getLsbD port.val then .next s
  else
    let s1 := s.countFlit port (State.flitCount x.bytes) crcOk
    if !crcOk then .next s1
    else if x.dest = s.mgmt.number then .next (s1.serveFlit x)
    else .next (s1.passOn { dest := x.dest.toNat, src := x.src.toNat, port := port, kind := x.kind, ctxid := x.ctxid,
                            world := x.world, off := x.off, bytes := x.bytes })

/-- LINK_LANE_RETIRE is counted in the scree; a port that falls below 4 of its 8 lanes is lost (R398). -/
def execLinkLaneRetire (port : Fin 16) (s : State) : Out := .next (s.retireLane port)

/-! ## The scree (R402, R403) -/

/-- SCREE_SAVE: every 60 s the counters go to non-volatile storage. -/
def execScreeSave (s : State) : Out := .next { s with screeSaved := s.scree, saveDue := s.now + State.linkSpan }

/-- ORDERLY_SHUTDOWN writes them too. -/
def execOrderlyShutdown (s : State) : Out := .next { s with screeSaved := s.scree }

/-- One more sample in a bucket. -/
def sample (h : Vector Nat 32) (i : Int) : Vector Nat 32 := vecMod h (min 31 i.toNat) fun n => min (n + 1) (2 ^ 64 - 1)

/-- THERMAL_SAMPLE, in hundredths of a degree: bucket i holds [5i, 5i + 5). -/
def execThermalSample (centi : Int) (s : State) : Out :=
  .next { s with scree := { s.scree with thermal := sample s.scree.thermal (centi / 500) } }

/-- VOLTAGE_SAMPLE, in hundredths of a percent: bucket i holds [0.5i - 8, 0.5i - 7.5). -/
def execVoltageSample (centiPercent : Int) (s : State) : Out :=
  .next { s with scree := { s.scree with voltage := sample s.scree.voltage ((centiPercent + 800) / 50) } }

/-- An error word. -/
def errorWord (p : Nat × Nat) : W64 := w64 (p.1 * 2 ^ 32 + p.2)

/-- A BAR4 read of the scree window at an offset from 0x1_0000, answered once the base controller is ready (R326, R343). -/
def State.screeRead (s : State) (off : Nat) : W64 :=
  let sc := s.scree
  let word {n : Nat} (v : Vector Nat n) (i : Nat) : W64 := w64 ((v[i]?).getD 0)
  let err {n : Nat} (v : Vector (Nat × Nat) n) (i : Nat) : W64 := errorWord ((v[i]?).getD (0, 0))
  let in_ (lo hi : Nat) : Bool := decide (lo ≤ off ∧ off < hi)
  if off % 8 ≠ 0 || !s.base.ready then 0
  else if off = 0 then w64 (2 ^ 48 + s.mgmt.number.toNat)
  else if off = 8 then w64 (sc.boots * 2 ^ 32 + min (sc.upTime / (60 * State.linkSpan)) (2 ^ 32 - 1))
  else if off = 0x10 then s.ptp.word
  else if off = 0x40 then w64 sc.vkat
  else if off = 0x48 then w64 sc.xkat
  else if off = 0x50 then sc.lastMiss
  else if off = 0x58 then sc.lastMissCtx.setWidth 64
  else if in_ 0x80 0xB0 then word sc.freezes ((off - 0x80) / 8)
  else if in_ 0x100 0x180 then word sc.lateness ((off - 0x100) / 8)
  else if in_ 0x180 0x280 then word sc.thermal ((off - 0x180) / 8)
  else if in_ 0x280 0x380 then word sc.voltage ((off - 0x280) / 8)
  else if in_ 0x380 0x3C0 then
    let p := (off - 0x380) / 4
    w64 (((sc.portLanes[p + 1]?).getD 0) * 2 ^ 48 + ((sc.portLanes[p]?).getD 0) * 2 ^ 16)
  else if in_ 0x3C0 0x400 then
    let e := (off - 0x3C0) / 4
    w64 (((sc.tsvLanes[e + 1]?).getD 0) * 2 ^ 32 + (sc.tsvLanes[e]?).getD 0)
  else if in_ 0x400 0x440 then err sc.ringErr ((off - 0x400) / 8)
  else if in_ 0x440 0x5C0 then err sc.chanErr ((off - 0x440) / 8)
  else if in_ 0x800 0x1100 then err sc.t0Err ((off - 0x800) / 8)
  else if in_ 0x2000 0x4000 then err sc.bankErr ((off - 0x2000) / 8)
  else if in_ 0x8000 0x10000 then
    match sc.history.find? fun h => h.version.toNat == (off - 0x8000) / 32 + 1 with
    | some h => h.word ((off - 0x8000) % 32 / 8)
    | none => 0
  else 0

/-- A BAR read: zero unless it is a naturally aligned one of 8 bytes; before READY only BAR0 answers (R325, R343). -/
def State.barRead (s : State) (bar off size : Nat) : W64 :=
  if size ≠ 8 || off % 8 ≠ 0 then 0
  else match bar with
    | 0 => s.bar0Read off
    | 2 => s.doorbellRead off
    | 4 => if off < 0x10000 then s.mirrorRead off else s.screeRead (off - 0x10000)
    | _ => 0

/-! ## Temperature and power (R402, R406-R408) -/

/-- THERMAL_PREEMPT: at 105 °C RESIDE is refused until the temperature falls, and whole-package pre-emption begins unless
it is under way (R370, R406). -/
def execThermalPreempt (s : State) : Out :=
  let s1 : State := { s with base := { s.base with hot := true } }
  if s1.preemptAt.isSome then .next s1 else .next (s1.preemptStep fun s => s)

/-- THERMAL_CLEAR: below 95 °C RESIDE is no longer refused. -/
def execThermalClear (s : State) : Out := .next { s with base := { s.base with hot := false } }

namespace State

/-- Every core as boot leaves it: live by the cairn, at the newest version (R373, R384). -/
def bootCore (cn : Cairn) (r : Fin 288) : Core :=
  { Core.init r.val with
    live := cn.live[r]
    view := { version := cn.version, pos := cn.pos[r], stationLost := cn.stationLost[r], sizes := cn.layers.map fun l => l.size } }

end State

/-- THERMAL_SHUTDOWN: the event is recorded in the scree, and the compute dies and stacks lose power: their cores, engines,
ring and memory are as boot leaves them, the ring at rest. The base controller goes on (R406). DESIGN CHOICE: log entry 94. -/
def execThermalShutdown (s : State) : Out :=
  let sc := { s.scree with shutdowns := s.scree.shutdowns + 1 }
  .next { s with
    scree := sc, screeSaved := sc, base := { s.base with powered := false }
    cores := Vector.ofFn fun r => State.bootCore s.cairn r, engines := State.reset.engines
    ring := { State.reset.ring with stopped := true }
    adds := [], gangs := [], bankq := [], resumes := [], poison := [], mem := memClear s.mem 0 (2 ^ 52) }

namespace State

/-- The machine without power: what stands in non-volatile storage, in fuses or in the host stays, the rest is gone.
DEDUCED: log entry 54. -/
def dark (s : State) : State :=
  { State.reset with
    now := s.now, serial := s.serial, tickDue := s.now + 12, mem := memClear s.mem 0 (2 ^ 53)
    linksDue := s.now + linkSpan, saveDue := s.now + linkSpan
    cairn := { s.cairn with seq := 0 }, scree := s.screeSaved, screeSaved := s.screeSaved
    mgmt := { Mgmt.init with
      number := s.mgmt.number, routes := s.mgmt.routes, stagedNumber := s.mgmt.number, stagedRoutes := s.mgmt.routes
      sent := s.mgmt.sent }
    base := { State.reset.base with
      alive := false, powered := false, ownerKey := s.base.ownerKey, nextLeaf := s.base.nextLeaf
      exhausted := s.base.exhausted }
    raised := s.raised, sent := s.sent, inputs := s.inputs }

/-- Regions of LPDDR memory that are populated whole: all of a 9140-M; of the other forms those that the integrator has
populated, if they are at least two (R1, R407). -/
def populatedRegions : List Nat :=
  if Config.isModule then List.range 12
  else
    let whole := (List.range 12).filter fun g => (List.range 4).all fun i => Config.populated.getLsbD (4 * g + i)
    if whole.length < 2 then [] else whole

/-- The cairn has published the loss of a channel (R383, R385). -/
def channelGone (s : State) (c : Nat) : Bool := s.cairn.history.any fun h => h.res == 6 && h.index == c

/-- Channels and regions of LPDDR memory that boot brings up: the populated regions whose four channels are not lost and
train (R1, R407). -/
def trained (s : State) (found : BitVec 48) : Cairn :=
  let regions := populatedRegions.filter fun g => (List.range 4).all fun i =>
    found.getLsbD (4 * g + i) && !s.channelGone (4 * g + i)
  { s.cairn with
    region := BitVec.ofNat 12 (regions.foldl (fun n g => n + 2 ^ g) 0)
    chan := BitVec.ofNat 48 (regions.foldl (fun n g => n + 15 * 16 ^ g) 0) }

/-- A degradation that boot self-test finds, by RES and INDEX of R380, is published (R373, R408). -/
def bootFault (s : State) (x : Nat × Nat) : State :=
  let entry : Fin 16 := ⟨x.2 / 2 ^ 16 % 16, Nat.mod_lt _ (by omega)⟩
  let rank : Fin 288 := ⟨x.2 % 288, Nat.mod_lt _ (by omega)⟩
  match x.1 with
  | 0 => s.retireBank entry ⟨x.2 / 1024 % 64, Nat.mod_lt _ (by omega)⟩ ⟨x.2 % 64, Nat.mod_lt _ (by omega)⟩ .bootTest
  | 1 => s.spareLane entry ⟨x.2 % 512, Nat.mod_lt _ (by omega)⟩ .bootTest
  | 3 => s.loseCore rank .bootTest
  | 4 => s.loseStation rank .bootTest
  | 6 => s.loseChannel ⟨x.2 % 48, Nat.mod_lt _ (by omega)⟩ .bootTest
  | 7 => s.losePort ⟨x.2 % 16, Nat.mod_lt _ (by omega)⟩ .linkTraining
  | _ => s

/-- The degradations that a stage of boot finds are published, in order of detection (R373, R408). -/
def bootStage (s : State) (found : List (Nat × Nat)) (stage : Nat → Bool) : State :=
  (found.filter fun x => stage x.1).foldl bootFault s

end State

/-- POWER_LOSS: volatile state and the counts since the last save are gone (R402). -/
def execPowerLoss (s : State) : Out := .next s.dark

/-- POWER_ON_RESET: reset, verified boot, self-test of cores, terraces and stations, training of LPDDR memory and then of the
ports, and READY unless a stage is refused or the cairn is exhausted (R326, R343, R373, R402, R407, R408).
DEDUCED: log entry 54. DESIGN CHOICE: log entry 63. -/
def execPowerOnReset (s : State) : Out :=
  let found := Config.bootFaults s.serial
  let s1 := (s.dark.bootStage found fun k => decide (k < 6)).bootStage found fun k => k == 6
  let s2 := ({ s1 with cairn := s1.trained (Config.trainedChannels s.serial) } : State).bootStage found fun k => k == 7
  let sc := { s2.scree with boots := min (s2.scree.boots + 1) (2 ^ 32 - 1) }
  let ok := Config.bootOk s.serial && !s2.base.exhausted
  let s3 : State := { s2 with
    scree := sc, screeSaved := sc
    base := { s2.base with
      alive := true, powered := true, ready := ok, secureMonitor := ok && Config.monitorRuns s.serial }
    cores := Vector.ofFn fun r => State.bootCore s2.cairn r }
  .next s3.bump

/-! ## Words that no encoding assigns (R141) -/

/-- UNASSIGNED_OPCODE: the word traps ILLOP, or WRONGSTREAM where it belongs to another stream, with no effect. -/
def execUnassignedOpcode (why : DecodeFail) (s : State) : Out :=
  match why with
  | .illop => .next (s.trapWord .illop)
  | .wrongStream => .next (s.trapWord .wrongstream)

end Sys2Proof.Machine
end

