-- ==== Sys2Proof/Machine/Cycle.lean ====
section
/-! DEFINITION. One package core cycle in its parts (R10, R137-R141): which event is due, the start of a cycle on each core,
the words that issue in it, and its end. Step puts the parts in order. -/

namespace Sys2Proof.Machine

/-! ## What the outside world may send -/

/-- An event that comes from outside: the host's accesses, failures of hardware, the management network, links, sensors,
power. Every other event of the table is one that the machine itself brings about. -/
def external (i : Instr) : Bool :=
  match i with
  | .cmd _ | .doorbell _ _ | .registerWrite _ _ | .bellerrRead | .misalignedBarAccess _ | .uncorr _ _ _ _ | .slotError _ _
  | .bankRetire _ _ _ _ | .laneSpare _ _ _ | .layerLost _ _ | .coreLost _ _ | .stationLost _ _ | .ringReform _ _
  | .channelLost _ _ | .portLost _ _ | .ptpSync _ _ | .getnum _ | .getroute _ | .stagenum _ | .stageroute _ | .commit _
  | .discard _ | .badOp _ | .dhcpOffer _ | .flitReceive _ _ _ | .linkLaneRetire _ | .thermalSample _ | .voltageSample _
  | .thermalPreempt | .thermalClear | .thermalShutdown | .powerOnReset | .orderlyShutdown | .powerLoss => true
  | _ => false

/-- The first core for which something is due. -/
def firstCore (p : Fin 288 → Option Instr) : Option Instr := (List.finRange 288).findSome? p

/-- The first engine for which something is due. -/
def firstEngine (p : Fin 96 → Option Instr) : Option Instr := (List.finRange 96).findSome? p

/-- An event, if its condition holds. -/
def when_ (p : Bool) (i : Instr) : Option Instr := if p then some i else none

namespace State

/-! ## Events due before a cycle begins -/

/-- The oldest signal from outside that is due. DESIGN CHOICE: log entry 50. -/
def dueInput (s : State) : Option (Nat × Input) := s.inputs.find? fun x => decide (x.1 ≤ s.now)

/-- Freezes, stops and arrivals of a core. -/
def coreEvent (s : State) (r : Fin 288) : Option Instr :=
  let c := s.core r
  let error := c.pending.uncorr.map fun u => Instr.uncorr r u.1 u.2.1 u.2.2
  if error.isSome then error
  else if c.pending.rerun then none
  else if s.recoveryDue r && c.stop.isNone then some (.recoveryPoint r)
  else if c.tasks.run.isNone && c.stop.isNone then none
  else if s.thaws r then some (.freezeEnd r)
  else if c.stop.isNone && s.expires r then some (.budgetExpiry r)
  else if (s.gangTakes r).isSome then some (.gangFreeze r)
  else if (s.owes r).isSome || s.frameReady r then some (.taskStop r)
  else if !c.active then none
  else if c.timerDue then some (.timer r)
  else match c.dueLandings with
    | l :: _ => some (match l.kind with | .capture .. => .captureResult r l.id | _ => .landingArrival r l.id)
    | [] => none

/-- Starts of tasks on a core, and what its slots wait for. -/
def taskEvent (s : State) (r : Fin 288) : Option Instr :=
  let c := s.core r
  let slots (p : TaskSlot → Bool) : List (Fin 32) := (List.finRange 32).filter fun n => p c.tasks.slots[n]
  let held := slots fun t => t.st == .waiting || t.st == .runnable
  if c.ctx.isNone then none
  else
    (when_ (s.alignedReady r) (.alignedStart r))
      <|> (held.findSome? fun n => when_ (s.riseDue r n) (.effectiveClassRise r n))
      <|> (held.findSome? fun n => when_ (s.gangDue r n) (.gangStartTick r n))
      <|> (held.findSome? fun n => when_ (s.resumeReady r n) (.gangResumeTick r n))
      <|> (when_ (s.canStart r && !s.awaitsMember r && (s.chosen r).isSome) (.taskStart r))
      <|> ((s.nextWrite r).bind fun w => when_ (decide (w.due ≤ s.now)) (.taskqSlotWrite r w.slot))
      <|> (held.findSome? fun n => (List.finRange 4).findSome? fun i => when_ (s.stampDueNow r n i) (.globalStampRead r n i))

/-- Accesses of a core's port, and captures that meet their slot in this cycle. -/
def portEvent (s : State) (r : Fin 288) : Option Instr :=
  let m := (s.core r).mem
  ((m.captures.find? fun k => s.capActs r k).map fun k => .capturePerform r k.id)
    <|> ((List.range m.port.length).findSome? fun j =>
      if s.portReady r j then m.port[j]?.map fun a => .translationWalk r a.id else none)

/-- The event of the entry that an engine has reached. -/
def entryEvent (s : State) (e : Fin 96) (kind : Nat) : Instr :=
  match kind with
  | 1 => if s.entryXp e then .segmentMove e else .move e
  | 2 => .window e
  | 3 => .loopEntry e
  | 4 => .cond e
  | 5 => .signal e
  | 6 => .expand e
  | 7 => .jump e
  | _ => .endChain e

/-- What an engine does next. -/
def engineEvent (s : State) (e : Fin 96) : Option Instr :=
  let x := s.engines[e]
  if x.queue.isEmpty && x.remote.isEmpty then none
  else
    (match x.walk, x.queue with
      | none, ch :: _ => when_ (s.mayStart ch) (.chainStart e)
      | some w, _ :: _ =>
        if w.waiting then when_ (w.held.isNone && decide (w.due ≤ s.now)) (.condHolds e)
        else if s.engineReady w && atLimit w then some (.chainLimit e)
        else (s.entryKind e).map (s.entryEvent e)
      | _, [] => none)
      <|> when_ (s.remoteReady e).isSome (.remoteStamp e)

/-- EVICT or DESTROY can act: it begins, joins an eviction under way, or ends its own (R333). -/
def evictTurn (s : State) : Bool :=
  match s.evictionOf s.argId with | some e => !e.commanded || s.evictReady e.ctxid | none => true

/-- The command that the mailbox can carry on with now. -/
def commandEvent (s : State) : Option Instr :=
  if s.mailbox.busy && s.mailbox.pendingResult.isSome then some .commandComplete
  else match s.curCode with
    | none => none
    | some 1 => some .create
    | some 2 => when_ s.evictTurn .destroy
    | some 3 => when_ (match s.ctx? s.argId with | some x => s.restoreReady x | none => true) .reside
    | some 4 => when_ s.evictTurn .evict
    | some 5 => some .setattr
    | some 6 => some .guard
    | some 7 => some .freeslot
    | some 8 => some .resolve
    | some 9 => some .ackmap
    | some 10 => some .worldset
    | some 11 => some .attest
    | some 12 => when_ s.preemptReady .preempt
    | some 13 => some .dbgreq
    | some 14 => some .ownerkey
    | some _ => some .unknownCommand

/-- Fault records, deadlines and cards of a context. -/
def contextEvent (s : State) (x : Context) : Option Instr :=
  (when_ (s.recordTurn x.id != .wait) (.faultRecordWrite x.id))
    <|> (when_ (match s.evictionOf x.id with
        | some e => e.cause == .mapstale && !e.commanded && s.evictReady e.ctxid
        | none => s.deadlinePassed x) (.mapDeadline x.id))
    <|> ((List.finRange 4).findSome? fun q => when_ (s.cardReady x q) (.cardRead x.id q))

/-- What the distributor can do for a job. -/
def jobEvent (s : State) (j : Job) : Option Instr :=
  let spent : Bool := !j.gang && j.refused.isNone && j.left == 0 && j.redeal.isEmpty
    && (match s.ctx? j.ctxid with | some x => x.queues[j.queue].dealing == some j.id | none => false)
  (when_ (spent || s.chunkReady j) (.chunkDeal j.id))
    <|> (when_ (s.gangReady j) (.gangPlace j.id))
    <|> (when_ (s.completionReady j) (.completionRecord j.id))

/-- The event that is performed next before this cycle begins: first what happens to tasks, then what memory, the ring and
engines do, then the base controller and the distributor. DEDUCED: log entry 5. DESIGN CHOICE: log entry 59. -/
def nextEarly (s : State) : Option Instr :=
  (when_ (decide (s.tickDue ≤ s.now)) .tick)
    <|> (when_ (decide (s.saveDue ≤ s.now)) .screeSave)
    <|> firstCore s.coreEvent
    <|> firstCore s.taskEvent
    <|> firstCore s.portEvent
    <|> firstEngine s.engineEvent
    <|> s.contexts.findSome? s.contextEvent
    <|> s.jobs.findSome? s.jobEvent
    <|> s.commandEvent

/-- A pre-emption without a command, by temperature, can go on (R406). -/
def thermalDue (s : State) : Bool := s.preemptAt.isSome && s.curCode != some 12 && s.preemptReady

/-! ## The start of a cycle on a core -/

/-- A latch of the word of l that writes a scalar register at issue + 4 (R173, R242). -/
def testResult (l : Latch) (sd : BitVec 6) (v : W64) : Latch :=
  { l with base := l.issue + 4, parts := BitVec.allOnes 8, kind := .scal sd v }

/-- The tests of TASKQ, COPY and CSTAT that fall in cycle c, and the chains that may start from it on (R173, R242, R243). -/
def latchTests (s : State) (r : Fin 288) (c : Nat) : State :=
  (byIssue (s.core r).pipe.latches).foldl (fun s l =>
    let push (s : State) (x : Latch) : State := s.modCore r fun k => { k with pipe := { k.pipe with latches := k.pipe.latches ++ [x] } }
    if l.base ≠ c then s
    else match l.kind with
      | .taskqTest sd target desc pre =>
        let t := s.taskqTest r l.issue target desc pre
        push t.1 (testResult l sd (w64 t.2))
      | .engineTest sd eng _ off true =>
        let t := s.copyTest r l.issue eng off
        let s1 := push t.1 (testResult l sd t.2.1)
        match t.2.2 with
        | some k => push s1 { l with base := l.issue + 4, kind := k }
        | none => s1
      | .engineTest sd eng _ off false => push s (testResult l sd (s.cstatWord r eng off))
      | .chainGo eng id => s.openChains eng fun ch => ch.id == id
      | _ => s) s

/-- A core that has stopped goes on with the tests of words that have issued, each in the package cycle in which it would
have fallen (R363). -/
def stoppedTests (s : State) (r : Fin 288) : State :=
  match (s.core r).stop with
  | some st =>
    if (s.core r).pipe.latches.any Latch.isTest then
      let c := st.cyc + (s.now - st.since)
      let stays (l : Latch) : Bool := !l.isTest || decide (c < l.base)
      (s.latchTests r c).modCore r fun k => { k with pipe := { k.pipe with latches := k.pipe.latches.filter stays } }
    else s
  | none => s

/-- All four streams go to the targets of a taken XBR at its cycle (R138). -/
def Core.crossStreams (k : Core) (c : Nat) : Core :=
  match k.fe.xbr with
  | some x =>
    if x.at_ = c then
      { k with fe := { k.fe with
        xbr := none, streams := x.tgt.map fun o => { off := o, base := c, fixed := false, parked := false } } }
    else k
  | none => k

/-- The core begins its cycle: the tests of TASKQ and COPY, known-answer compares, the transfer of an XBR, the operand reads
that follow their word's issue, and the writes that fall in the cycle. A core that froze within the cycle makes its writes
again, with those of the landing that has come. -/
def beginCore (s : State) (r : Fin 288) : State :=
  let c := (s.core r).sp.cyc
  if (s.core r).pipe.before.isSome then s.modCore r fun k => k.perform c
  else match (s.latchTests r c).compares r c with
    | (s1, some (faddr, faux)) => (s1.dropTests r c).stopCore r .katmiss .trap c faddr faux true
    | (s1, none) =>
      let s2 := (s1.dropTests r c).modCore r fun k => Core.crossStreams (k.snapshot) c
      (((s2.storeWrites r c).lateReads r c).modCore r fun k => k.perform c)

/-- A cause that holds an active core at the start of its cycle, other than a late landing (R353).
DEDUCED: log entry 7. -/
def heldBack (s : State) (r : Fin 288) : Bool :=
  let c := s.core r
  s.now < c.fe.fetchUntil || s.now < c.fe.rftUntil || !(s.heldFor r).isEmpty

/-- A core that runs begins its cycle, or freezes; a task that waits for the record of its rerun tries it first (R350). -/
def beginRank (s : State) (r : Fin 288) : State :=
  let s := s.rerunHeld r
  if (s.core r).active then
    if s.heldBack r then s.freezeCore r else s.beginCore r
  else s.stoppedTests r

/-- The words of the cycle come next. -/
def toWords (s : State) : State := { s with phase := .words }

/-- Every core begins its cycle. -/
def beginCycle (s : State) : State := ((List.finRange 288).foldl beginRank s).toWords

/-! ## The words of a cycle -/

/-- The stream of a core has a word that issues in this cycle and has not trapped in it (R137, R141, R169). -/
def wordDue (s : State) (r : Fin 288) (st : Stream) : Bool :=
  let c := s.core r
  let p := c.stream st
  !p.parked && (match c.fe.tended with | some e => e == c.sp.cyc | none => true)
    && !c.pipe.traps.any (fun t => t.src == .word st)
    && (if p.fixed then p.base else p.base + wordIdle (s.streamWord r st (c.section_ st + p.off))) == c.sp.cyc

/-- The place and bits of a stream's next word. -/
def wordAhead (s : State) (r : Fin 288) (st : Stream) : Focus :=
  let c := s.core r
  let p := c.stream st
  let off := c.section_ st + p.off
  { rank := r, strm := st, off := off, word := s.streamWord r st off, old := p }

/-- The landing, ATOM or capture arrives in its issue cycle: every word of that cycle finds what it writes (R47, R285). -/
def arrivesAtOnce (i : Instr) : Bool :=
  match i with
  | .land _ _ _ arr _ | .lands _ _ _ arr | .atom _ _ _ _ _ _ arr => arr == 0
  | .qrd x | .qwr x | .qadd x | .qmin x | .qmax x | .qor x | .qxchg x | .qcas x => x.arr == 0
  | .qbrd _ _ _ _ _ arr | .qalt _ _ _ _ arr => arr == 0
  | _ => false

/-- The streams in the order in which their words of one cycle act: the X stream before the C stream, since FMT follows the
pop of its cycle (R118, R179); the M stream first where its word arrives in the cycle. -/
def streamOrder (s : State) (r : Fin 288) : List Stream :=
  if s.wordDue r .m && arrivesAtOnce (issuedInstr .m (s.wordAhead r .m).word) then [.m, .x, .c, .v] else [.x, .c, .v, .m]

/-- The next word of a core. -/
def coreWord (s : State) (r : Fin 288) : Option (Fin 288 × Stream) :=
  if (s.core r).active then ((s.streamOrder r).find? fun st => s.wordDue r st).map fun st => (r, st) else none

/-- The next word of the cycle. DEDUCED: log entry 5. -/
def nextWord (s : State) : Option (Fin 288 × Stream) := (List.finRange 288).findSome? s.coreWord

/-- The core freezes before its next word of this cycle: a value that arrives in the cycle is awaited (R47, R48), or its next
word is an RFT whose frame pointer has still to be translated (R366). DEDUCED: log entry 53. -/
def holdsWord (s : State) (r : Fin 288) : Bool :=
  let c := s.core r
  c.active && (!c.dueLandings.isEmpty || (!c.fe.rftBegun && match s.coreWord r with
    | some (_, .c) => issuedInstr .c (s.wordAhead r .c).word == .rft
    | _ => false))

/-- A core that freezes within its cycle, or takes in it what a lost layer gives it. -/
def nextHold (s : State) : Option (Fin 288) := (List.finRange 288).find? s.holdsWord

/-- A landing that arrives in its issue cycle and meets a lost layer has its bytes at once, as if written in this cycle
(R47, R386). -/
def takeLost (s : State) (r : Fin 288) (a : Access) : State :=
  let t := s.meetLost r a
  match t.dueLanding r a.id with
  | some l => (t.takeLanding r l).modCore r fun k => k.perform k.sp.cyc
  | none => t

/-- The core freezes within its cycle; an RFT's translation begins where no value is awaited. An access to a lost layer
freezes nothing (R386). -/
def holdWord (s : State) (r : Fin 288) : State :=
  match (s.core r).dueLandings with
  | [] => ((s.modCore r fun c => { c with fe := { c.fe with
      rftBegun := true, rftUntil := s.now + 1 + Config.delay .walk s.serial } }).bump).freezeCore r
  | l :: _ => match s.lostAccess r l with
    | some a => s.takeLost r a
    | none => s.freezeCore r

/-- A word goes back over more than the 256 words that a fetch buffer holds: a LOOP or BR (R291). -/
def backFar (i : Instr) (off : Nat) : Bool :=
  match i with
  | .loop _ _ _ tgt | .br _ _ _ tgt => decide (8 * tgt.toNat + 2048 < off + 8)
  | _ => false

/-- A word joins the fetch buffer of its stream, or keeps its place there as the one used last. The buffer holds the 2 KiB of
R44 behind the words that are read ahead. DESIGN CHOICE: log entry 66. -/
def keepWord (f : Fetch) (st : Stream) (off : Nat) (w : W64) : Fetch :=
  let b := f.bufs[streamIx st]
  let kept := match b.find? fun x => x.1 == off with | some x => x | none => (off, w)
  { f with bufs := f.bufs.set (streamIx st) (kept :: (b.filter fun x => x.1 != off).take 271) }

/-- The word comes into focus and its stream moves straight on: the word after it issues IDLE cycles after issue + 1
(R137). -/
def focusOn (s : State) (r : Fin 288) (st : Stream) : State :=
  let f := s.wordAhead r st
  let far := backFar (issuedInstr st f.word) f.old.off
  ({ s with focus := f } : State).modCore r fun c =>
    let k := c.setStream st { off := f.old.off + 8, base := c.sp.cyc + 1, fixed := false, parked := false }
    let g := keepWord k.fe.fetch st f.off f.word
    { k with fe := { k.fe with fetch := { g with long := vecMod g.long (streamIx st).val fun l => l || far } } }

/-- A core that runs settles its cycle: bank conflicts, and the one trap that describes it (R43, R141). Where the trap's
boundary is this cycle the core goes back to its start (R357). -/
def settleCore (s : State) (r : Fin 288) : State :=
  let c := (s.core r).sp.cyc
  let qs := (s.core r).requests c
  let s1 := s.loseAll r c (losers qs)
  let trap := chooseTrap ((s1.core r).pipe.traps ++ (bankconfOf r qs c).toList)
  let quiet (s : State) : State := s.modCore r fun k => { k with pipe := { k.pipe with traps := [] } }
  let close (s : State) : State := (quiet (s.modCore r fun k => k.noteBanks c s.now (banksOf qs))).closeCycle r
  match trap with
  | none => close s1
  | some t =>
    let s2 := if t.boundary = c then quiet (s1.backTo r true) else close s1
    s2.stopCore r t.cause .trap t.boundary t.faddr t.faux true

/-- A keyed capture or QBRD that stood ready has examined a pass (R74, R79). -/
def examine (s : State) (c : Core) : Core :=
  if c.mem.captures.isEmpty then c
  else { c with mem := { c.mem with captures := c.mem.captures.map fun (k : Capture) =>
    match k.find with
    | .index _ => k
    | _ => if s.capReady k then { k with examined := k.examined + 1 } else k } }

/-- No word is left to issue in this cycle. -/
def endWords (s : State) : State :=
  let s1 := (List.finRange 288).foldl (fun (s : State) r => if (s.core r).active then s.settleCore r else s) s
  { s1 with phase := .late, cores := s1.cores.map s1.examine }

/-! ## The end of a cycle -/

/-- The event that is performed next at the end of this cycle. DESIGN CHOICE: log entry 59. -/
def nextLate (s : State) : Option Instr :=
  (firstCore fun r =>
      let c := s.core r
      when_ (c.tasks.run.isSome && c.active && c.fe.tended.isSome && drained c) (.taskEnd r))
    <|> (firstCore fun r =>
      ((s.core r).mem.captures.find? fun k => decide (1024 ≤ k.examined)).map fun k => .captureAbsent r k.id)
    <|> ((s.adds.find? s.addReady).map fun a => .barrierAddition a.id)

/-- The words of a core that issue in its next cycle and are not in their fetch buffers, of streams outside the bounds of
R291. -/
def unfetched (s : State) (r : Fin 288) : List (Stream × Nat) :=
  let c := s.core r
  [Stream.c, .v, .x, .m].filterMap fun st =>
    let off := c.section_ st + (c.stream st).off
    if (c.fe.fetch.crowded || c.fe.fetch.long[streamIx st]) && s.nextIssue r st == some (c.sp.cyc + 1)
        && (c.buffered st off).isNone then some (st, off)
    else none

/-- The line of 64 bytes that a stream reads ahead: that of its next word, or the one after it, where its buffer has not all
their words (R44). DESIGN CHOICE: log entry 66. -/
def aheadLine (c : Core) (st : Stream) : Option Nat :=
  let off := c.section_ st + (c.stream st).off
  let lacks (l : Nat) : Bool :=
    decide (l + 64 ≤ t0Top) && (List.range 8).any fun i => decide (off ≤ l + 8 * i) && (c.buffered st (l + 8 * i)).isNone
  if (c.stream st).parked || c.fe.tended.isSome then none else [off / 64 * 64, off / 64 * 64 + 64].find? lacks

/-- Each stream of a core reads a line ahead, of a bank that this cycle leaves idle; the bank is then held (R44, R291). -/
def readAhead (s : State) (r : Fin 288) (c : Core) : Core :=
  let held : List Nat := if c.fe.fetch.held.1 == s.now then c.fe.fetch.held.2 else []
  let one (f : Fetch) (st : Stream) : Fetch :=
    match aheadLine c st with
    | none => f
    | some l =>
      if f.held.2.contains (l / 64 % 96) then f
      else
        let words := (List.range 8).map fun i => l + 8 * (7 - i)
        let g := words.foldl (fun f off => keepWord f st off (s.fetchWord r off)) f
        { g with held := (s.now, l / 64 % 96 :: f.held.2) }
  { c with fe := { c.fe with fetch := [Stream.c, .v, .x, .m].foldl one { c.fe.fetch with held := (s.now, held) } } }

/-- The core goes on to its next cycle, its streams reading ahead; outside the bounds of R291 the fetch of its words may take
it a free while longer (R44, R353). DEDUCED: log entry 7. -/
def nextCycle (s : State) (r : Fin 288) (c : Core) : Core :=
  let c1 : Core := { c with bars := { c.bars with start := c.bars.val } }
  if c1.active then
    let late := s.unfetched r
    let fetch := late.foldl (fun f w => keepWord f w.1 w.2 (s.fetchWord r w.2)) c1.fe.fetch
    s.readAhead r { c1 with
      sp := { c1.sp with cyc := c1.sp.cyc + 1 }
      fe := { c1.fe with
        fetch := fetch
        fetchUntil := if late.isEmpty then c1.fe.fetchUntil else s.now + 1 + Config.delay .fetch (s.serial + r) } }
  else c1

/-- Acknowledgements that have travelled (R181). -/
def takeAcks (s : State) : State :=
  let due := s.acks.filter fun a => decide (a.2.2 ≤ s.now)
  due.foldl (fun (s : State) a => s.acknowledge a.1 a.2.1) { s with acks := s.acks.filter fun a => !decide (a.2.2 ≤ s.now) }

/-- A terrace 0 store of a core performs in the cycle that now begins: the accesses of its port that must perform before it take
no more time of their own (R236, R247). DEDUCED: log entry 29. -/
def hurry (s : State) (r : Fin 288) : State :=
  let c := s.core r
  let storing (a : Access) : Bool :=
    c.owns a && !a.framed && a.issue + 4 == c.sp.cyc && (match a.kind with | .store _ => true | _ => false)
  let before (j : Nat) (a : Access) : List Nat := (s.ahead (c.mem.port.take j).reverse [] [a]).map (·.id)
  let ids := if c.active then c.mem.port.zipIdx.flatMap fun x => if storing x.1 then before x.2 x.1 else [] else []
  if ids.isEmpty then s
  else
    let soon (a : Access) : Access := if ids.contains a.id then { a with due := min a.due s.now, hurried := true } else a
    let stamp (x : RemoteStamp) : RemoteStamp :=
      if x.rank == r && x.chain.isNone && ids.contains x.id then { x with due := min x.due s.now } else x
    let s1 := s.modCore r fun c => { c with mem := { c.mem with port := c.mem.port.map soon } }
    { s1 with engines := s1.engines.map fun (e : Engine) => { e with remote := e.remote.map stamp } }

/-- The package goes on to its next core cycle: the ring turns, slots are seen as they stand at its start, the idle bank-cycles
of the cycle just over go to what waits for them (R44), and engines take the entries they have reached. -/
def advance (s : State) : State :=
  let s1 : State := { s with
    cores := Vector.ofFn fun r => s.nextCycle r s.cores[r], serial := s.serial + 288
    ring := { s.ring with taken := [], phase := if s.ring.stopped then s.ring.phase else s.ring.phase + 1 } }
  let s2 := (List.finRange 288).foldl (fun (s : State) r => if (s.core r).ctx.isSome then s.tickSlots r else s) s1
  let s3 := s2.noteFree.takeAcks
  let s4 := (List.finRange 288).foldl hurry ({ s3 with now := s3.now + 1, phase := .early } : State).serveBanks
  (List.finRange 96).foldl readEntry s4

/-! ## Looking ahead for the span of a gang freeze (R354) -/

/-- The longest span that a cause of a member asks of a gang freeze, from here to its end, the machine going on by `run`. -/
def shownBy (run : State → Out) (id : Nat) : Nat → State → Nat → Nat
  | 0, _, m => m
  | fuel + 1, s, m =>
    if s.gangs.any fun g => g.id == id then
      let m1 := match s.phase with | .words => max m (s.shownSpan id) | _ => m
      match run s with
      | .next t => shownBy run id fuel t m1
      | _ => m1
    else m

/-- The least span, from d on, by which every cause has ended that a member shows under it. DESIGN CHOICE: log entry 31. -/
def leastSpan (run : State → Out) (id : Nat) (s : State) : Nat → Nat → Nat
  | 0, d => d
  | fuel + 1, d =>
    let m := shownBy run id (2 ^ 40) (s.setSpan id d) 0
    if m ≤ d then d else leastSpan run id s fuel m

/-- The span of a gang freeze is fixed as the least that covers the causes of its members: the machine looks ahead for it.
DESIGN CHOICE: log entry 31. -/
def fixSpan (run : State → Out) (id : Nat) (s : State) : State := s.setSpan id (leastSpan run id s 64 1)

end State

end Sys2Proof.Machine
end

