-- ==== Sys2Proof/Machine/Dispatch.lean ====
section
/-! DEFINITION. The dispatch: every instruction and event to its meaning. -/

namespace Sys2Proof.Machine

open Sys2Proof

/-- What an instruction or event does. -/
def exec (i : Instr) (s : State) : Host.Outcome State Fault Refusal :=
  match i with
  | .idle st count => Sys2Proof.Machine.execIdle st count s
  | .loop st lc count tgt => Sys2Proof.Machine.execLoop st lc count tgt s
  | .add sd sa sb => Sys2Proof.Machine.execAdd sd sa sb s
  | .sub sd sa sb => Sys2Proof.Machine.execSub sd sa sb s
  | .mul sd sa sb => Sys2Proof.Machine.execMul sd sa sb s
  | .mulh sd sa sb => Sys2Proof.Machine.execMulh sd sa sb s
  | .mulhn sd sa sb => Sys2Proof.Machine.execMulhn sd sa sb s
  | .div sd sa sb => Sys2Proof.Machine.execDiv sd sa sb s
  | .divn sd sa sb => Sys2Proof.Machine.execDivn sd sa sb s
  | .rem sd sa sb => Sys2Proof.Machine.execRem sd sa sb s
  | .remn sd sa sb => Sys2Proof.Machine.execRemn sd sa sb s
  | .and sd sa sb => Sys2Proof.Machine.execAnd sd sa sb s
  | .or sd sa sb => Sys2Proof.Machine.execOr sd sa sb s
  | .xor sd sa sb => Sys2Proof.Machine.execXor sd sa sb s
  | .andn sd sa sb => Sys2Proof.Machine.execAndn sd sa sb s
  | .shl sd sa sb => Sys2Proof.Machine.execShl sd sa sb s
  | .shr sd sa sb => Sys2Proof.Machine.execShr sd sa sb s
  | .sra sd sa sb => Sys2Proof.Machine.execSra sd sa sb s
  | .rol sd sa sb => Sys2Proof.Machine.execRol sd sa sb s
  | .min sd sa sb => Sys2Proof.Machine.execMin sd sa sb s
  | .max sd sa sb => Sys2Proof.Machine.execMax sd sa sb s
  | .minn sd sa sb => Sys2Proof.Machine.execMinn sd sa sb s
  | .maxn sd sa sb => Sys2Proof.Machine.execMaxn sd sa sb s
  | .seq sd sa sb => Sys2Proof.Machine.execSeq sd sa sb s
  | .sne sd sa sb => Sys2Proof.Machine.execSne sd sa sb s
  | .slt sd sa sb => Sys2Proof.Machine.execSlt sd sa sb s
  | .sltn sd sa sb => Sys2Proof.Machine.execSltn sd sa sb s
  | .sel sd sa sb sc => Sys2Proof.Machine.execSel sd sa sb sc s
  | .addi sd sa imm => Sys2Proof.Machine.execAddi sd sa imm s
  | .andi sd sa imm => Sys2Proof.Machine.execAndi sd sa imm s
  | .ori sd sa imm => Sys2Proof.Machine.execOri sd sa imm s
  | .xori sd sa imm => Sys2Proof.Machine.execXori sd sa imm s
  | .slti sd sa imm => Sys2Proof.Machine.execSlti sd sa imm s
  | .shli sd sa imm => Sys2Proof.Machine.execShli sd sa imm s
  | .shri sd sa imm => Sys2Proof.Machine.execShri sd sa imm s
  | .srai sd sa imm => Sys2Proof.Machine.execSrai sd sa imm s
  | .li sd imm => Sys2Proof.Machine.execLi sd imm s
  | .lih sd sa imm => Sys2Proof.Machine.execLih sd sa imm s
  | .clz sd sa => Sys2Proof.Machine.execClz sd sa s
  | .ctz sd sa => Sys2Proof.Machine.execCtz sd sa s
  | .popc sd sa => Sys2Proof.Machine.execPopc sd sa s
  | .bext sd sa pos len => Sys2Proof.Machine.execBext sd sa pos len s
  | .bins sd sa sb pos len => Sys2Proof.Machine.execBins sd sa sb pos len s
  | .amk ad sa sb spc => Sys2Proof.Machine.execAmk ad sa sb spc s
  | .aadd ad aa sa => Sys2Proof.Machine.execAadd ad aa sa s
  | .aaddi ad aa imm => Sys2Proof.Machine.execAaddi ad aa imm s
  | .amovAddr ad aa => Sys2Proof.Machine.execAmovAddr ad aa s
  | .amovFromScalar ad sa => Sys2Proof.Machine.execAmovFromScalar ad sa s
  | .amovToScalar sd aa => Sys2Proof.Machine.execAmovToScalar sd aa s
  | .afldSpace sd aa => Sys2Proof.Machine.execAfldSpace sd aa s
  | .afldRank sd aa => Sys2Proof.Machine.execAfldRank sd aa s
  | .afldOffset sd aa => Sys2Proof.Machine.execAfldOffset sd aa s
  | .br cond sa sb tgt => Sys2Proof.Machine.execBr cond sa sb tgt s
  | .xbr cond sa sb soff => Sys2Proof.Machine.execXbr cond sa sb soff s
  | .trap code => Sys2Proof.Machine.execTrap code s
  | .taskq sd aa sb => Sys2Proof.Machine.execTaskq sd aa sb s
  | .bpost aa sb => Sys2Proof.Machine.execBpost aa sb s
  | .bread sd bar => Sys2Proof.Machine.execBread sd bar s
  | .fmt sa => Sys2Proof.Machine.execFmt sa s
  | .srd sd spr => Sys2Proof.Machine.execSrd sd spr s
  | .swr sa spr => Sys2Proof.Machine.execSwr sa spr s
  | .vadd x => Sys2Proof.Machine.execVadd x s
  | .vsub x => Sys2Proof.Machine.execVsub x s
  | .vmul x => Sys2Proof.Machine.execVmul x s
  | .vmulh x => Sys2Proof.Machine.execVmulh x s
  | .vmin x => Sys2Proof.Machine.execVmin x s
  | .vmax x => Sys2Proof.Machine.execVmax x s
  | .vabs x => Sys2Proof.Machine.execVabs x s
  | .vneg x => Sys2Proof.Machine.execVneg x s
  | .vand x => Sys2Proof.Machine.execVand x s
  | .vor x => Sys2Proof.Machine.execVor x s
  | .vxor x => Sys2Proof.Machine.execVxor x s
  | .vandn x => Sys2Proof.Machine.execVandn x s
  | .vshl x => Sys2Proof.Machine.execVshl x s
  | .vshr x => Sys2Proof.Machine.execVshr x s
  | .vsra x => Sys2Proof.Machine.execVsra x s
  | .vrol x => Sys2Proof.Machine.execVrol x s
  | .vclz x => Sys2Proof.Machine.execVclz x s
  | .vpopc x => Sys2Proof.Machine.execVpopc x s
  | .vdiv x => Sys2Proof.Machine.execVdiv x s
  | .vsqrt x => Sys2Proof.Machine.execVsqrt x s
  | .vrcp x => Sys2Proof.Machine.execVrcp x s
  | .vrsq x => Sys2Proof.Machine.execVrsq x s
  | .vexp2 x => Sys2Proof.Machine.execVexp2 x s
  | .vlog2 x => Sys2Proof.Machine.execVlog2 x s
  | .vrnd x => Sys2Proof.Machine.execVrnd x s
  | .vfma x => Sys2Proof.Machine.execVfma x s
  | .vfms x => Sys2Proof.Machine.execVfms x s
  | .vfnma x => Sys2Proof.Machine.execVfnma x s
  | .vfshl x => Sys2Proof.Machine.execVfshl x s
  | .vfshr x => Sys2Proof.Machine.execVfshr x s
  | .vcmp kd va src k ty cond => Sys2Proof.Machine.execVcmp kd va src k ty cond s
  | .vsel x => Sys2Proof.Machine.execVsel x s
  | .vcvt vd va k src rm dst sat => Sys2Proof.Machine.execVcvt vd va k src rm dst sat s
  | .vqmx vd vb va k rm fmt => Sys2Proof.Machine.execVqmx vd vb va k rm fmt s
  | .vdqmx vd va vb k ty rm fmt => Sys2Proof.Machine.execVdqmx vd va vb k ty rm fmt s
  | .vli vd val k ty => Sys2Proof.Machine.execVli vd val k ty s
  | .vbcast vd src k ty => Sys2Proof.Machine.execVbcast vd src k ty s
  | .vmov vd va k => Sys2Proof.Machine.execVmov vd va k s
  | .vext sd va idx ty => Sys2Proof.Machine.execVext sd va idx ty s
  | .vins vd sa idx ty => Sys2Proof.Machine.execVins vd sa idx ty s
  | .vidx vd start k ty => Sys2Proof.Machine.execVidx vd start k ty s
  | .vperm x => Sys2Proof.Machine.execVperm x s
  | .vrot vd va cnt k ty => Sys2Proof.Machine.execVrot vd va cnt k ty s
  | .vshup vd va cnt k ty => Sys2Proof.Machine.execVshup vd va cnt k ty s
  | .vzip x => Sys2Proof.Machine.execVzip x s
  | .vunzip x => Sys2Proof.Machine.execVunzip x s
  | .vtrn x => Sys2Proof.Machine.execVtrn x s
  | .vcomp vd va k ty => Sys2Proof.Machine.execVcomp vd va k ty s
  | .vexpd vd va k ty => Sys2Proof.Machine.execVexpd vd va k ty s
  | .vred vd va k ty rm op grp => Sys2Proof.Machine.execVred vd va k ty rm op grp s
  | .vscan vd va k ty rm op grp => Sys2Proof.Machine.execVscan vd va k ty rm op grp s
  | .vcmul x => Sys2Proof.Machine.execVcmul x s
  | .vcmac x => Sys2Proof.Machine.execVcmac x s
  | .kand kd ka kb => Sys2Proof.Machine.execKand kd ka kb s
  | .kor kd ka kb => Sys2Proof.Machine.execKor kd ka kb s
  | .kxor kd ka kb => Sys2Proof.Machine.execKxor kd ka kb s
  | .knot kd ka => Sys2Proof.Machine.execKnot kd ka s
  | .kmov kd ka => Sys2Proof.Machine.execKmov kd ka s
  | .kpopc sd ka => Sys2Proof.Machine.execKpopc sd ka s
  | .kfirst sd ka => Sys2Proof.Machine.execKfirst sd ka s
  | .kfroms kd sa => Sys2Proof.Machine.execKfroms kd sa s
  | .kbytes kd sa sb => Sys2Proof.Machine.execKbytes kd sa sb s
  | .vkat va val => Sys2Proof.Machine.execVkat va val s
  | .mma hd a ab acc => Sys2Proof.Machine.execMma hd a ab acc s
  | .mmac hd a ab acc => Sys2Proof.Machine.execMmac hd a ab acc s
  | .acz hd => Sys2Proof.Machine.execAcz hd s
  | .acld hd aa => Sys2Proof.Machine.execAcld hd aa s
  | .acst hd aa rel => Sys2Proof.Machine.execAcst hd aa rel s
  | .acrel hd => Sys2Proof.Machine.execAcrel hd s
  | .acadd hd hs => Sys2Proof.Machine.execAcadd hd hs s
  | .accpy hd hs => Sys2Proof.Machine.execAccpy hd hs s
  | .acrd hd vd row => Sys2Proof.Machine.execAcrd hd vd row s
  | .acsum hd vd col => Sys2Proof.Machine.execAcsum hd vd col s
  | .acset hd vs row col => Sys2Proof.Machine.execAcset hd vs row col s
  | .acflip hd row col bit => Sys2Proof.Machine.execAcflip hd row col bit s
  | .xkat hd aa => Sys2Proof.Machine.execXkat hd aa s
  | .tld vd aa off => Sys2Proof.Machine.execTld vd aa off s
  | .tlds sd aa off => Sys2Proof.Machine.execTlds sd aa off s
  | .tldk kd aa off => Sys2Proof.Machine.execTldk kd aa off s
  | .tst vs aa k off => Sys2Proof.Machine.execTst vs aa k off s
  | .tsts ss aa off => Sys2Proof.Machine.execTsts ss aa off s
  | .land vd aa off arr xf => Sys2Proof.Machine.execLand vd aa off arr xf s
  | .lands sd aa off arr => Sys2Proof.Machine.execLands sd aa off arr s
  | .copy sd aa eng => Sys2Proof.Machine.execCopy sd aa eng s
  | .cstat sd aa eng => Sys2Proof.Machine.execCstat sd aa eng s
  | .atom sd aa sb sc op wide arr => Sys2Proof.Machine.execAtom sd aa sb sc op wide arr s
  | .red aa sb op wide => Sys2Proof.Machine.execRed aa sb op wide s
  | .stamp aa sb => Sys2Proof.Machine.execStamp aa sb s
  | .fence scope kind => Sys2Proof.Machine.execFence scope kind s
  | .qrd x => Sys2Proof.Machine.execQrd x s
  | .qwr x => Sys2Proof.Machine.execQwr x s
  | .qadd x => Sys2Proof.Machine.execQadd x s
  | .qmin x => Sys2Proof.Machine.execQmin x s
  | .qmax x => Sys2Proof.Machine.execQmax x s
  | .qor x => Sys2Proof.Machine.execQor x s
  | .qxchg x => Sys2Proof.Machine.execQxchg x s
  | .qcas x => Sys2Proof.Machine.execQcas x s
  | .qbrd sd trk sa sb wd arr => Sys2Proof.Machine.execQbrd sd trk sa sb wd arr s
  | .qalt sd trk name aa arr => Sys2Proof.Machine.execQalt sd trk name aa arr s
  | .taskStart r => Sys2Proof.Machine.execTaskStart r s
  | .alignedStart r => Sys2Proof.Machine.execAlignedStart r s
  | .effectiveClassRise r n => Sys2Proof.Machine.execEffectiveClassRise r n s
  | .gangStartTick r n => Sys2Proof.Machine.execGangStartTick r n s
  | .gangPlace job => Sys2Proof.Machine.execGangPlace job s
  | .taskEnd r => Sys2Proof.Machine.execTaskEnd r s
  | .taskqSlotWrite r n => Sys2Proof.Machine.execTaskqSlotWrite r n s
  | .landingArrival r id => Sys2Proof.Machine.execLandingArrival r id s
  | .freezeEnd r => Sys2Proof.Machine.execFreezeEnd r s
  | .gangFreeze r => Sys2Proof.Machine.execGangFreeze r s
  | .budgetExpiry r => Sys2Proof.Machine.execBudgetExpiry r s
  | .timer r => Sys2Proof.Machine.execTimer r s
  | .taskStop r => Sys2Proof.Machine.execTaskStop r s
  | .uncorr r unit line index => Sys2Proof.Machine.execUncorr r unit line index s
  | .barrierAddition id => Sys2Proof.Machine.execBarrierAddition id s
  | .globalStampRead r n j => Sys2Proof.Machine.execGlobalStampRead r n j s
  | .translationWalk r id => Sys2Proof.Machine.execTranslationWalk r id s
  | .faultRecordWrite ctxid => Sys2Proof.Machine.execFaultRecordWrite ctxid s
  | .chainStart e => Sys2Proof.Machine.execChainStart e s
  | .move e => Sys2Proof.Machine.execMove e s
  | .segmentMove e => Sys2Proof.Machine.execSegmentMove e s
  | .window e => Sys2Proof.Machine.execWindow e s
  | .loopEntry e => Sys2Proof.Machine.execLoopEntry e s
  | .cond e => Sys2Proof.Machine.execCond e s
  | .condHolds e => Sys2Proof.Machine.execCondHolds e s
  | .signal e => Sys2Proof.Machine.execSignal e s
  | .expand e => Sys2Proof.Machine.execExpand e s
  | .jump e => Sys2Proof.Machine.execJump e s
  | .endChain e => Sys2Proof.Machine.execEndChain e s
  | .chainLimit e => Sys2Proof.Machine.execChainLimit e s
  | .remoteStamp e => Sys2Proof.Machine.execRemoteStamp e s
  | .capturePerform r id => Sys2Proof.Machine.execCapturePerform r id s
  | .captureAbsent r id => Sys2Proof.Machine.execCaptureAbsent r id s
  | .captureResult r id => Sys2Proof.Machine.execCaptureResult r id s
  | .slotError track slot => Sys2Proof.Machine.execSlotError track slot s
  | .cmd value => Sys2Proof.Machine.execCmd value s
  | .doorbell offset value => Sys2Proof.Machine.execDoorbell offset value s
  | .registerWrite offset value => Sys2Proof.Machine.execRegisterWrite offset value s
  | .cardRead ctxid q => Sys2Proof.Machine.execCardRead ctxid q s
  | .chunkDeal job => Sys2Proof.Machine.execChunkDeal job s
  | .completionRecord job => Sys2Proof.Machine.execCompletionRecord job s
  | .gangResumeTick r n => Sys2Proof.Machine.execGangResumeTick r n s
  | .bankRetire entry group bank why => Sys2Proof.Machine.execBankRetire entry group bank why s
  | .laneSpare entry group why => Sys2Proof.Machine.execLaneSpare entry group why s
  | .layerLost entry group => Sys2Proof.Machine.execLayerLost entry group s
  | .coreLost r why => Sys2Proof.Machine.execCoreLost r why s
  | .stationLost r why => Sys2Proof.Machine.execStationLost r why s
  | .ringReform pos why => Sys2Proof.Machine.execRingReform pos why s
  | .channelLost ch why => Sys2Proof.Machine.execChannelLost ch why s
  | .portLost p why => Sys2Proof.Machine.execPortLost p why s
  | .recoveryPoint r => Sys2Proof.Machine.execRecoveryPoint r s
  | .mapDeadline ctxid => Sys2Proof.Machine.execMapDeadline ctxid s
  | .ptpSync offsetNs taiNs => Sys2Proof.Machine.execPtpSync offsetNs taiNs s
  | .getnum d => Sys2Proof.Machine.execGetnum d s
  | .getroute d => Sys2Proof.Machine.execGetroute d s
  | .stagenum d => Sys2Proof.Machine.execStagenum d s
  | .stageroute d => Sys2Proof.Machine.execStageroute d s
  | .commit d => Sys2Proof.Machine.execCommit d s
  | .discard d => Sys2Proof.Machine.execDiscard d s
  | .flitReceive port crcOk x => Sys2Proof.Machine.execFlitReceive port crcOk x s
  | .thermalSample centi => Sys2Proof.Machine.execThermalSample centi s
  | .voltageSample centiPercent => Sys2Proof.Machine.execVoltageSample centiPercent s
  | .colCrossing slot => Sys2Proof.Machine.execColCrossing slot s
  | .unassignedOpcode why => Sys2Proof.Machine.execUnassignedOpcode why s
  | .misalignedBarAccess write => Sys2Proof.Machine.execMisalignedBarAccess write s
  | .badOp d => Sys2Proof.Machine.execBadOp d s
  | .dhcpOffer addr => Sys2Proof.Machine.execDhcpOffer addr s
  | .linkLaneRetire port => Sys2Proof.Machine.execLinkLaneRetire port s
  | .tend => Sys2Proof.Machine.execTend s
  | .rft => Sys2Proof.Machine.execRft s
  | .mapack => Sys2Proof.Machine.execMapack s
  | .qfence => Sys2Proof.Machine.execQfence s
  | .create => Sys2Proof.Machine.execCreate s
  | .destroy => Sys2Proof.Machine.execDestroy s
  | .reside => Sys2Proof.Machine.execReside s
  | .evict => Sys2Proof.Machine.execEvict s
  | .setattr => Sys2Proof.Machine.execSetattr s
  | .guard => Sys2Proof.Machine.execGuard s
  | .freeslot => Sys2Proof.Machine.execFreeslot s
  | .resolve => Sys2Proof.Machine.execResolve s
  | .ackmap => Sys2Proof.Machine.execAckmap s
  | .worldset => Sys2Proof.Machine.execWorldset s
  | .attest => Sys2Proof.Machine.execAttest s
  | .preempt => Sys2Proof.Machine.execPreempt s
  | .dbgreq => Sys2Proof.Machine.execDbgreq s
  | .ownerkey => Sys2Proof.Machine.execOwnerkey s
  | .unknownCommand => Sys2Proof.Machine.execUnknownCommand s
  | .commandComplete => Sys2Proof.Machine.execCommandComplete s
  | .bellerrRead => Sys2Proof.Machine.execBellerrRead s
  | .tick => Sys2Proof.Machine.execTick s
  | .screeSave => Sys2Proof.Machine.execScreeSave s
  | .thermalPreempt => Sys2Proof.Machine.execThermalPreempt s
  | .thermalShutdown => Sys2Proof.Machine.execThermalShutdown s
  | .powerOnReset => Sys2Proof.Machine.execPowerOnReset s
  | .orderlyShutdown => Sys2Proof.Machine.execOrderlyShutdown s
  | .powerLoss => Sys2Proof.Machine.execPowerLoss s
  | .thermalClear => Sys2Proof.Machine.execThermalClear s

end Sys2Proof.Machine
end

