-- ==== Sys2Proof/Machine/Step.lean ====
section
/-! DEFINITION. One step of the package: one event, one instruction word, or the passage from one part of a core cycle to the
next. A cycle is: the events due before it, the words that issue in it, the events at its end (spec/95: every event and word
is whole and indivisible). -/

namespace Sys2Proof.Machine

/-- A signal of the outside world is taken: an event of the table, a corrected error, a write to host memory, or what the
other end of a live port says of its replay buffer. DESIGN CHOICE: log entry 50. -/
def takeInput (s : State) (x : Nat × Input) : Out :=
  let s1 : State := { s with inputs := s.inputs.erase x }
  match x.2 with
  | .event i => if external i then exec i s1 else .next s1
  | .corrected c => .next (s1.corrected c)
  | .hostWrite key bytes => .next (s1.putBytes .host key bytes)
  | .linkAck port n => .next (if s1.cairn.port.getLsbD port.val then s1.linkAck port n else s1)
  | .linkNak port => .next (if s1.cairn.port.getLsbD port.val then s1.linkNak port else s1)

/-- While the part has no power, time passes, and only a power-on reset acts (R402, R408); the host's memory is its own.
DEDUCED: log entry 54. -/
def darkStep (s : State) : Out :=
  match s.dueInput with
  | some x =>
    let s1 : State := { s with inputs := s.inputs.erase x }
    match x.2 with
    | .event .powerOnReset => exec .powerOnReset s1
    | .hostWrite key bytes => .next (s1.putBytes .host key bytes)
    | _ => .next s1
  | none => .next { s with now := s.now + 1 }

/-- What is due before a cycle begins, but for signals from outside; then the cycle begins. -/
def dueStep (s : State) : Out :=
  match s.nextEarly with
  | some i => exec i s
  | none => if s.thermalDue then .next (s.preemptStep fun s => s) else .next s.beginCycle

/-- Before a cycle begins: signals from outside; then the span of a gang freeze that has none is fixed, by looking ahead with
the step `run` (R354); then the events that are due. -/
def earlyStep (run : Option (State → Out)) (s : State) : Out :=
  match s.dueInput with
  | some x => takeInput s x
  | none => match s.spanDue, run with
    | some id, some f => .next (s.fixSpan f id)
    | _, _ => dueStep s

/-- A core freezes within its cycle, or the next word of the cycle issues, or the words are over. -/
def wordStep (s : State) : Out :=
  match s.nextHold, s.nextWord with
  | some r, _ => .next (s.holdWord r)
  | none, some p =>
    let s1 := s.focusOn p.1 p.2
    exec (issuedInstr s1.focus.strm s1.focus.word) s1
  | none, none => .next s.endWords

/-- The events at the end of a cycle, then the next cycle; where the ring turned, a slot of every track crosses the col. -/
def lateStep (s : State) : Out :=
  match s.nextLate with
  | some i => exec i s
  | none => if s.ring.stopped then .next s.advance else exec (.colCrossing (s.advance.ring.atPos 0)) s.advance

/-- One step of a machine that looks ahead by `run`, or not at all. -/
def stepBy (run : Option (State → Out)) (s : State) : Out :=
  if !s.base.alive then darkStep s
  else match s.phase with
    | .early => earlyStep run s
    | .words => wordStep s
    | .late => lateStep s

/-- The step by which the machine looks ahead: a freeze that falls within what it looks at is looked into in turn, to this
depth. DESIGN CHOICE: log entry 31. -/
def ahead : Nat → State → Out
  | 0 => stepBy none
  | n + 1 => stepBy (some (ahead n))

/-- One step. -/
def step (s : State) : Host.Outcome State Fault Refusal := stepBy (some (ahead 64)) s

/-- The streams of a core that has one word to issue: the word's own stream, at its place, and the others parked.
DEDUCED: log entry 3. -/
def oneStream (st : Stream) : Vector StreamPos 4 :=
  (Vector.replicate 4 StreamPos.init).set (streamIx st) { off := 0, base := 0, fixed := false, parked := false }

/-- The word stands at the start of rank 0's terrace 0, in the section of the stream that its STRM names, and is that
stream's next word, due in this cycle and not fetched before; rank 0 runs a task whose other streams are parked and awaits
nothing. DEDUCED: log entry 3. -/
def State.withFetchWord (s : State) (_nbits w : Nat) : State :=
  let word := BitVec.ofNat 64 w
  let st := Stream.ofCode (word.extractLsb' 52 2)
  let run : Running := { slot := 0, desc := Vector.replicate 8 0, aligned := false, mode := .fresh, chunk := none }
  let s1 := s.putWord (.t0 0) 0 word
  { s1.modCore 0 fun c =>
      { c with
        sp := { c.sp with cyc := wordIdle word }
        fe := { c.fe with streams := oneStream st, xbr := none, tended := none, rftBegun := true, fetch := Fetch.init }
        mem := { c.mem with landings := [] }
        pipe := { c.pipe with traps := [] }
        tasks := { c.tasks with run := some run }
        pending := { c.pending with rerun := false }
        freeze := none, stop := none } with
    phase := .words, base := { s1.base with alive := true, powered := true } }

end Sys2Proof.Machine
end

