-- ==== Sys2Proof/Safety.lean ====
section
/-! DEFINITION. What counts as a safe run: it meets no fault and no refusal. -/

namespace Sys2Proof.Machine

/-- The states that a machine passes from s: the state after k steps, if none of them stops. -/
def after : Nat → State → Option State
  | 0, s => some s
  | k + 1, s => match step s with
    | .next t => after k t
    | _ => none

/-- Every step of a run from s answers a next state. -/
def Safe (s : State) : Prop := ∀ k, (after k s).isSome

/-- Memory is in its canonical form. -/
def State.MemOk (s : State) : Prop := Memory.wf s.mem = true

end Sys2Proof.Machine
end

