-- ==== Sys2Proof/Certificates/Slice0/Obligations.lean ====
section
/-! DEFINITION. The statements about the model: words and what they write, exceptions, the streams of a core, memory, copy
engines, the ring, contexts and jobs, the cairn, the fleet, and the step. -/

namespace Sys2Proof.Claims

open Sys2Proof Sys2Proof.Machine

/-! ## Vocabulary -/

/-- A result in flight of the word in focus: due lat cycles after issue, with flags that join FPF when it performs. -/
def inFlight (s : State) (lat : Nat) (k : LatchKind) (flags : BitVec 6) : Latch :=
  { strm := s.focus.strm, pc := s.focus.off, word := s.focus.word, issue := s.me.sp.cyc, base := s.me.sp.cyc + lat,
    parts := 0xFF, flags := flags, guards := s.prot.guards, kind := k }

/-- s with one more result in flight on the core in focus; nothing else differs. -/
def holding (s : State) (lat : Nat) (k : LatchKind) (flags : BitVec 6 := 0) : State :=
  s.setMe { s.me with pipe := { s.me.pipe with latches := s.me.pipe.latches ++ [inFlight s lat k flags] } }

/-- The word answers a next state whose only difference is a scalar result x for register d, due lat cycles after issue. -/
def Result (i : Instr) (s : State) (lat : Nat) (d : BitVec 6) (x : W64) : Prop := exec i s = .next (holding s lat (.scal d x))

/-- The same for an address register, due one cycle after issue. -/
def AddrResult (i : Instr) (s : State) (d : BitVec 5) (x : W64) : Prop := exec i s = .next (holding s 1 (.addr d x))

/-- 1 where a comparison holds, else 0. -/
def oneIf (p : Prop) [Decidable p] : W64 := if p then 1 else 0

/-- A number modulo 2^64. -/
def mod64 (x : Int) : W64 := BitVec.ofInt 64 x

/-- A scalar and an address register as the word in focus reads them. -/
def S (s : State) (r : BitVec 6) : W64 := s.me.readS r
def A (s : State) (r : BitVec 5) : W64 := s.me.readA r

/-- The word in focus traps: no effect of it stands, its stream stands where it stood before it, and a trap with the cause,
FADDR and FAUX is added to those of the cycle. -/
def trapped (s : State) (cause : Cause) (faddr faux : W64) : State :=
  let c := s.me.setStream s.focus.strm s.focus.old
  s.setMe { c with pipe := { c.pipe with traps := c.pipe.traps ++
    [{ src := .word s.focus.strm, cause := cause, faddr := faddr, faux := faux, boundary := s.me.sp.cyc }] } }

/-- The pointer to the word in focus. -/
def wordPtr (s : State) : W64 := t0Ptr s.focus.rank s.focus.off

/-! ## The C stream -/

end Sys2Proof.Claims

open Sys2Proof Sys2Proof.Machine Sys2Proof.Claims

/-- R157: the register arithmetic: every row of latency 1 answers its result for sd, due at issue + 1; the products answer the
low half, or the high half of the signed or unsigned 128-bit product, due at issue + 3. -/
def Obligations.AluRowsWriteTheirResultAtTheirLatency : Prop :=
  ∀ (s : State) (d a b c : BitVec 6),
    Result (.add d a b) s 1 d (mod64 ((S s a).toInt + (S s b).toInt)) ∧
    Result (.sub d a b) s 1 d (mod64 ((S s a).toInt - (S s b).toInt)) ∧
    Result (.and d a b) s 1 d (S s a &&& S s b) ∧
    Result (.or d a b) s 1 d (S s a ||| S s b) ∧
    Result (.xor d a b) s 1 d (S s a ^^^ S s b) ∧
    Result (.andn d a b) s 1 d (S s a &&& ~~~ S s b) ∧
    Result (.shl d a b) s 1 d (mod64 ((S s a).toInt * 2 ^ ((S s b).toNat % 64))) ∧
    Result (.shr d a b) s 1 d (mod64 ((S s a).toNat / 2 ^ ((S s b).toNat % 64) : Nat)) ∧
    Result (.sra d a b) s 1 d (mod64 ((S s a).toInt / 2 ^ ((S s b).toNat % 64))) ∧
    Result (.rol d a b) s 1 d
      (mod64 ((S s a).toNat * 2 ^ ((S s b).toNat % 64) + (S s a).toNat / 2 ^ (64 - (S s b).toNat % 64) : Nat)) ∧
    Result (.min d a b) s 1 d (mod64 (min (S s a).toInt (S s b).toInt)) ∧
    Result (.max d a b) s 1 d (mod64 (max (S s a).toInt (S s b).toInt)) ∧
    Result (.minn d a b) s 1 d (mod64 (min (S s a).toNat (S s b).toNat : Nat)) ∧
    Result (.maxn d a b) s 1 d (mod64 (max (S s a).toNat (S s b).toNat : Nat)) ∧
    Result (.seq d a b) s 1 d (oneIf (S s a = S s b)) ∧
    Result (.sne d a b) s 1 d (oneIf (S s a ≠ S s b)) ∧
    Result (.slt d a b) s 1 d (oneIf ((S s a).toInt < (S s b).toInt)) ∧
    Result (.sltn d a b) s 1 d (oneIf ((S s a).toNat < (S s b).toNat)) ∧
    Result (.sel d a b c) s 1 d (if S s c ≠ 0 then S s a else S s b) ∧
    Result (.mul d a b) s 3 d (mod64 ((S s a).toInt * (S s b).toInt)) ∧
    (∃ h : W64, Result (.mulh d a b) s 3 d h ∧ h.toInt = (S s a).toInt * (S s b).toInt / 2 ^ 64) ∧
    (∃ h : W64, Result (.mulhn d a b) s 3 d h ∧ h.toNat = (S s a).toNat * (S s b).toNat / 2 ^ 64)

/-- R158: division never traps; the quotient truncates toward zero and the remainder takes the sign of the dividend, with
the two corners the rule names. -/
def Obligations.DivisionTruncatesAndNeverTraps : Prop :=
  ∀ (s : State) (d a b : BitVec 6), ∃ q r qn rn : W64,
    Result (.div d a b) s 12 d q ∧ Result (.rem d a b) s 12 d r ∧
    Result (.divn d a b) s 12 d qn ∧ Result (.remn d a b) s 12 d rn ∧
    (if (S s b).toInt = 0 then q.toInt = -1 ∧ r = S s a
     else if (S s a).toInt = -2 ^ 63 ∧ (S s b).toInt = -1 then q.toInt = -2 ^ 63 ∧ r.toInt = 0
     else q.toInt = (S s a).toInt.tdiv (S s b).toInt ∧ r.toInt = (S s a).toInt - (S s b).toInt * q.toInt) ∧
    (if (S s b).toNat = 0 then qn.toNat = 2 ^ 64 - 1 ∧ rn = S s a
     else qn.toNat = (S s a).toNat / (S s b).toNat ∧ rn.toNat = (S s a).toNat - (S s b).toNat * qn.toNat)

/-- R159, R160: the immediate rows, with IMM34 sign-extended. -/
def Obligations.ImmediateRowsWriteTheirResult : Prop :=
  ∀ (s : State) (d a : BitVec 6) (i : BitVec 34),
    Result (.addi d a i) s 1 d (mod64 ((S s a).toInt + i.toInt)) ∧
    Result (.andi d a i) s 1 d (S s a &&& mod64 i.toInt) ∧
    Result (.ori d a i) s 1 d (S s a ||| mod64 i.toInt) ∧
    Result (.xori d a i) s 1 d (S s a ^^^ mod64 i.toInt) ∧
    Result (.slti d a i) s 1 d (oneIf ((S s a).toInt < i.toInt)) ∧
    (i.toNat ≤ 63 →
      Result (.shli d a i) s 1 d (mod64 ((S s a).toInt * 2 ^ i.toNat)) ∧
      Result (.shri d a i) s 1 d (mod64 ((S s a).toNat / 2 ^ i.toNat : Nat)) ∧
      Result (.srai d a i) s 1 d (mod64 ((S s a).toInt / 2 ^ i.toNat))) ∧
    Result (.li d i) s 1 d (mod64 i.toInt) ∧
    Result (.lih d a i) s 1 d (mod64 (i.toNat * 2 ^ 30 + (S s a).toNat % 2 ^ 30 : Nat))

/-- R161: counts of leading zeros, trailing zeros and ones by what they count; BEXT and BINS by the bits of the result. -/
def Obligations.BitFieldRowsWriteTheirResult : Prop :=
  ∀ (s : State) (d a b : BitVec 6) (pos : BitVec 6) (len : BitVec 7),
    (∃ n : Nat, Result (.clz d a) s 1 d (mod64 n) ∧ n ≤ 64 ∧ (∀ j, j < n → (S s a).getLsbD (63 - j) = false) ∧
      (n < 64 → (S s a).getLsbD (63 - n) = true)) ∧
    (∃ n : Nat, Result (.ctz d a) s 1 d (mod64 n) ∧ n ≤ 64 ∧ (∀ j, j < n → (S s a).getLsbD j = false) ∧
      (n < 64 → (S s a).getLsbD n = true)) ∧
    Result (.popc d a) s 1 d (mod64 (((List.range 64).filter fun j => (S s a).getLsbD j).length : Nat)) ∧
    (1 ≤ len.toNat ∧ pos.toNat + len.toNat ≤ 64 →
      (∃ x : W64, Result (.bext d a pos len) s 1 d x ∧
        ∀ j, x.getLsbD j = (decide (j < len.toNat) && (S s a).getLsbD (pos.toNat + j))) ∧
      (∃ x : W64, Result (.bins d a b pos len) s 1 d x ∧
        ∀ j, j < 64 → x.getLsbD j =
          if pos.toNat ≤ j ∧ j < pos.toNat + len.toNat then (S s b).getLsbD (j - pos.toNat) else (S s a).getLsbD j))

/-- R163: the pointer AMK builds. -/
def Obligations.AmkBuildsThePointer : Prop :=
  ∀ (s : State) (d : BitVec 5) (a b : BitVec 6) (spc : BitVec 5),
    AddrResult (.amk d a b spc) s d
      (mod64 (if spc = 7 then
          spc.toNat * 2 ^ 59 + (S s a).toNat % 2 ^ 12 * 2 ^ 47 + (S s b).toNat % 2 ^ 47
        else spc.toNat * 2 ^ 59 + (S s a).toNat % 2 ^ 9 * 2 ^ 50 + (S s b).toNat % 2 ^ 50 : Nat))

/-- R164: AADD and AADDI change only the offset of the pointer, modulo 2^50, or modulo 2^47 for a REMOTE pointer. -/
def Obligations.PointerAdditionChangesOnlyTheOffset : Prop :=
  ∀ (s : State) (d a : BitVec 5) (b : BitVec 6) (i : BitVec 34) (add : Int),
    let w := if (A s a).toNat / 2 ^ 59 = 7 then 47 else 50
    let sum := mod64 (((A s a).toNat / 2 ^ w : Nat) * 2 ^ w + (((A s a).toNat % 2 ^ w : Nat) + add) % 2 ^ w)
    (add = (S s b).toInt → AddrResult (.aadd d a b) s d sum) ∧
    (add = i.toInt → AddrResult (.aaddi d a i) s d sum)

/-- R162: the moves between address and scalar registers and the fields of a pointer. -/
def Obligations.PointerMovesAndFieldsWriteTheirResult : Prop :=
  ∀ (s : State) (d a : BitVec 5) (x y : BitVec 6),
    AddrResult (.amovAddr d a) s d (A s a) ∧
    AddrResult (.amovFromScalar d x) s d (S s x) ∧
    Result (.amovToScalar y a) s 1 y (A s a) ∧
    Result (.afldSpace y a) s 1 y (mod64 ((A s a).toNat / 2 ^ 59 : Nat)) ∧
    Result (.afldRank y a) s 1 y (mod64 ((A s a).toNat / 2 ^ 50 % 2 ^ 9 : Nat)) ∧
    Result (.afldOffset y a) s 1 y (mod64 ((A s a).toNat % 2 ^ 50 : Nat))

/-! Flow, tasks and special registers -/

namespace Sys2Proof.Claims

/-- s with stream st of the core in focus at word index tgt of its section, counted from the cycle after issue (R137). -/
def transferred (s : State) (st : Stream) (tgt : BitVec 17) : State :=
  s.setMe (s.me.setStream st { off := 8 * tgt.toNat, base := s.me.sp.cyc + 1, fixed := false, parked := false })

/-- The condition codes of R147, on signed and unsigned values. -/
def condition (c : Cond) (x y : W64) : Prop :=
  match c with
  | .eq => x = y
  | .ne => x ≠ y
  | .lt => x.toInt < y.toInt
  | .ge => y.toInt ≤ x.toInt
  | .ltn => x.toNat < y.toNat
  | .gen => y.toNat ≤ x.toNat
  | .always => True

/-- The count operand of a LOOP: an immediate, or the low 32 bits of a scalar register. -/
def loopCount (s : State) : LoopCount → Nat
  | .imm c => c.toNat
  | .reg a => (S s a).toNat % 2 ^ 32

/-- The word i of the saddle record at an offset of the own terrace 0, each of four bytes. -/
def saddle (s : State) (off : Nat) (i : Fin 4) : Nat := leValue (s.bytesAt (.t0 s.focus.rank) (off + 4 * i.val) 4)

/-- What the word in focus asks for in its issue cycle: the banks of the lines of n bytes of its own terrace 0 (R42, R43). -/
def bankAsk (s : State) (off n : Nat) : BankReq :=
  { strm := s.focus.strm, issue := s.me.sp.cyc, firstLine := off / 64, lines := (off + n - 1) / 64 - off / 64 + 1 }

/-- Nothing but the core in focus differs: every other core, memory, the ring, the engines, contexts, jobs, time, mailbox,
cairn and scree stand as they stood. -/
structure OnlyCore (s t : State) : Prop where
  cores : ∀ r, r ≠ s.focus.rank → t.core r = s.core r
  bytes : ∀ pl off, t.byteAt pl off = s.byteAt pl off
  ring : t.ring = s.ring
  engines : t.engines = s.engines
  contexts : t.contexts = s.contexts ∧ t.jobs = s.jobs ∧ t.tick = s.tick ∧ t.now = s.now
  others : t.mailbox = s.mailbox ∧ t.cairn = s.cairn ∧ t.scree = s.scree ∧ t.prot = s.prot ∧ t.mgmt = s.mgmt

/-- The task's registers, accumulators, special registers and barriers stand as they stood. -/
structure SameTask (c d : Core) : Prop where
  regs : d.regs = c.regs
  acc : d.acc = c.acc
  sp : d.sp = c.sp
  bars : d.bars = c.bars

end Sys2Proof.Claims

/-- R137, R139, R165: IDLE changes nothing but when its stream's next word issues: COUNT cycles later, or never for
0xFFFF_FFFF. BR sends the C stream to word TGT of its section where the condition holds, and changes nothing otherwise. -/
def Obligations.IdleAndBranchMoveOnlyTheirStream : Prop :=
  ∀ (s : State) (st : Stream) (count : BitVec 32) (c : Cond) (a b : BitVec 6) (tgt : BitVec 17),
    (condition c (S s a) (S s b) → exec (.br c a b tgt) s = .next (transferred s .c tgt)) ∧
    (¬ condition c (S s a) (S s b) → exec (.br c a b tgt) s = .next s) ∧
    (count.toNat ≠ 0xFFFFFFFF → exec (.idle st count) s =
      .next (s.setMe (s.me.setStream st { s.me.stream st with base := (s.me.stream st).base + count.toNat }))) ∧
    (count.toNat = 0xFFFFFFFF → exec (.idle st count) s =
      .next (s.setMe (s.me.setStream st { s.me.stream st with parked := true })))

/-- R166, one LOOP: what it does to its counter and where its stream goes, from a zero and from a nonzero counter. -/
def Obligations.LoopCountsAndTransfers : Prop :=
  ∀ (s : State) (st : Stream) (lc : BitVec 2) (n : LoopCount) (tgt : BitVec 17),
    let l := s.me.readL st lc
    ∃ t, exec (.loop st lc n tgt) s = .next t ∧
      (l = 0 → loopCount s n ≤ 1 → t = s) ∧
      (l = 0 → 1 < loopCount s n →
        t = transferred (s.setMe (s.me.putL st lc (BitVec.ofNat 32 (loopCount s n - 1)))) st tgt) ∧
      (l = 1 → t = s.setMe (s.me.putL st lc 0)) ∧
      (1 < l.toNat → t = transferred (s.setMe (s.me.putL st lc (l - 1))) st tgt)

/-- R166: from a zero counter, a LOOP of count n transfers on its first max(n, 1) - 1 arrivals and falls through on the
next with its counter zero again, so its body runs max(n, 1) times. -/
def Obligations.LoopBodyRunsMaxOfCountAndOneTimes : Prop :=
  ∀ (s : State) (st : Stream) (lc : BitVec 2) (n : BitVec 24) (tgt : BitVec 17), s.me.readL st lc = 0 →
    ∃ arrive : Nat → State, arrive 0 = s ∧
      (∀ j, j + 1 < max n.toNat 1 →
        exec (.loop st lc (.imm n) tgt) (arrive j) = .next (arrive (j + 1)) ∧
        (arrive (j + 1)).me.stream st = { off := 8 * tgt.toNat, base := s.me.sp.cyc + 1, fixed := false, parked := false }) ∧
      ∃ t, exec (.loop st lc (.imm n) tgt) (arrive (max n.toNat 1 - 1)) = .next t ∧ t.me.readL st lc = 0 ∧
        t.me.stream st = (arrive (max n.toNat 1 - 1)).me.stream st

/-- R138, R168: XBR reads its saddle record at issue, taken or not, asking for its bank; where the condition holds, all four
streams go to their targets four cycles after issue. -/
def Obligations.SaddleBranchReadsItsRecordAndTransfersFourCyclesLater : Prop :=
  ∀ (s : State) (c : Cond) (a b : BitVec 6) (soff : BitVec 24),
    let off := s.me.code + soff.toNat
    s.me.fe.xbr = none → off + 16 ≤ 0x17F800 → (s.me.secure = true ∨ s.prot.secureSpan (.t0 s.focus.rank) off 16 = false) →
    (∀ i, saddle s off i % 8 = 0 ∧ saddle s off i < 522240) →
    ∃ t, exec (.xbr c a b soff) s = .next t ∧ OnlyCore s t ∧ SameTask s.me t.me ∧
      t.me.pipe.reqs = s.me.pipe.reqs ++ [bankAsk s off 16] ∧
      (condition c (S s a) (S s b) →
        t.me.fe = { s.me.fe with xbr := some { at_ := s.me.sp.cyc + 4, tgt := Vector.ofFn fun i => saddle s off i } }) ∧
      (¬ condition c (S s a) (S s b) → t.me.fe = s.me.fe)

/-- R138, R168, R141: where XBR traps: a transfer is pending, the record lies beyond the terrace, or one of its words is no
section offset. The traps leave the task as it stood. -/
def Obligations.SaddleBranchTrapsOnAPendingTransferOrABadRecord : Prop :=
  ∀ (s : State) (c : Cond) (a b : BitVec 6) (soff : BitVec 24),
    let off := s.me.code + soff.toNat
    (s.me.fe.xbr.isSome → exec (.xbr c a b soff) s = .next (trapped s .illop (wordPtr s) s.focus.word)) ∧
    (s.me.fe.xbr = none → 0x17F800 < off + 16 →
      exec (.xbr c a b soff) s = .next (trapped s .badspace (t0Ptr s.focus.rank off) s.focus.word)) ∧
    (s.me.fe.xbr = none → off + 16 ≤ 0x17F800 → s.me.secure = false → s.prot.secureSpan (.t0 s.focus.rank) off 16 = true →
      exec (.xbr c a b soff) s = .next (trapped s .world (t0Ptr s.focus.rank off) s.focus.word)) ∧
    (s.me.fe.xbr = none → off + 16 ≤ 0x17F800 → (s.me.secure = true ∨ s.prot.secureSpan (.t0 s.focus.rank) off 16 = false) →
      (∃ i, saddle s off i % 8 ≠ 0 ∨ 522240 ≤ saddle s off i) →
      exec (.xbr c a b soff) s = .next (trapped s .illop (wordPtr s) s.focus.word))

/-- R169, R170: TEND: from its issue cycle no later word issues, and a pending XBR transfer does not happen. R171: TRAP
raises SWTRAP with its code in FAUX, and its stream stands after it. -/
def Obligations.TendEndsIssueAndTrapRaisesSwtrap : Prop :=
  ∀ (s : State) (code : BitVec 32),
    exec .tend s = .next (s.setMe { s.me with fe := { s.me.fe with tended := some s.me.sp.cyc, xbr := none } }) ∧
    (s.focus.strm = .c → exec (.trap code) s =
      .next (s.setMe { s.me with pipe := { s.me.pipe with traps := s.me.pipe.traps ++
        [{ src := .word .c, cause := .swtrap, faddr := wordPtr s, faux := mod64 code.toNat, boundary := s.me.sp.cyc }] } }))

/-- R172, R366: RFT is accepted where a0 names the frame of a SUSPENDED slot of the bound context, valid, resumable and of
this context: the resume task ends as by TEND and the framed task is to follow it; without such a frame RFT traps ILLOP. -/
def Obligations.ReturnFromTrapEndsTheResumeTaskOrTraps : Prop :=
  ∀ (s : State),
    (∀ n, s.rftSlot = some n →
      ∃ t, exec .rft s = .next t ∧ OnlyCore s t ∧ SameTask s.me t.me ∧
        t.me.fe.tended = some s.me.sp.cyc ∧ t.me.fe.xbr = none ∧ t.me.fe.rft = some n ∧
        t.me.fe.streams = s.me.fe.streams) ∧
    (s.rftSlot = none → exec .rft s = .next (trapped s .illop (wordPtr s) s.focus.word)) ∧
    (∀ (n : Fin 32) id x pa leaf, s.me.ctx = some id → s.ctx? id = some x → (A s 0).toNat / 2 ^ 50 = 2 ^ 9 →
      s.translate (some (mapUnit s.focus.rank)) x ((A s 0).toNat % 2 ^ 50) false = .ok (.lpddr, pa, leaf) →
      pa = x.frameOf s.focus.rank.val n.val → (s.rawWord .lpddr pa).getLsbD 0 = true →
      (s.rawWord .lpddr pa).toNat / 2 ^ 48 = id.toNat → (s.rawWord .lpddr pa).getLsbD 5 = true →
      (s.rawWord .lpddr pa).toNat / 64 % 4 = 0 → (s.rawWord .lpddr (pa + 128)).getLsbD 8 = false →
      (s.me.tasks.slots[n]).st = .suspended → s.rftSlot = some n)

/-- R173: TASKQ reads its 64-byte descriptor at issue, asking for its bank, and its target is tested three cycles later; any
other pointer than an aligned one of the own terrace traps. -/
def Obligations.TaskqCapturesItsDescriptorAtIssue : Prop :=
  ∀ (s : State) (d b : BitVec 6) (a : BitVec 5),
    let p := A s a
    let off := p.toNat % 2 ^ 50
    (p.toNat / 2 ^ 50 = 2 * 2 ^ 9 + s.focus.rank.val → off % 64 = 0 → off + 64 ≤ 0x17F800 →
      (s.me.secure = true ∨ s.prot.secureSpan (.t0 s.focus.rank) off 64 = false) →
      ∃ t, exec (.taskq d a b) s = .next t ∧ OnlyCore s t ∧ SameTask s.me t.me ∧ t.me.fe = s.me.fe ∧ t.me.mem = s.me.mem ∧
        t.me.pipe.latches = s.me.pipe.latches ++
          [inFlight s 3 (.taskqTest d (S s b)
            ((List.range 8).map fun i => mod64 (leValue (s.bytesAt (.t0 s.focus.rank) (off + 8 * i) 8))) s.preemptAt.isSome) 0] ∧
        t.me.pipe.reqs = s.me.pipe.reqs ++ [bankAsk s off 64]) ∧
    (p.toNat / 2 ^ 50 ≠ 2 * 2 ^ 9 + s.focus.rank.val ∨ off % 64 ≠ 0 ∨ 0x17F800 < off + 64 →
      exec (.taskq d a b) s = .next (trapped s .badspace p s.focus.word))

/-- R174, R175: the status of a TASKQ of core own in the rule's order: 4 for no rank, 2 for a refused descriptor, 3 for a late
gang tick, 1 for no EMPTY slot, while a pre-emption is under way and where a gang has the core; only status 0 changes anything,
and it reserves the lowest-numbered EMPTY slot.
The model's own choices in it: log entry 69. -/
def Obligations.TaskqStatusFollowsItsOrder : Prop :=
  ∀ (s : State) (own : Fin 288) (issue : Nat) (target : W64) (desc : List W64) (preempted : Bool),
    let d := State.listDesc desc
    let test := s.taskqTest own issue target desc preempted
    (288 ≤ target.toNat → test = (s, 4)) ∧
    (∀ r : Fin 288, target.toNat = r.val →
      (s.descOk r (s.core r) d = false → test = (s, 2)) ∧
      (s.descOk r (s.core r) d = true → descGang d = true → s.tickLate (descTick d) = true → test = (s, 3)) ∧
      (s.descOk r (s.core r) d = true → (descGang d = false ∨ s.tickLate (descTick d) = false) →
        (preempted = true ∨ (s.core r).live = false ∨ ((s.core r).tasks.reserved ≠ none ∧ descGang d = false) ∨
          ∀ n : Fin 32, ((s.core r).tasks.slots[n]).st ≠ .empty) → test = (s, 1)) ∧
      (∀ n : Fin 32, s.descOk r (s.core r) d = true → (descGang d = false ∨ s.tickLate (descTick d) = false) →
        preempted = false → (s.core r).live = true → ((s.core r).tasks.reserved = none ∨ descGang d = true) →
        ((s.core r).tasks.slots[n]).st = .empty → (∀ m : Fin 32, m < n → ((s.core r).tasks.slots[m]).st ≠ .empty) →
        ∃ t, test = (t, 0) ∧ ((t.core r).tasks.slots[n]).st = .reserved ∧
          (∀ m : Fin 32, m ≠ n → (t.core r).tasks.slots[m] = (s.core r).tasks.slots[m]) ∧
          (∃ w, (t.core r).tasks.writes = (s.core r).tasks.writes ++ [w] ∧ w.slot = n ∧ w.desc = desc)))

/-- R176, R177: BPOST sends its addition to the named barrier, after the running task's earlier writes that are still in its
core's port, and changes nothing else; its traps. -/
def Obligations.BpostSendsAnAdditionToTheNamedBarrier : Prop :=
  ∀ (s : State) (a : BitVec 5) (b : BitVec 6),
    let p := A s a
    let rank := p.toNat / 2 ^ 50 % 2 ^ 9
    let off := p.toNat % 2 ^ 50
    (p.toNat / 2 ^ 59 = 8 → off % 8 = 0 → off < 2048 → ∀ r : Fin 288, rank = r.val →
      (s.me.secure = true ∨ (s.core r).world = false) →
      ∃ t x, exec (.bpost a b) s = .next t ∧ OnlyCore s t ∧ t.me = s.me ∧ t.adds = s.adds ++ [x] ∧
        x.rank = rank ∧ x.bar = off / 8 ∧ x.count = (S s b).toNat ∧ x.ctxid = s.me.ctxid ∧ x.chain = none ∧
        (r = s.focus.rank → x.due = s.now + 1) ∧ s.now + 1 ≤ x.due ∧
        (∀ y ∈ s.me.mem.port, (match y.kind with | .read .. | .fence .. => False | _ => True) →
          y.slot = s.me.slot → y.ctxid = s.me.ctxid → y.ended = false → y.issue < s.me.sp.cyc → y.id ∈ x.after)) ∧
    (p.toNat / 2 ^ 59 = 8 → off % 8 = 0 → off < 2048 → ∀ r : Fin 288, rank = r.val →
      s.me.secure = false → (s.core r).world = true → exec (.bpost a b) s = .next (trapped s .world p s.focus.word)) ∧
    (p.toNat / 2 ^ 59 ≠ 8 ∨ off % 8 ≠ 0 ∨ 2048 ≤ off ∨ 288 ≤ rank →
      exec (.bpost a b) s = .next (trapped s .badspace p s.focus.word))

/-- R178: BREAD reads the barrier as it stood at the start of the cycle. R118, R179: FMT pushes one entry, and a push to a
full queue traps FMTUNDER with FAUX 1 and FADDR 0. In a cycle in which a product gets its popped entry back, the push of that
cycle onto a queue that is full again traps so too. -/
def Obligations.BarrierReadsAndFormatPushes : Prop :=
  ∀ (s : State) (d a : BitVec 6) (bar : BitVec 8),
    Result (.bread d bar) s 1 d (mod64 ((s.me.bars.start[bar.toNat]?).getD 0).toNat) ∧
    (s.me.regs.fq.length < 16 → ∃ t, exec (.fmt a) s = .next t ∧ OnlyCore s t ∧
      t.me = { s.me with regs := { s.me.regs with fq := s.me.regs.fq ++ [S s a] }, pipe := t.me.pipe } ∧
      t.me.pipe = { s.me.pipe with undo := t.me.pipe.undo }) ∧
    (16 ≤ s.me.regs.fq.length → exec (.fmt a) s = .next (trapped s .fmtunder 0 1)) ∧
    (∀ (c : Core) (n : Nat), 16 < c.regs.fq.length → (∃ u ∈ c.pipe.undo, u.pushed.isSome = true) →
      (c.overFull n).regs.fq = c.regs.fq.dropLast ∧
      ∃ x, (c.overFull n).pipe.traps = c.pipe.traps ++ [x] ∧ x.src = .word .c ∧ x.cause = .fmtunder ∧ x.faddr = 0 ∧ x.faux = 1)

/-- R120, R121, R180: SRD of every special register; numbers 12 to 63 trap ILLREG. -/
def Obligations.SpecialRegistersAreReadByNumber : Prop :=
  ∀ (s : State) (d n : BitVec 6),
    (n.toNat < 12 → Result (.srd d n) s 1 d
      (match n.toNat with
        | 0 => mod64 s.me.sp.cyc
        | 1 => s.tick
        | 2 => mod64 s.focus.rank.val
        | 3 => mod64 (s.me.ctxid.toNat * 2 ^ 16 + (if s.me.secure then 2 ^ 8 else 0) + s.me.ctxSlot.toNat : Nat)
        | 4 => mod64 s.me.view.version.toNat
        | 5 => mod64 s.me.sp.taskv.toNat
        | 6 => mod64 s.me.sp.frz
        | 7 => mod64 s.me.sp.fpf.toNat
        | 8 => mod64 s.me.sp.cause.toNat
        | 9 => s.me.sp.faddr
        | 10 => s.me.sp.faux
        | _ => s.me.sp.tmcmp)) ∧
    (12 ≤ n.toNat → exec (.srd d n) s = .next (trapped s .illreg (wordPtr s) s.focus.word))

/-- R180: SWR writes FPF and TMCMP at issue + 1, has no effect on a read-only register, and traps ILLREG beyond them. R181:
MAPACK sends the acknowledgement of the core's own version for its context and changes nothing else. -/
def Obligations.SpecialWritesAndMapAcknowledgement : Prop :=
  ∀ (s : State) (a n : BitVec 6),
    (n.toNat = 7 ∨ n.toNat = 11 → exec (.swr a n) s = .next (holding s 1 (.special n (S s a)))) ∧
    (n.toNat < 12 → n.toNat ≠ 7 → n.toNat ≠ 11 → exec (.swr a n) s = .next s) ∧
    (12 ≤ n.toNat → exec (.swr a n) s = .next (trapped s .illreg (wordPtr s) s.focus.word)) ∧
    (∃ t due, exec .mapack s = .next t ∧ OnlyCore s t ∧ t.me = s.me ∧ due ≤ s.now + 64 ∧
      t.acks = s.acks ++ [(s.me.ctxid, s.me.view.version, due)])

/-! ## The V stream -/

namespace Sys2Proof.Claims

/-- What R148, R149, R153 and the entries of the V stream say of a word that writes vector or mask registers: the offset of
slice 0, the vector, mask and scalar registers read, the vector registers written, and whether it needs the unit of R142. -/
structure VecRow where
  lat : Nat
  reads : List (BitVec 9)
  masks : List (BitVec 4)
  scals : List (BitVec 6)
  writes : List (BitVec 9)
  unit : Bool

/-- A binary row: vd, va, and a vector or scalar second operand. -/
def binRow (x : VBin) (lat : Nat) (unit : Bool := false) : VecRow :=
  match x.src with
  | .vec b => { lat := lat, reads := [x.va, b], masks := [x.k], scals := [], writes := [x.vd], unit := unit }
  | .scal b => { lat := lat, reads := [x.va], masks := [x.k], scals := [b], writes := [x.vd], unit := unit }

def unRow (x : VUn) (lat : Nat) (unit : Bool := false) : VecRow :=
  { lat := lat, reads := [x.va], masks := [x.k], scals := [], writes := [x.vd], unit := unit }

def triRow (x : VTri) (lat : Nat) : VecRow :=
  { lat := lat, reads := [x.va, x.vb, x.vc], masks := [x.k], scals := [], writes := [x.vd], unit := false }

def duoRow (x : VDuo) (lat : Nat) : VecRow :=
  { lat := lat, reads := [x.va, x.vb], masks := [x.k], scals := [], writes := [x.vd], unit := false }

/-- A row of a destination, vector sources, a VAL operand and masks. -/
def valRow (vd : BitVec 9) (reads : List (BitVec 9)) (v : VsVal) (masks : List (BitVec 4)) (lat : Nat) : VecRow :=
  { lat := lat, reads := reads, masks := masks, scals := (match v with | .imm _ => [] | .reg b => [b]), writes := [vd], unit := false }

/-- A mask row: only mask and scalar registers. -/
def maskRow (masks : List (BitVec 4)) (scals : List (BitVec 6)) : VecRow :=
  { lat := 1, reads := [], masks := masks, scals := scals, writes := [], unit := false }

/-- 2 cycles for an integer type, 4 for a floating-point one. -/
def intOrFloat (t : EType) : Nat := if t.isI then 2 else 4

/-- The group of VRED lies within one slice of 256 bytes: latency 6, otherwise 12. -/
def redCycles (t : EType) (g : BitVec 4) : Nat := if 2 ^ g.toNat * t.width / 8 ≤ 256 then 6 else 12

/-- The rows of the V class that write vector or mask registers by slices. -/
def vecRow : Instr → Option VecRow
  | .vadd x => some (binRow x (intOrFloat x.ty))
  | .vsub x => some (binRow x (intOrFloat x.ty))
  | .vmul x => some (binRow x 4)
  | .vmulh x => some (binRow x 4)
  | .vmin x => some (binRow x (intOrFloat x.ty))
  | .vmax x => some (binRow x (intOrFloat x.ty))
  | .vabs x => some (unRow x (intOrFloat x.ty))
  | .vneg x => some (unRow x (intOrFloat x.ty))
  | .vand x => some (binRow x 2)
  | .vor x => some (binRow x 2)
  | .vxor x => some (binRow x 2)
  | .vandn x => some (binRow x 2)
  | .vshl x => some (binRow x 2)
  | .vshr x => some (binRow x 2)
  | .vsra x => some (binRow x 2)
  | .vrol x => some (binRow x 2)
  | .vclz x => some (unRow x 2)
  | .vpopc x => some (unRow x 2)
  | .vdiv x => some (binRow x 16 true)
  | .vsqrt x => some (unRow x 16 true)
  | .vrcp x => some (unRow x 16 true)
  | .vrsq x => some (unRow x 16 true)
  | .vexp2 x => some (unRow x 16 true)
  | .vlog2 x => some (unRow x 16 true)
  | .vrnd x => some (unRow x 4)
  | .vfma x => some (triRow x 4)
  | .vfms x => some (triRow x 4)
  | .vfnma x => some (triRow x 4)
  | .vfshl x => some (triRow x 2)
  | .vfshr x => some (triRow x 2)
  | .vcmp _ va (.vec b) k ty _ =>
      some { lat := intOrFloat ty, reads := [va, b], masks := [k], scals := [], writes := [], unit := false }
  | .vcmp _ va (.scal b) k ty _ =>
      some { lat := intOrFloat ty, reads := [va], masks := [k], scals := [b], writes := [], unit := false }
  | .vsel x => some (duoRow x 2)
  | .vcvt vd va k _ _ _ _ => some { lat := 4, reads := [va], masks := [k], scals := [], writes := [vd], unit := false }
  | .vqmx vd vb va k _ _ => some { lat := 6, reads := [va], masks := [k], scals := [], writes := [vd, vb], unit := false }
  | .vdqmx vd va vb k _ _ _ => some { lat := 4, reads := [va, vb], masks := [k], scals := [], writes := [vd], unit := false }
  | .vli vd _ k _ => some { lat := 2, reads := [], masks := [k], scals := [], writes := [vd], unit := false }
  | .vbcast vd v k _ => some (valRow vd [] v [k] 3)
  | .vmov vd va k => some { lat := 2, reads := [va], masks := [k], scals := [], writes := [vd], unit := false }
  | .vins vd sa (.imm _) _ => some { lat := 3, reads := [], masks := [], scals := [sa], writes := [vd], unit := false }
  | .vins vd sa (.reg b) _ => some { lat := 3, reads := [], masks := [], scals := [sa, b], writes := [vd], unit := false }
  | .vidx vd v k _ => some (valRow vd [] v [k] 2)
  | .vperm x => some (triRow x 11)
  | .vrot vd va v k _ => some (valRow vd [va] v [k] 11)
  | .vshup vd va v k _ => some (valRow vd [va] v [k] 11)
  | .vzip x => some (duoRow x 11)
  | .vunzip x => some (duoRow x 11)
  | .vtrn x => some (duoRow x 3)
  | .vcomp vd va k _ => some { lat := 11, reads := [va], masks := [k], scals := [], writes := [vd], unit := false }
  | .vexpd vd va k _ => some { lat := 11, reads := [va], masks := [k], scals := [], writes := [vd], unit := false }
  | .vred vd va k ty _ _ g => some { lat := redCycles ty g, reads := [va], masks := [k], scals := [], writes := [vd], unit := false }
  | .vscan vd va k _ _ _ _ => some { lat := 14, reads := [va], masks := [k], scals := [], writes := [vd], unit := false }
  | .vcmul x => some (duoRow x 4)
  | .vcmac x => some (triRow x 4)
  | .kand _ a b => some (maskRow [a, b] [])
  | .kor _ a b => some (maskRow [a, b] [])
  | .kxor _ a b => some (maskRow [a, b] [])
  | .knot _ a => some (maskRow [a] [])
  | .kmov _ a => some (maskRow [a] [])
  | .kfroms _ sa => some (maskRow [] [sa])
  | .kbytes _ sa sb => some (maskRow [] [sa, sb])
  | _ => none

/-- A register with only the bytes of slice 0, the others zero. -/
def firstSlice (v : VReg) : VReg := Vector.ofFn fun j => if j.val < 256 then v[j] else 0
def firstPortion (m : MReg) : MReg := Vector.ofFn fun j => if j.val < 256 then m[j] else false

/-- Every vector register the row names is one of v0 to v383. -/
def VecRow.inFile (w : VecRow) : Prop := ∀ r ∈ w.reads ++ w.writes, r.toNat < 384

/-- s with the V word in flight: due lat cycles after issue for slice 0, its scalars and the first slices of its vector and
mask operands read; the unit of R142 is busy for four cycles where the row needs it. -/
def entered (s : State) (w : VecRow) : State :=
  s.setMe { s.me with pipe := { s.me.pipe with
    latches := s.me.pipe.latches ++ [inFlight s w.lat (.vword (w.scals.map s.me.readS)
      (w.reads.map fun r => firstSlice (s.me.readV r)) (w.masks.map fun k => firstPortion (s.me.readK k))) 0]
    divFree := if w.unit then s.me.sp.cyc + 4 else s.me.pipe.divFree } }

/-- The slices 0 to 7 of a write, all performed. -/
def performAll (c : Core) (w : VWrite) : Core :=
  (List.range 8).foldl (fun c j => match w with
    | .vec r v en => (RegWrite.vec r j v en).apply c
    | .msk r m en => (RegWrite.msk r j m en).apply c) c

/-- The core once a V word with the given captured operands has written all its results. -/
def afterWord (c : Core) (i : Instr) (scal : List W64) (ops : List VReg) (mops : List MReg) : Core :=
  (vEval i scal ops mops).writes.foldl performAll c

/-- Element i of type t of a register, as the number its bits read little-endian. -/
def elem (t : EType) (v : VReg) (i : Nat) : Nat := elemAt t v i

/-- A w-bit code as the type reads it: two's complement for a signed type. -/
def asInt (t : EType) (n : Nat) : Int := if t.isSigned ∧ 2 ^ (t.width - 1) ≤ n then (n : Int) - 2 ^ t.width else n

/-- Element e is selected: the mask bit of its lowest byte is 1 (R114, R185). -/
def chosen (t : EType) (k : MReg) (e : Nat) : Bool := (k[e * t.width / 8]?).getD false

/-- No register but v changes, of the vector and of the mask file. -/
def OnlyVec (v : BitVec 9) (c d : Core) : Prop := (∀ r, r ≠ v → d.readV r = c.readV r) ∧ ∀ q, d.readK q = c.readK q

/-- The elements of v that the mask selects take their value, the others keep theirs, and nothing else changes. -/
def Elements (t : EType) (v : BitVec 9) (k : MReg) (val : Nat → Nat) (c d : Core) : Prop :=
  (∀ e, e < t.count → elem t (d.readV v) e = if chosen t k e then val e else elem t (c.readV v) e) ∧ OnlyVec v c d

/-- Every element of v takes its value, and nothing else changes. -/
def AllElements (t : EType) (v : BitVec 9) (val : Nat → Nat) (c d : Core) : Prop :=
  (∀ e, e < t.count → elem t (d.readV v) e = val e) ∧ OnlyVec v c d

/-- The flags are those that some element of the first n sets (R99). -/
def FlagsOf (fl : BitVec 6) (n : Nat) (live : Nat → Bool) (f : Nat → BitVec 6) : Prop :=
  ∀ b, fl.getLsbD b = true ↔ ∃ e, e < n ∧ live e = true ∧ (f e).getLsbD b = true

/-- The second operand of an element: of a register, or the low bits of a scalar for every element (R184). -/
def second (t : EType) (scalar : Bool) (scal : List W64) (b : VReg) (e : Nat) : Nat :=
  if scalar then (scalAt scal 0).toNat % 2 ^ t.width else elem t b e

def isScalar : VSrc → Bool
  | .scal _ => true
  | .vec _ => false

/-- Destination, type and whether the second operand is a scalar, of the element-wise rows of R188, R191 and R192. -/
def elemRow : Instr → Option (BitVec 9 × EType × Bool)
  | .vadd x | .vsub x | .vmul x | .vmulh x | .vmin x | .vmax x | .vand x | .vor x | .vxor x | .vandn x
  | .vshl x | .vshr x | .vsra x | .vrol x | .vdiv x => some (x.vd, x.ty, isScalar x.src)
  | .vabs x | .vneg x | .vclz x | .vpopc x | .vsqrt x | .vrcp x | .vrsq x | .vexp2 x | .vlog2 x | .vrnd x =>
      some (x.vd, x.ty, false)
  | .vfma x | .vfms x | .vfnma x | .vfshl x | .vfshr x => some (x.vd, x.ty, false)
  | _ => none

/-- The exact integer of R189 for the arithmetic rows, on operands as their type reads them. -/
def intRow (t : EType) : Instr → Option (Int → Int → Int)
  | .vadd _ => some fun a b => a + b
  | .vsub _ => some fun a b => a - b
  | .vmul _ => some fun a b => a * b
  | .vmulh _ => some fun a b => a * b / 2 ^ t.width
  | .vmin _ => some min
  | .vmax _ => some max
  | .vabs _ => some fun a _ => |a|
  | .vneg _ => some fun a _ => -a
  | _ => none

/-- The row names .sat. -/
def saturates : Instr → Bool
  | .vadd x | .vsub x | .vmul x => x.sat
  | .vabs x | .vneg x => x.sat
  | _ => false

/-- The rows of R189 and R192 on w-bit patterns: logic, shifts, counts and funnel shifts. -/
def patRow (w : Nat) : Instr → Option (Nat → Nat → Nat → Nat)
  | .vand _ => some fun a b _ => a &&& b
  | .vor _ => some fun a b _ => a ||| b
  | .vxor _ => some fun a b _ => a ^^^ b
  | .vandn _ => some fun a b _ => (BitVec.ofNat w a &&& ~~~BitVec.ofNat w b).toNat
  | .vshl _ => some fun a b _ => a * 2 ^ (b % w) % 2 ^ w
  | .vshr _ => some fun a b _ => a / 2 ^ (b % w)
  | .vsra _ => some fun a b _ => ((BitVec.ofNat w a).sshiftRight (b % w)).toNat
  | .vrol _ => some fun a b _ => ((BitVec.ofNat w a).rotateLeft (b % w)).toNat
  | .vclz _ => some fun a _ _ => if a = 0 then w else w - 1 - Nat.log2 a
  | .vpopc _ => some fun a _ _ => ((List.range w).filter fun j => a.testBit j).length
  | .vfshl _ => some fun a b s => (a * 2 ^ w + b) * 2 ^ (s % w) / 2 ^ w % 2 ^ w
  | .vfshr _ => some fun a b s => (a * 2 ^ w + b) / 2 ^ (s % w) % 2 ^ w
  | _ => none

/-- VLI's element (R199). -/
def liElem (t : EType) (v : BitVec 18) : Nat :=
  if t.isI then (v.toInt % 2 ^ t.width).toNat else if t = .f32 then v.toNat * 2 ^ 14 else v.toNat % 2 ^ 16

/-- A count or index operand: VAL read unsigned, or the scalar. -/
def cntOf (v : VsVal) (x : W64) : Nat := match v with | .imm n => n.toNat | .reg _ => x.toNat

/-- The selected elements with lo ≤ index < hi, in order. -/
def inputs (t : EType) (k : MReg) (a : VReg) (lo hi : Nat) : List Nat :=
  ((List.range (hi - lo)).filter fun j => chosen t k (lo + j)).map fun j => elem t a (lo + j)

/-- The result of R207 for integer inputs; that of no inputs stands at the end of each fold. -/
def intReduce (t : EType) (op : RedOp) (xs : List Nat) : Nat :=
  let lo : Int := if t.isSigned then -2 ^ (t.width - 1) else 0
  let hi : Int := if t.isSigned then 2 ^ (t.width - 1) - 1 else 2 ^ t.width - 1
  match op with
  | .add => xs.sum % 2 ^ t.width
  | .min => (((xs.map (asInt t)).foldr min hi) % 2 ^ t.width).toNat
  | .max => (((xs.map (asInt t)).foldr max lo) % 2 ^ t.width).toNat
  | .and => xs.foldr (· &&& ·) (2 ^ t.width - 1)
  | .or => xs.foldr (· ||| ·) 0
  | .xor => xs.foldr (· ^^^ ·) 0

/-- The result of R110 for floating-point inputs, with its flags: one rounding of the exact sum, or the least or greatest of
the inputs by R109. -/
def fltReduce (f : Fmt) (rm : RMode) (op : RedOp) (xs : List Nat) : Nat × BitVec 6 :=
  match op, xs with
  | .min, [] | .max, [] => (f.qnan, 0)
  | .min, x :: rest | .max, x :: rest =>
      rest.foldl (fun acc y =>
        let r := fltMinMax f (op = .max) (f.decode acc.1) (f.decode y)
        (r.1, acc.2 ||| r.2)) (f.put .rn false (f.decode x))
  | _, [] => (0, 0)
  | _, xs => roundSum f rm (xs.map f.decode)

/-- The rounded sum of terms, some of them products with the flags of the product (R104, R105, R107). -/
def fused (f : Fmt) (rm : RMode) (ps : List (FVal × BitVec 6)) : Nat × BitVec 6 :=
  let r := roundSum f rm (ps.map (·.1))
  (r.1, ps.foldl (fun fl p => fl ||| p.2) r.2)

/-- The floating-point rows of R190 and R191 on codes: the exact result of the decoded operands, rounded once, with its
flags. -/
def fltRow (f : Fmt) (rm : RMode) (i : Instr) (a b c : Nat) : Option (Nat × BitVec 6) :=
  let x := f.decode a
  let y := f.decode b
  let z := f.decode c
  let neg (p : FVal × BitVec 6) : FVal × BitVec 6 := (p.1.neg, p.2)
  let signed (code : Nat) : Nat × BitVec 6 := match x with | .nan s => (f.qnan, if s then 0x10 else 0) | _ => (code, 0)
  match i with
  | .vadd _ => some (roundSum f rm [x, y])
  | .vsub _ => some (roundSum f rm [x, y.neg])
  | .vmul _ => let p := x.mul y; some ((f.put rm false p.1).1, (f.put rm false p.1).2 ||| p.2)
  | .vmin _ => some (fltMinMax f false x y)
  | .vmax _ => some (fltMinMax f true x y)
  | .vabs _ => some (signed (a % 2 ^ (f.width - 1)))
  | .vneg _ => some (signed (a ^^^ 2 ^ (f.width - 1)))
  | .vdiv _ => some (fltDiv f rm x y)
  | .vsqrt _ => some (fltSqrt f rm x)
  | .vrcp _ => some (fltRcp f rm x)
  | .vrsq _ => some (fltRsq f rm x)
  | .vexp2 _ => some (fltExp2 f rm x)
  | .vlog2 _ => some (fltLog2 f rm x)
  | .vrnd _ => some (fltRnd f rm x)
  | .vfma _ => some (fused f rm [x.mul y, (z, 0)])
  | .vfms _ => some (fused f rm [x.mul y, (z.neg, 0)])
  | .vfnma _ => some (fused f rm [neg (x.mul y), (z, 0)])
  | _ => none

/-- The rounding mode of a floating-point row; the rows that do not round have none. -/
def rowMode : Instr → RMode
  | .vadd x | .vsub x | .vmul x | .vdiv x => x.rm
  | .vsqrt x | .vrcp x | .vrsq x | .vexp2 x | .vlog2 x | .vrnd x => x.rm
  | .vfma x | .vfms x | .vfnma x => x.rm
  | _ => .rn

/-- R196, R100 to R102: the conversion of one element and its flags. -/
def convert (src dst : EType) (rm : RMode) (sat : Bool) (a : Nat) : Nat × BitVec 6 :=
  let n := asInt src a
  let lo : Int := if dst.isSigned then -2 ^ (dst.width - 1) else 0
  let hi : Int := if dst.isSigned then 2 ^ (dst.width - 1) - 1 else 2 ^ dst.width - 1
  let v : FVal := if src.isI then (if n = 0 then .zero false else .fin n 0) else if src = .log6 then log6Value a
    else (EType.fmt src).decode a
  if src.isI ∧ dst.isI then
    if src ≠ dst ∧ sat = true ∧ dst.width < src.width then
      ((max lo (min hi n) % 2 ^ dst.width).toNat, if max lo (min hi n) = n then 0 else 0x20)
    else ((n % 2 ^ dst.width).toNat, 0)
  else if src = dst then
    match v with
    | .nan s => (if src = .log6 then 0x30 else (EType.fmt src).qnan, if s then 0x10 else 0)
    | _ => (a, 0)
  else if dst.isI then intPut dst.width dst.isSigned rm v
  else if dst = .log6 then log6Put rm v
  else (EType.fmt dst).put rm sat v

/-- Bytes of a block's codes in a slice (R197): 32, or 16 for the formats of four bits. -/
def blockBytes : MxFmt → Nat
  | .e2m1 | .int4 => 16
  | _ => 32

end Sys2Proof.Claims

/-- R141, R142, R153, R182: every V word that writes vector or mask registers enters the pipeline with its own latency, the
scalars and first operand slices it reads; a busy unit traps ILLOP and a register beyond v383 ILLREG.
The floating-point rows then write the exact result rounded once (R190, R191), with the special operands of R88, R108 and
R190; VCVT, VQMX and VDQMX write the converted elements at their places (R195 to R198); VRED and VSCAN of a floating-point
type write what R110 says, and VCMUL and VCMAC both parts of each selected pair (R209); the flags are those of the elements
written (R99). The model's own choices in it: log entries 21, 22, 23, 57 and 61. -/
def Obligations.VectorWordsEnterThePipelineAndFloatRowsRound : Prop :=
  (∀ (s : State) (i : Instr) (w : VecRow), vecRow i = some w →
    (w.inFile → (w.unit = true → s.me.pipe.divFree ≤ s.me.sp.cyc) → exec i s = .next (entered s w)) ∧
    (w.unit = true → s.me.sp.cyc < s.me.pipe.divFree → exec i s = .next (trapped s .illop (wordPtr s) s.focus.word)) ∧
    (¬ w.inFile → (w.unit = true → s.me.pipe.divFree ≤ s.me.sp.cyc) →
      exec i s = .next (trapped s .illreg (wordPtr s) s.focus.word))) ∧
  (∀ (c : Core) (scal : List W64) (ops : List VReg) (k : MReg) (mops : List MReg) (vd : BitVec 9) (t : EType) (sc : Bool),
    let a := opAt ops 0
    let b := opAt ops 1
    let z := opAt ops 2
    let flags (i : Instr) : BitVec 6 := (vEval i scal ops (k :: mops)).flags
    let after (i : Instr) : Core := afterWord c i scal ops (k :: mops)
    vd.toNat < 384 →
    (∀ i, elemRow i = some (vd, t, sc) → t.isF = true → (∃ r, fltRow (EType.fmt t) (rowMode i) i 0 0 0 = some r) →
      let val (e : Nat) := (fltRow (EType.fmt t) (rowMode i) i (elem t a e) (second t sc scal b e) (elem t z e)).getD (0, 0)
      Elements t vd k (fun e => (val e).1) c (after i) ∧ FlagsOf (flags i) t.count (chosen t k) fun e => (val e).2) ∧
    (∀ (va : BitVec 9) (km : BitVec 4) (rm : RMode) (op : RedOp) (g : BitVec 4), t.isF = true → 2 ^ g.toNat ≤ t.count →
      (op = .add ∨ op = .min ∨ op = .max) →
      let red (e : Nat) := fltReduce (EType.fmt t) rm op (inputs t k a (e / 2 ^ g.toNat * 2 ^ g.toNat)
        (e / 2 ^ g.toNat * 2 ^ g.toNat + 2 ^ g.toNat))
      let scan (e : Nat) := fltReduce (EType.fmt t) rm op (inputs t k a (e / 2 ^ g.toNat * 2 ^ g.toNat) (e + 1))
      AllElements t vd (fun e => (red e).1) c (after (.vred vd va km t rm op g)) ∧
      FlagsOf (flags (.vred vd va km t rm op g)) t.count (fun _ => true) (fun e => (red e).2) ∧
      AllElements t vd (fun e => (scan e).1) c (after (.vscan vd va km t rm op g)) ∧
      FlagsOf (flags (.vscan vd va km t rm op g)) t.count (fun _ => true) fun e => (scan e).2) ∧
    (∀ (i : Instr) (rm : RMode) (acc : Bool), t.isF = true →
      (match i with
        | .vcmul x => x.vd = vd ∧ x.ty = t ∧ x.rm = rm ∧ acc = false
        | .vcmac x => x.vd = vd ∧ x.ty = t ∧ x.rm = rm ∧ acc = true
        | _ => False) →
      let d (v : VReg) (e : Nat) : FVal := (EType.fmt t).decode (elem t v e)
      let first (e : Nat) : List (FVal × BitVec 6) := if acc then [(d z e, 0)] else []
      let re (e : Nat) := fused (EType.fmt t) rm (first e ++
        [(d a e).mul (d b e), (((d a (e + 1)).mul (d b (e + 1))).1.neg, ((d a (e + 1)).mul (d b (e + 1))).2)])
      let im (e : Nat) := fused (EType.fmt t) rm (first (e + 1) ++ [(d a e).mul (d b (e + 1)), (d a (e + 1)).mul (d b e)])
      let val (e : Nat) := if e % 2 = 0 then re e else im (e - 1)
      (∀ e, e < t.count → elem t ((after i).readV vd) e =
        if chosen t k (e / 2 * 2) then (val e).1 else elem t (c.readV vd) e) ∧
      OnlyVec vd c (after i) ∧ FlagsOf (flags i) t.count (fun e => chosen t k (e / 2 * 2)) fun e => (val e).2) ∧
    (∀ (va : BitVec 9) (km : BitVec 4) (src dst : EType) (rm : RMode) (sat : Bool),
      let i := Instr.vcvt vd va km src rm dst sat
      let m := 2048 / max src.width dst.width
      let inS := 2048 / src.width
      let inD := 2048 / dst.width
      let val (e : Nat) := convert src dst rm sat (elem src a (e / inD * inS + e % inD))
      (∀ e, e < dst.count → elem dst ((after i).readV vd) e =
        if e % inD < m ∧ chosen dst k e = true then (val e).1 % 2 ^ dst.width else elem dst (c.readV vd) e) ∧
      OnlyVec vd c (after i) ∧ FlagsOf (flags i) dst.count (fun e => e % inD < m && chosen dst k e) fun e => (val e).2) ∧
    (∀ (va vb : BitVec 9) (km : BitVec 4) (rm : RMode) (f : MxFmt), vb.toNat < 384 → vb ≠ vd →
      let i := Instr.vqmx vd vb va km rm f
      let n := blockBytes f
      let block (q : Nat) := quantise f rm ((List.range 32).map fun j => fmtF32.decode (elem .f32 a (32 * q + j)))
      let code (q j : Nat) : Nat := (((block q).2.1)[j]?).getD 0
      let live (q : Nat) : Bool := (k[128 * q]?).getD false
      (∀ sl j, sl < 8 → j < 256 →
        ((after i).readV vd)[256 * sl + j]? = some (
          if j < 2 * n then
            (if live (2 * sl + j / n) then
              (if n = 32 then BitVec.ofNat 8 (code (2 * sl + j / n) (j % n))
                else BitVec.ofNat 8 (code (2 * sl + j / n) (2 * (j % n)) % 16 + 16 * (code (2 * sl + j / n) (2 * (j % n) + 1) % 16)))
            else (((c.readV vd)[256 * sl + j]?).getD 0))
          else 0) ∧
        ((after i).readV vb)[256 * sl + j]? = some (
          if j < 2 then
            (if live (2 * sl + j) then BitVec.ofNat 8 (block (2 * sl + j)).1 else (((c.readV vb)[256 * sl + j]?).getD 0))
          else 0)) ∧
      (∀ r, r ≠ vd → r ≠ vb → (after i).readV r = c.readV r) ∧ (∀ q, (after i).readK q = c.readK q) ∧
      FlagsOf (flags i) 16 live fun q => (block q).2.2) ∧
    (∀ (va vb : BitVec 9) (km : BitVec 4) (rm : RMode) (f : MxFmt), t.isF = true →
      let i := Instr.vdqmx vd va vb km t rm f
      let m := 2048 / t.width
      let val (e : Nat) : Nat × BitVec 6 :=
        let sl := e / m
        let h := e % m / 32
        let j := e % 32
        let byte (v : VReg) (x : Nat) : Nat := ((v[x]?).getD 0).toNat
        let code := if blockBytes f = 32 then byte a (256 * sl + 32 * h + j) else byte a (256 * sl + 16 * h + j / 2) / 16 ^ (j % 2) % 16
        (EType.fmt t).put rm false (mxValue f (byte b (256 * sl + h)) (if f = .log6 then code % 64 else code))
      Elements t vd k (fun e => (val e).1) c (after i) ∧ FlagsOf (flags i) t.count (chosen t k) fun e => (val e).2)) ∧
  (∀ (t : EType) (rm : RMode) (m n e g : Int) (p q s : Bool), t.isF = true → m ≠ 0 → n ≠ 0 →
    let f := EType.fmt t
    let nan (s : Bool) : Nat × BitVec 6 := (f.qnan, if s then 0x10 else 0)
    let invalid : Nat × BitVec 6 := (f.qnan, 0x10)
    let inf (neg : Bool) : Nat := (if neg then 2 ^ (f.width - 1) else 0) + f.infCode
    let zero (neg : Bool) : Nat := if neg then 2 ^ (f.width - 1) else 0
    fltDiv f rm (.nan s) (.fin m e) = nan s ∧ fltDiv f rm (.fin m e) (.nan s) = nan s ∧
    fltDiv f rm (.fin m e) (.zero p) = (inf (decide (m < 0) != p), 8) ∧
    fltDiv f rm (.zero p) (.zero q) = invalid ∧ fltDiv f rm (.inf p) (.inf q) = invalid ∧
    fltDiv f rm (.inf p) (.fin m e) = (inf (p != decide (m < 0)), 0) ∧
    fltDiv f rm (.fin m e) (.inf p) = (zero (decide (m < 0) != p), 0) ∧
    fltSqrt f rm (.nan s) = nan s ∧ fltSqrt f rm (.zero p) = (zero p, 0) ∧ fltSqrt f rm (.inf false) = (inf false, 0) ∧
    fltSqrt f rm (.inf true) = invalid ∧ (m < 0 → fltSqrt f rm (.fin m e) = invalid) ∧
    fltRcp f rm (.nan s) = nan s ∧ fltRcp f rm (.zero p) = (inf p, 8) ∧ fltRcp f rm (.inf p) = (zero p, 0) ∧
    fltRsq f rm (.nan s) = nan s ∧ fltRsq f rm (.zero p) = (inf p, 8) ∧ fltRsq f rm (.inf false) = (zero false, 0) ∧
    fltRsq f rm (.inf true) = invalid ∧ (m < 0 → fltRsq f rm (.fin m e) = invalid) ∧
    fltExp2 f rm (.nan s) = nan s ∧ fltExp2 f rm (.inf true) = (zero false, 0) ∧ fltExp2 f rm (.inf false) = (inf false, 0) ∧
    fltLog2 f rm (.nan s) = nan s ∧ fltLog2 f rm (.zero p) = (inf true, 8) ∧ (∀ j : Nat, fltLog2 f rm (.fin (2 ^ j) (-j)) = (0, 0)) ∧
    fltLog2 f rm (.inf false) = (inf false, 0) ∧ fltLog2 f rm (.inf true) = invalid ∧
    (m < 0 → fltLog2 f rm (.fin m e) = invalid) ∧
    fltRnd f rm (.zero p) = (zero p, 0) ∧ fltRnd f rm (.inf p) = (inf p, 0) ∧ fltRnd f rm (.nan s) = nan s ∧
    (exactSum [.inf false, .inf true] rm = (.nan false, 0x10)) ∧ (FVal.inf p).mul (.zero q) = (.nan false, 0x10) ∧
    (FVal.fin m e).mul (.fin n g) = (.fin (m * n) (e + g), 0) ∧
    exactSum [.fin m e, .fin (-m) e] rm = (.zero (rm = .rd), 0))

/-- R99, R111, R114, R185, R189, R192: an integer row writes to every element whose predicate is 1 the exact result modulo 2^w,
or with .sat the result clamped to the type's range with SAT where clamping changed one; the logic, shift, count and funnel
rows write their pattern; other elements and registers keep. R194, R199 to R206: the selects, moves and permutes write the
element they name. R207, R208: VRED and VSCAN of an integer type write each group's result.
The model's own choices in it: log entry 57. -/
def Obligations.VectorIntegerMoveAndPermuteRowsComputeElementByElement : Prop :=
  ∀ (c : Core) (scal : List W64) (ops : List VReg) (k : MReg) (mops : List MReg) (vd va : BitVec 9) (km : BitVec 4) (t : EType)
      (sc : Bool),
    let w := t.width
    let n := t.count
    let a := opAt ops 0
    let b := opAt ops 1
    let z := opAt ops 2
    let x := scalAt scal 0
    let flags (i : Instr) : BitVec 6 := (vEval i scal ops (k :: mops)).flags
    let after (i : Instr) : Core := afterWord c i scal ops (k :: mops)
    let sel (i : Instr) (val : Nat → Nat) : Prop := Elements t vd k val c (after i) ∧ flags i = 0
    let all (i : Instr) (val : Nat → Nat) : Prop := AllElements t vd val c (after i) ∧ flags i = 0
    vd.toNat < 384 →
    (∀ i f, elemRow i = some (vd, t, sc) → intRow t i = some f → t.isI = true →
      let lo : Int := if t.isSigned then -2 ^ (w - 1) else 0
      let hi : Int := if t.isSigned then 2 ^ (w - 1) - 1 else 2 ^ w - 1
      let exact (e : Nat) : Int := f (asInt t (elem t a e)) (asInt t (second t sc scal b e))
      let clamped (e : Nat) : Int := max lo (min hi (exact e))
      Elements t vd k (fun e => ((if saturates i then clamped e else exact e) % 2 ^ w).toNat) c (after i) ∧
      FlagsOf (flags i) n (chosen t k) fun e => if saturates i = true ∧ clamped e ≠ exact e then 0x20 else 0) ∧
    (∀ i f, elemRow i = some (vd, t, sc) → patRow w i = some f → t.isI = true →
      sel i fun e => f (elem t a e) (second t sc scal b e) (elem t z e)) ∧
    (t.isI = true ∨ t.isF = true →
      (∀ (r s : BitVec 9) (rm : RMode) (h : Bool),
        let duo : VDuo := { vd := vd, va := r, vb := s, k := km, ty := t, rm := rm, half := h }
        let tri : VTri := { vd := vd, va := r, vb := s, vc := va, k := km, ty := t, rm := rm }
        let hb := if h then 1 else 0
        all (.vsel duo) (fun e => if chosen t k e then elem t a e else elem t b e) ∧
        sel (.vzip duo) (fun e => elem t (if e % 2 = 0 then a else b) (hb * (n / 2) + e / 2)) ∧
        sel (.vunzip duo) (fun e => if e < n / 2 then elem t a (2 * e + hb) else elem t b (2 * (e - n / 2) + hb)) ∧
        sel (.vtrn duo) (fun e => elem t (if e % 2 = 0 then a else b) (2 * (e / 2) + hb)) ∧
        sel (.vperm tri) (fun e => if elem t z e % (2 * n) < n then elem t a (elem t z e % (2 * n))
          else elem t b (elem t z e % (2 * n) - n))) ∧
      (∀ v : VsVal,
        sel (.vrot vd va v km t) (fun e => elem t a ((((e : Int) - cntOf v x) % n).toNat)) ∧
        sel (.vshup vd va v km t) (fun e => if cntOf v x ≤ e then elem t a (e - cntOf v x) else 0) ∧
        sel (.vbcast vd v km t) (fun _ => match v with | .imm y => liElem t y | .reg _ => x.toNat % 2 ^ w)) ∧
      (∀ y : BitVec 18, sel (.vli vd y km t) fun _ => liElem t y) ∧
      (∀ (r : BitVec 6) (v : VsVal), let i := Instr.vins vd r v t;
        (∀ e, e < n → elem t ((after i).readV vd) e =
          if e = cntOf v (scalAt scal 1) % n then x.toNat % 2 ^ w else elem t (c.readV vd) e) ∧
        OnlyVec vd c (after i) ∧ flags i = 0) ∧
      all (.vcomp vd va km t) (fun e => ((inputs t k a 0 n)[e]?).getD 0) ∧
      all (.vexpd vd va km t) (fun e => if chosen t k e then elem t a ((List.range e).filter (chosen t k)).length else 0)) ∧
    (t.isI = true →
      (∀ v : VsVal, sel (.vidx vd v km t) fun e =>
        (((match v with | .imm y => y.toInt | .reg _ => (x.toNat : Int) : Int) + (e : Int)) % 2 ^ w).toNat) ∧
      (∀ (rm : RMode) (op : RedOp) (g : BitVec 4), 2 ^ g.toNat ≤ n →
        let group (e : Nat) : Nat := e / 2 ^ g.toNat * 2 ^ g.toNat
        all (.vred vd va km t rm op g) (fun e => intReduce t op (inputs t k a (group e) (group e + 2 ^ g.toNat))) ∧
        all (.vscan vd va km t rm op g) (fun e => intReduce t op (inputs t k a (group e) (e + 1))))) ∧
    (let i := Instr.vmov vd va km;
      (∀ j : Fin 2048, ((after i).readV vd)[j] = if k[j] then a[j] else (c.readV vd)[j]) ∧ OnlyVec vd c (after i) ∧ flags i = 0)

namespace Sys2Proof.Claims

/-- R193: the condition of VCMP on a pair of elements; no order holds for a NaN. -/
def compared (t : EType) (cnd : VCond) (a b : Nat) : Bool :=
  let x := (EType.fmt t).decode a
  let y := (EType.fmt t).decode b
  let less (u v : Nat) : Bool := if t.isI then asInt t u < asInt t v else
    !((EType.fmt t).decode u).isNan && !((EType.fmt t).decode v).isNan && ((EType.fmt t).decode u).cmp ((EType.fmt t).decode v) == .lt
  let same : Bool := if t.isI then a == b else !x.isNan && !y.isNan && x.cmp y == .eq
  match cnd with
  | .eq => same
  | .ne => !same
  | .lt => less a b
  | .le => less a b || same
  | .gt => less b a
  | .ge => less b a || same
  | .unord => x.isNan || y.isNan

/-- R193: NV of a floating-point comparison: any NaN for the four orders, a signalling NaN for the others. -/
def comparedNV (t : EType) (cnd : VCond) (a b : Nat) : BitVec 6 :=
  let x := (EType.fmt t).decode a
  let y := (EType.fmt t).decode b
  let nv : Bool := t.isF && (match cnd with
    | .eq | .ne | .unord => x.isSignalling || y.isSignalling
    | _ => x.isNan || y.isNan)
  if nv then 0x10 else 0

end Sys2Proof.Claims

/-- R210: the mask rows, bit by bit; a write to k0 is discarded (R113). R193: VCMP writes the condition to every mask bit of a
selected element's bytes, and its flags. -/
def Obligations.MaskRowsComputeBitByBit : Prop :=
  (∀ (c : Core) (kd km : BitVec 4) (va : BitVec 9) (src : VSrc) (t : EType) (cnd : VCond) (scal : List W64) (ops : List VReg)
      (k : MReg) (mops : List MReg), kd ≠ 0 → (t.isF = true ∨ t.isI = true ∧ cnd ≠ .unord) →
    let i := Instr.vcmp kd va src km t cnd
    let x (e : Nat) := elem t (opAt ops 0) e
    let y (e : Nat) := second t (isScalar src) scal (opAt ops 1) e
    let d := afterWord c i scal ops (k :: mops)
    (∀ j : Fin 2048, let e := j.val / (t.width / 8)
      (d.readK kd)[j] = if chosen t k e then compared t cnd (x e) (y e) else (c.readK kd)[j]) ∧
    (∀ q, q ≠ kd → d.readK q = c.readK q) ∧ (∀ r, d.readV r = c.readV r) ∧
    FlagsOf (vEval i scal ops (k :: mops)).flags t.count (chosen t k) fun e => comparedNV t cnd (x e) (y e)) ∧
  ∀ (c : Core) (d a b : BitVec 4) (sa sb : BitVec 6) (m n : MReg) (x y : W64) (j : Fin 2048),
    let bit (i : Instr) (scal : List W64) (mops : List MReg) : Bool := ((afterWord c i scal [] mops).readK d)[j]
    (d ≠ 0 →
      bit (.kand d a b) [] [m, n] = (m[j] && n[j]) ∧
      bit (.kor d a b) [] [m, n] = (m[j] || n[j]) ∧
      bit (.kxor d a b) [] [m, n] = (m[j] ^^ n[j]) ∧
      bit (.knot d a) [] [m] = !m[j] ∧
      bit (.kmov d a) [] [m] = m[j] ∧
      bit (.kfroms d sa) [x] [] = x.getLsbD j.val ∧
      bit (.kbytes d sa sb) [x, y] [] = decide (x.toNat ≤ j.val ∧ j.val < x.toNat + y.toNat)) ∧
    (d = 0 → bit (.kand d a b) [] [m, n] = true ∧ bit (.knot d a) [] [m] = true ∧ bit (.kfroms d sa) [x] [] = true)

/-- R183, R201, R210: VEXT, KPOPC and KFIRST read whole at issue and write a scalar. -/
def Obligations.VectorToScalarWordsWriteAScalar : Prop :=
  ∀ (s : State) (d : BitVec 6) (va : BitVec 9) (idx : VsVal) (ty : EType) (k : BitVec 4),
    let i := match idx with | .imm v => v.toNat | .reg b => (S s b).toNat
    let m := s.me.readK k
    (va.toNat < 384 → ty.isI = true →
      Result (.vext d va idx ty) s 3 d (mod64 (asInt ty (elem ty (s.me.readV va) (i % ty.count))))) ∧
    (va.toNat < 384 → ty.isF = true →
      Result (.vext d va idx ty) s 3 d (mod64 (elem ty (s.me.readV va) (i % ty.count)))) ∧
    (384 ≤ va.toNat → exec (.vext d va idx ty) s = .next (trapped s .illreg (wordPtr s) s.focus.word)) ∧
    Result (.kpopc d k) s 1 d (mod64 ((List.finRange 2048).filter fun j => m[j]).length) ∧
    (∃ n : Nat, Result (.kfirst d k) s 1 d (mod64 n) ∧ n ≤ 2048 ∧ (∀ j : Fin 2048, j.val < n → m[j] = false) ∧
      (∀ j : Fin 2048, j.val = n → m[j] = true))

/-- R211: VKAT reads its 2 KiB constant at CODE + 64 x VAL in its issue cycle and compares at issue + 8. -/
def Obligations.KnownAnswerWordsReadTheirConstantAtIssue : Prop :=
  ∀ (s : State) (va : BitVec 9) (val : BitVec 18),
    let off := s.me.code + 64 * val.toNat
    (va.toNat < 384 → off + 2048 ≤ 0x17F800 →
      (s.me.secure = true ∨ s.prot.secureSpan (.t0 s.focus.rank) off 2048 = false) →
      ∃ t, exec (.vkat va val) s = .next t ∧ OnlyCore s t ∧ SameTask s.me t.me ∧ t.me.fe = s.me.fe ∧
        t.me.pipe.latches = s.me.pipe.latches ++ [inFlight s 8
          (.compare false va.toNat off (s.bytesAt (.t0 s.focus.rank) off 2048) ((s.me.readV va).toList.take 256)) 0] ∧
        t.me.pipe.reqs = s.me.pipe.reqs ++ [bankAsk s off 2048]) ∧
    (384 ≤ va.toNat → exec (.vkat va val) s = .next (trapped s .illreg (wordPtr s) s.focus.word)) ∧
    (va.toNat < 384 → 0x17F800 < off + 2048 →
      exec (.vkat va val) s = .next (trapped s .badspace (t0Ptr s.focus.rank off) s.focus.word))

/-! ## The X stream -/

namespace Sys2Proof.Claims

/-- The slot that a handle of the core in focus is bound to. -/
def slotAt (s : State) (h : BitVec 4) : Option (Fin 32) := (s.me.acc.h[h.toNat]?).getD none

/-- R116, R213: after the word, hd is bound to slot u: the slot it was bound to, with the store as it stood, or the
lowest-numbered free slot, now bound and off the free list, with every other handle, tile and slot as it stood. -/
def Binds (s t : State) (hd : BitVec 4) (u : Fin 32) : Prop :=
  (slotAt s hd = some u ∧ t.me.acc = s.me.acc) ∨
  (slotAt s hd = none ∧ s.me.acc.free[u] = true ∧ (∀ v : Fin 32, v < u → s.me.acc.free[v] = false) ∧
    slotAt t hd = some u ∧ t.me.acc.free = s.me.acc.free.set u false ∧
    (∀ h, h ≠ hd → slotAt t h = slotAt s h) ∧ (∀ v : Fin 32, v ≠ u → t.me.acc.tiles[v] = s.me.acc.tiles[v]))

/-- hd is bound or a slot is free. -/
def Bindable (s : State) (hd : BitVec 4) : Prop := (∃ u, slotAt s hd = some u) ∨ ∃ u : Fin 32, s.me.acc.free[u] = true

/-- The pointer names own terrace 0, at a multiple of 64, with its n bytes below 0x17_F800 and in no secure region that the
task may not touch (R221, R228). -/
def ownOk (s : State) (p : W64) (n : Nat) : Prop :=
  p.toNat / 2 ^ 50 = 2 * 2 ^ 9 + s.focus.rank.val ∧ p.toNat % 2 ^ 50 % 64 = 0 ∧ p.toNat % 2 ^ 50 + n ≤ 0x17F800 ∧
    (s.me.secure = true ∨ s.prot.secureSpan (.t0 s.focus.rank) (p.toNat % 2 ^ 50) n = false)

/-- The span is misaligned or no span of the own terrace 0 below 0x17_F800 (R221, R228). -/
def ownOut (s : State) (p : W64) (n : Nat) : Prop :=
  ¬ (p.toNat / 2 ^ 50 = 2 * 2 ^ 9 + s.focus.rank.val ∧ p.toNat % 2 ^ 50 % 64 = 0 ∧ p.toNat % 2 ^ 50 + n ≤ 0x17F800)

/-- The span touches a secure region and the task is not secure (R38). -/
def ownShut (s : State) (p : W64) (n : Nat) : Prop :=
  s.me.secure = false ∧ s.prot.secureSpan (.t0 s.focus.rank) (p.toNat % 2 ^ 50) n = true

/-- One more result in flight on the core, and maybe bank requests; every register, special register and barrier as it
stood. -/
structure Issued (s t : State) (ls : List Latch) (qs : List BankReq) : Prop where
  only : OnlyCore s t
  regs : t.me.regs = s.me.regs
  sp : t.me.sp = s.me.sp ∧ t.me.bars = s.me.bars ∧ t.me.fe = s.me.fe
  latches : t.me.pipe.latches = s.me.pipe.latches ++ ls
  reqs : t.me.pipe.reqs = s.me.pipe.reqs ++ qs
  traps : t.me.pipe.traps = s.me.pipe.traps

/-- The element (i, j) of a tile. -/
def at_ (t : Tile) (i j : Nat) : BitVec 40 := (t[64 * i + j]?).getD 0

/-- The pass time of R219. -/
def passTime (f : FormatWord) (complex : Bool) : Nat :=
  (match f.a with | .f32 => 12 | .log6 => 4 | _ => 6) * (if complex then 2 else 1)

/-- The depth of R219. -/
def depth (f : FormatWord) (fromSlot : Bool) : Nat :=
  if fromSlot then 64 else match f.a with
    | .f32 => 48 | .bf16 | .f16 => 96 | .e4m3 | .e5m2 | .int8 => 192 | .e2m1 | .int4 => 384 | .log6 => 256

/-- MMA and MMAC share their tests; complex tells MMAC. -/
def product (complex : Bool) (hd : BitVec 4) (a : ASrc) (ab : BitVec 5) (acc : Bool) : Instr :=
  if complex then .mmac hd a ab acc else .mma hd a ab acc

def fromSlot : ASrc → Bool
  | .slot _ => true
  | _ => false

/-- The scale arrays that a format word names lie in the own terrace and in no region closed to the task. -/
def scalesOk (s : State) (f : FormatWord) (slotA : Bool) : Prop :=
  (f.asc = true → ownOk s (t0Ptr s.focus.rank f.ascl) (2 * depth f slotA)) ∧
  (f.bsc = true → ownOk s (t0Ptr s.focus.rank f.bscl) (2 * depth f slotA))

/-- The A operand is readable: an aligned span of the own terrace, six registers within the file, or a bound handle. -/
def aOk (s : State) : ASrc → Prop
  | .t0 aa => ownOk s (A s aa) 12288
  | .vec v => v.toNat ≤ 378
  | .slot h => ∃ u, slotAt s h = some u

/-- What a product reads of the own terrace, in the order R227 tests it: A, B, the scale arrays. -/
def productSpans (s : State) (f : FormatWord) (a : ASrc) (ab : BitVec 5) : List (W64 × Nat) :=
  (match a with | .t0 aa => [(A s aa, 12288)] | _ => []) ++ [(A s ab, 12288)] ++
    (if f.asc then [(t0Ptr s.focus.rank f.ascl, 2 * depth f (fromSlot a))] else []) ++
    (if f.bsc then [(t0Ptr s.focus.rank f.bscl, 2 * depth f (fromSlot a))] else [])

/-- Element k of a row or column of packed elements that starts at byte base (R91, R92, R221). -/
def packed (f : MFmt) (bs : List Byte) (base k : Nat) : Nat :=
  let le (o n : Nat) : Nat := leValue ((List.range n).map fun j => (bs[base + o + j]?).getD 0)
  match f with
  | .f32 => le (4 * k) 4
  | .bf16 | .f16 => le (2 * k) 2
  | .e4m3 | .e5m2 | .int8 => le k 1
  | .e2m1 | .int4 => le (k / 2) 1 / 16 ^ (k % 2) % 16
  | .log6 => le (24 * (k / 32)) 24 / 2 ^ (6 * (k % 32)) % 64

/-- The value of an operand's element with the scale of its block, if the format word names one (R87, R90, R94, R221). -/
def matElem (f : MFmt) (scale : Option Nat) (code : Nat) : FVal :=
  let n : Int := if 2 ^ (f.width - 1) ≤ code then (code : Int) - 2 ^ f.width else code
  let v : FVal := match f with
    | .int8 => if n = 0 then .zero false else .fin n (if scale.isNone then 0 else -6)
    | .int4 => if n = 0 then .zero false else .fin n (if scale.isNone then 0 else -2)
    | f => f.fmt.decode code
  match scale with
  | none => v
  | some e => if e = 0xFF then .nan false else match v with | .fin m x => .fin m (x + ((e : Int) - 127)) | v => v

/-- What a product has gathered: its format word, the bytes of A, B and their scales, the tile of hs. -/
structure Operands where
  f : FormatWord
  slotA : Bool
  a : List Byte
  b : List Byte
  asc : List Byte
  bsc : List Byte
  hs : Tile

/-- R225: the down-converted element of the slot hs, and its flags. -/
def Operands.down (o : Operands) (i k : Nat) : Nat × BitVec 6 :=
  o.f.a.fmt.put o.f.rm o.f.dsat (fmtW40.decode (at_ o.hs i k).toNat)

/-- The product of element ka of A's row i and element kb of B's column j: R93 for LOG6, else R105. -/
def Operands.factors (o : Operands) (i ka j kb : Nat) : FVal × BitVec 6 :=
  let per := depth o.f o.slotA / 32
  let sa : Option Nat := if o.f.asc then some ((o.asc[i * per + ka / 32]?).getD 0).toNat else none
  let sb : Option Nat := if o.f.bsc then some ((o.bsc[j * per + kb / 32]?).getD 0).toNat else none
  let x := packed o.f.a o.a (192 * i) ka
  let y := packed o.f.b o.b (192 * j) kb
  if o.f.a = .log6 then
    if sa = some 0xFF ∨ sb = some 0xFF then (.nan false, 0)
    else log6Mul x y ((sa.getD 127 : Int) + sb.getD 127 - 254)
  else (if o.slotA then o.f.a.fmt.decode (o.down i ka).1 else matElem o.f.a sa x).mul (matElem o.f.b sb y)

/-- Element (i, j) of the tile that MMA (R105) or MMAC (R106, R224) writes over the tile c, with its flags. -/
def Operands.element (o : Operands) (complex : Bool) (c : Tile) (i j : Nat) : Nat × BitVec 6 :=
  let d := depth o.f o.slotA
  let neg (p : FVal × BitVec 6) : FVal × BitVec 6 := (p.1.neg, p.2)
  let m := j / 2
  let terms := if complex then
      (List.range (d / 2)).flatMap fun k =>
        if j % 2 = 0 then [o.factors i (2 * k) m (2 * k), neg (o.factors i (2 * k + 1) m (2 * k + 1))]
        else [o.factors i (2 * k) m (2 * k + 1), o.factors i (2 * k + 1) m (2 * k)]
    else (List.range d).map fun k => o.factors i k j k
  fused fmtW40 o.f.rm ((fmtW40.decode (at_ c i j).toNat, 0) :: terms)

/-- The result writes the slot. -/
def writesSlot (u : Fin 32) (l : Latch) : Prop :=
  match l.kind with
  | .tile v _ | .elem v _ _ | .xword v _ _ _ _ _ _ _ => v = u
  | _ => False

/-- R214: a slot due for release b cycles after issue is released then, or in the cycle after its last write in flight where
that write performs later. -/
def ReleasedAfter (s : State) (u : Fin 32) (b n : Nat) : Prop :=
  let later (l : Latch) : Prop := l ∈ s.me.pipe.latches ∧ writesSlot u l ∧ s.me.sp.cyc + b < l.base
  ((∀ l, ¬ later l) ∧ n = b) ∨ ∃ l, later l ∧ n = l.base + 1 - s.me.sp.cyc ∧ ∀ m, later m → m.base ≤ l.base

end Sys2Proof.Claims

/-- R142, R213, R219 to R223, R227: an accepted MMA or MMAC pops one format word, binds its handle, keeps the array busy for
its pass and has its tile in flight for issue + pass + 10. R222: it reads the rest of its operands in the five cycles after
issue. R105, R106, R221, R223 to R225: the tile it then writes, element by element, and its flags.
The model's own choices in it: log entry 23. -/
def Obligations.MatrixProductsPopBindAndEnterTheArray : Prop :=
  (∀ (l : Latch) (complex : Bool) (hd : BitVec 4) (a : ASrc) (ab : BitVec 5) (acc : Bool) (w : W64) (f : FormatWord) (u : Fin 32)
      (ps : List W64) (x y sa sb bs : List Byte) (hs c : Tile),
    l.instr = product complex hd a ab acc → l.kind = .xword u ps w x y sa sb hs → parseFormat w (fromSlot a) complex = some f →
    let o : Operands := { f := f, slotA := fromSlot a, a := x, b := y, asc := sa, bsc := sb, hs := hs }
    let val := o.element complex (if acc then c else Vector.replicate 4096 0)
    let p (i : Nat) : Nat := ((ps[i]?).getD 0).toNat % 2 ^ 50
    let n := 2 * depth f (fromSlot a)
    (∀ i j, i < 64 → j < 64 → (at_ (l.product c).1 i j).toNat = (val i j).1) ∧
    (∀ b, (l.product c).2.getLsbD b = true ↔ (∃ i j, i < 64 ∧ j < 64 ∧ (val i j).2.getLsbD b = true) ∨
      fromSlot a = true ∧ ∃ i k, i < 64 ∧ k < 64 ∧ (o.down i k).2.getLsbD b = true) ∧
    l.readAt (l.issue + 1) = (match a with | .t0 _ => some (p 0 + 6144, 6144) | _ => none) ∧
    l.readAt (l.issue + 2) = some (p 1, 6144) ∧ l.readAt (l.issue + 3) = some (p 1 + 6144, 6144) ∧
    l.readAt (l.issue + 4) = (if f.asc then some (f.ascl, n) else none) ∧
    l.readAt (l.issue + 5) = (if f.bsc then some (f.bscl, n) else none) ∧ (∀ d, 5 < d → l.readAt (l.issue + d) = none) ∧
    (l.gain (l.issue + 1) bs).kind = .xword u ps w (x ++ bs) y sa sb hs ∧
    (l.gain (l.issue + 2) bs).kind = .xword u ps w x (y ++ bs) sa sb hs ∧
    (l.gain (l.issue + 3) bs).kind = .xword u ps w x (y ++ bs) sa sb hs ∧
    (l.gain (l.issue + 4) bs).kind = .xword u ps w x y bs sb hs ∧ (l.gain (l.issue + 5) bs).kind = .xword u ps w x y sa bs hs) ∧
  (∀ (s : State) (r : Fin 288) (c : Nat),
    ((s.lateReads r c).core r).pipe.latches = (s.core r).pipe.latches.map fun l => match l.readAt c with
      | some (o, n) => l.gain c (s.bytesBy l.guards (.t0 r) o n)
      | none => l) ∧
  ∀ (s : State) (complex : Bool) (hd : BitVec 4) (a : ASrc) (ab : BitVec 5) (acc : Bool) (w : W64) (rest : List W64) (f : FormatWord),
    s.me.pipe.mmaFree ≤ s.me.sp.cyc → s.me.regs.fq = w :: rest → parseFormat w (fromSlot a) complex = some f →
    (acc = true → ∃ u, slotAt s hd = some u) → Bindable s hd → aOk s a → ownOk s (A s ab) 12288 → scalesOk s f (fromSlot a) →
    ∃ t u l, exec (product complex hd a ab acc) s = .next t ∧ OnlyCore s t ∧ Binds s t hd u ∧
      t.me.regs = { s.me.regs with fq := rest } ∧ t.me.sp = s.me.sp ∧ t.me.bars = s.me.bars ∧ t.me.fe = s.me.fe ∧
      t.me.pipe.latches = s.me.pipe.latches ++ [l] ∧ l.base = s.me.sp.cyc + passTime f complex + 10 ∧
      l.issue = s.me.sp.cyc ∧ l.strm = s.focus.strm ∧ l.word = s.focus.word ∧
      (match l.kind with
        | .xword v ps fw x y sa sb hs => v = u ∧ fw = w ∧ y = [] ∧ sa = [] ∧ sb = [] ∧ ps[1]? = some (A s ab) ∧ (match a with
          | .t0 aa => ps[0]? = some (A s aa) ∧ x = s.bytesAt (.t0 s.focus.rank) ((A s aa).toNat % 2 ^ 50) 6144
          | .vec r => x = (List.range 6).flatMap fun j => (s.me.readV (r + BitVec.ofNat 9 j)).toList
          | .slot h => ∃ z, slotAt s h = some z ∧ hs = s.me.acc.tiles[z])
        | _ => False) ∧
      t.me.pipe.mmaFree = s.me.sp.cyc + passTime f complex ∧ t.me.pipe.traps = s.me.pipe.traps ∧
      t.me.pipe.reqs = s.me.pipe.reqs ++ (match a with | .t0 aa => [bankAsk s ((A s aa).toNat % 2 ^ 50) 6144] | _ => [])

/-- R141, R218, R221, R227: the tests of MMA and MMAC in their order: the busy array, the register group, an empty queue, the
format word, an unbound handle, a pointer or scale array outside the own terrace, then one closed to the task, and a free
list with no slot. A trapping product changes nothing else. The model's own choices in it: log entries 86 and 99. -/
def Obligations.MatrixProductTrapsFollowTheirOrder : Prop :=
  ∀ (s : State) (complex : Bool) (hd : BitVec 4) (a : ASrc) (ab : BitVec 5) (acc : Bool),
    let i := product complex hd a ab acc
    let inGroup : Prop := match a with | .vec v => v.toNat ≤ 378 | _ => True
    (s.me.sp.cyc < s.me.pipe.mmaFree → exec i s = .next (trapped s .illop (wordPtr s) s.focus.word)) ∧
    (s.me.pipe.mmaFree ≤ s.me.sp.cyc →
      (¬ inGroup → exec i s = .next (trapped s .illreg (wordPtr s) s.focus.word)) ∧
      (inGroup → s.me.regs.fq = [] → exec i s = .next (trapped s .fmtunder 0 0)) ∧
      (inGroup → ∀ w rest, s.me.regs.fq = w :: rest →
        (parseFormat w (fromSlot a) complex = none → exec i s = .next (trapped s .illop (wordPtr s) s.focus.word)) ∧
        (∀ f, parseFormat w (fromSlot a) complex = some f →
          (acc = true → slotAt s hd = none → exec i s = .next (trapped s .acchandle (wordPtr s) (mod64 hd.toNat))) ∧
          ((acc = true → slotAt s hd ≠ none) → ∀ h, a = .slot h → slotAt s h = none →
            exec i s = .next (trapped s .acchandle (wordPtr s) (mod64 h.toNat))) ∧
          ((acc = true → slotAt s hd ≠ none) → (∀ h, a = .slot h → slotAt s h ≠ none) →
            ∀ pre p n post, productSpans s f a ab = pre ++ (p, n) :: post →
            ((∀ q ∈ pre, ¬ ownOut s q.1 q.2) → ownOut s p n → exec i s = .next (trapped s .badspace p s.focus.word)) ∧
            ((∀ q ∈ productSpans s f a ab, ¬ ownOut s q.1 q.2) → (∀ q ∈ pre, ¬ ownShut s q.1 q.2) → ownShut s p n →
              exec i s = .next (trapped s .world p s.focus.word))) ∧
          (acc = false → aOk s a → ownOk s (A s ab) 12288 → scalesOk s f (fromSlot a) → ¬ Bindable s hd →
            exec i s = .next (trapped s .accexh (wordPtr s) (mod64 hd.toNat))))))

/-- R213, R228: ACZ, ACLD and ACCPY bind their handle and have its tile in flight: zero at issue + 1, the image at
issue + 24, the copy at issue + 8; with no slot to bind they trap ACCEXH.
The model's own choices in it: log entry 13. -/
def Obligations.TileWordsThatBindHaveTheirTileInFlight : Prop :=
  ∀ (s : State) (hd hs : BitVec 4) (aa : BitVec 5),
    let off := (A s aa).toNat % 2 ^ 50
    (Bindable s hd → ∃ t u, exec (.acz hd) s = .next t ∧ Binds s t hd u ∧
      Issued s t [inFlight s 1 (.tile u (Vector.replicate 4096 0)) 0] []) ∧
    (Bindable s hd → ownOk s (A s aa) 20480 →
      ∃ t u z, exec (.acld hd aa) s = .next t ∧ Binds s t hd u ∧
      Issued s t [inFlight s 24 (.xword u [A s aa, 0] 0 (s.bytesAt (.t0 s.focus.rank) off 1024) [] [] [] z) 0]
        [bankAsk s off 1024]) ∧
    (∀ v, slotAt s hs = some v → Bindable s hd → ∃ t u, exec (.accpy hd hs) s = .next t ∧ Binds s t hd u ∧
      Issued s t [inFlight s 8 (.tile u s.me.acc.tiles[v]) 0] []) ∧
    (¬ Bindable s hd →
      exec (.acz hd) s = .next (trapped s .accexh (wordPtr s) (mod64 hd.toNat)) ∧
      (ownOk s (A s aa) 20480 → exec (.acld hd aa) s = .next (trapped s .accexh (wordPtr s) (mod64 hd.toNat))) ∧
      ((∃ v, slotAt s hs = some v) → exec (.accpy hd hs) s = .next (trapped s .accexh (wordPtr s) (mod64 hd.toNat))))

/-- R213, R214, R228 to R233: the words that read a bound tile: where it goes, when, and what unbinds; with the handle unbound
each traps ACCHANDLE.
The model's own choices in it: log entry 98. -/
def Obligations.TileWordsThatReadABoundHandle : Prop :=
  ∀ (s : State) (hd hs : BitVec 4) (aa : BitVec 5) (v : BitVec 9) (row col bit : BitVec 6) (c : Bool) (u : Fin 32),
    let off := (A s aa).toNat % 2 ^ 50
    let tile := s.me.acc.tiles[u]
    let trap (h : BitVec 4) : Out := .next (trapped s .acchandle (wordPtr s) (mod64 h.toNat))
    (slotAt s hd = some u →
      (ownOk s (A s aa) 20480 → ∃ t, exec (.acst hd aa false) s = .next t ∧ t.me.acc = s.me.acc ∧
        Issued s t [inFlight s 5 (.tileStore off tile false) 0] []) ∧
      (ownOk s (A s aa) 20480 → ∃ t n, exec (.acst hd aa true) s = .next t ∧ ReleasedAfter s u 24 n ∧ slotAt t hd = none ∧
        t.me.acc.free = s.me.acc.free ∧ t.me.acc.tiles = s.me.acc.tiles ∧
        Issued s t [inFlight s 5 (.tileStore off tile true) 0, inFlight s n (.release u) 0] []) ∧
      (∃ t n, exec (.acrel hd) s = .next t ∧ ReleasedAfter s u 1 n ∧ slotAt t hd = none ∧ t.me.acc.free = s.me.acc.free ∧
        t.me.acc.tiles = s.me.acc.tiles ∧ Issued s t [inFlight s n (.release u) 0] []) ∧
      (∀ x, slotAt s hs = some x → ∃ t r fl, exec (.acadd hd hs) s = .next t ∧ t.me.acc = s.me.acc ∧
        Issued s t [inFlight s 8 (.tile u r) fl] [] ∧
        (∀ i j, i < 64 → j < 64 → (at_ r i j).toNat =
          (roundSum fmtW40 .rn [fmtW40.decode (at_ tile i j).toNat, fmtW40.decode (at_ s.me.acc.tiles[x] i j).toNat]).1)) ∧
      (v.toNat < 384 → row.toNat ≤ 56 → ∃ t r fl, exec (.acrd hd v row) s = .next t ∧ t.me.acc = s.me.acc ∧
        Issued s t [inFlight s 12 (.vec v r MReg.ones true) fl] [] ∧
        (∀ q j, q < 8 → j < 64 → elem .f32 r (64 * q + j) =
          (fmtF32.put .rn false (fmtW40.decode (at_ tile (row.toNat + q) j).toNat)).1)) ∧
      (v.toNat < 383 → ∃ t hi lo fl, exec (.acsum hd v c) s = .next t ∧ t.me.acc = s.me.acc ∧
        Issued s t [inFlight s 16 (.vec v hi MReg.ones true) fl, inFlight s 16 (.vec (v + 1) lo MReg.ones true) 0] [] ∧
        (∀ m, m < 64 → elem .f32 hi m = (fmtF32.put .rn false (exactSum ((List.range 64).map fun j =>
          fmtW40.decode (if c then at_ tile j m else at_ tile m j).toNat) .rn).1).1) ∧
        (∀ m, 64 ≤ m → m < 512 → elem .f32 hi m = 0 ∧ elem .f32 lo m = 0)) ∧
      (v.toNat < 384 → ∃ t x fl, exec (.acset hd v row col) s = .next t ∧ t.me.acc = s.me.acc ∧
        Issued s t [inFlight s 2 (.elem u (64 * row.toNat + col.toNat) x) fl] [] ∧
        x.toNat = (roundSum fmtW40 .rn [fmtF32.decode (elem .f32 (s.me.readV v) 0), fmtF32.decode (elem .f32 (s.me.readV v) 1)]).1) ∧
      (s.me.attr.debug = true → ∃ t x, exec (.acflip hd row col bit) s = .next t ∧ t.me.acc = s.me.acc ∧
        Issued s t [inFlight s 2 (.elem u (64 * row.toNat + col.toNat) x) 0] [] ∧
        (∀ j, j < 40 → x.getLsbD j = ((at_ tile row.toNat col.toNat).getLsbD j ^^ decide (j = bit.toNat)))) ∧
      (ownOk s (A s aa) 20480 → ∃ t, exec (.xkat hd aa) s = .next t ∧ t.me.acc = s.me.acc ∧
        Issued s t [inFlight s 16 (.compare true hd.toNat off (s.bytesAt (.t0 s.focus.rank) off 1280) (Tile.image tile)) 0]
          [bankAsk s off 1280])) ∧
    (slotAt s hd = none →
      exec (.acst hd aa c) s = trap hd ∧ exec (.acrel hd) s = trap hd ∧ exec (.acadd hd hs) s = trap hd ∧
      exec (.xkat hd aa) s = trap hd ∧ (v.toNat < 384 → exec (.acrd hd v row) s = trap hd) ∧
      (v.toNat < 383 → exec (.acsum hd v c) s = trap hd) ∧ (v.toNat < 384 → exec (.acset hd v row col) s = trap hd) ∧
      (s.me.attr.debug = true → exec (.acflip hd row col bit) s = trap hd)) ∧
    (s.me.attr.debug = false → exec (.acflip hd row col bit) s = .next (trapped s .illop (wordPtr s) s.focus.word))

/-! ## The M stream -/

namespace Sys2Proof.Claims

/-- OFFSET + off of an M word, and the pointer with it in place of OFFSET (R235). -/
def effOff (p : W64) (off : Int) : Int := (p.toNat % 2 ^ 50 : Nat) + off
def effective (p : W64) (off : Int) : W64 := mod64 ((p.toNat / 2 ^ 50 * 2 ^ 50 : Nat) + effOff p off % 2 ^ 50)

/-- The n bytes at p + off are no bytes of the own terrace 0 below 0x17_F800. -/
def outside (s : State) (p : W64) (off : Int) (n : Nat) : Prop :=
  p.toNat / 2 ^ 50 ≠ 2 * 2 ^ 9 + s.focus.rank.val ∨ effOff p off < 0 ∨ 0x17F800 < effOff p off + n

/-- A terrace 0 word of n bytes outside the own terrace traps BADSPACE, and inside it in a region closed to the task WORLD,
with the effective pointer; it has no other effect (R36 to R38, R235). -/
def SpanTraps (s : State) (i : Instr) (p : W64) (off : Int) (n : Nat) : Prop :=
  (outside s p off n → exec i s = .next (trapped s .badspace (effective p off) s.focus.word)) ∧
  (¬ outside s p off n → s.me.secure = false → s.prot.secureSpan (.t0 s.focus.rank) (effOff p off).toNat n = true →
    exec i s = .next (trapped s .world (effective p off) s.focus.word))

/-- The n bytes at p + off lie in the own terrace 0 below 0x17_F800 and in no region closed to the task. -/
def ownSpanOk (s : State) (p : W64) (off : Int) (n : Nat) : Prop :=
  p.toNat / 2 ^ 50 = 2 * 2 ^ 9 + s.focus.rank.val ∧ 0 ≤ effOff p off ∧ effOff p off + n ≤ 0x17F800 ∧
    (s.me.secure = true ∨ s.prot.secureSpan (.t0 s.focus.rank) (effOff p off).toNat n = false)

/-- An access of the core in focus joins its memory port. -/
structure PortAccess (s : State) (a : Access) (k : AccKind) (p : W64) : Prop where
  kind : a.kind = k
  ptr : a.ptr = p
  issue : a.issue = s.me.sp.cyc
  by_ : a.slot = s.me.slot ∧ a.ctxid = s.me.ctxid ∧ a.world = s.me.secure
  open_ : a.held = none ∧ s.now ≤ a.due

/-- A landing-buffer entry of the core in focus, with its arrival cycle and nothing arrived yet. -/
structure LandingEntry (s : State) (l : Landing) (k : LandKind) (src : W64) (arr : Nat) : Prop where
  kind : l.kind = k
  source : l.source = src
  times : l.issue = s.me.sp.cyc ∧ l.arrive = s.me.sp.cyc + arr
  empty : l.value = none ∧ l.poison = false ∧ l.faulted = false
  word : l.word = s.focus.word

/-- The core as it stood but for its memory port and landing buffer. -/
structure MemOnly (s t : State) (landings : List Landing) (accesses : List Access) : Prop where
  only : OnlyCore s t
  same : SameTask s.me t.me
  rest : t.me.fe = s.me.fe ∧ t.me.pipe = s.me.pipe ∧ t.me.mem.captures = s.me.mem.captures
  landings : t.me.mem.landings = s.me.mem.landings ++ landings
  port : t.me.mem.port = s.me.mem.port ++ accesses

/-- The access is one that R36 to R38 admit, and aligned to n bytes. -/
def accessOk (s : State) (u : Use) (p : W64) (n : Nat) : Prop := (∃ x, s.access u p n = .ok x) ∧ p.toNat % 2 ^ 50 % n = 0

/-- The payload captures with the operation each asks for (R260, R264). -/
def payloadCapture : Instr → Option (QArgs × CapOp × LandKind)
  | .qrd x => some (x, .rd, .capture x.sd true false)
  | .qwr x => some (x, .wr, .capture 0 false false)
  | .qadd x => some (x, .add, .capture x.sd true false)
  | .qmin x => some (x, .min, .capture x.sd true false)
  | .qmax x => some (x, .max, .capture x.sd true false)
  | .qor x => some (x, .or, .capture x.sd true false)
  | .qxchg x => some (x, .xchg, .capture x.sd true false)
  | .qcas x => some (x, .cas, .capture x.sd true false)
  | _ => none

/-- How a capture names its slot: by index, or by the low 32 bits of a key register. -/
def findBy (s : State) : SlotName → CapFind
  | .index i => .index ⟨i.toNat, i.isLt⟩
  | .key k => .key ((S s k).setWidth 32)

/-- A capture of the core in focus stands at its station, ready two cycles after issue (R73). -/
structure CaptureEntry (s : State) (k : Capture) (op : CapOp) (trk : BitVec 3) (f : CapFind) : Prop where
  op : k.op = op
  track : k.track.val = trk.toNat
  find : k.find = f
  ready : k.ready = s.now + 2 ∧ k.examined = 0 ∧ k.parked = false
  by_ : k.ctxid = s.me.ctxid ∧ k.world = s.me.secure

/-- Tests 1, 2 and 4 of R261 pass: the track's world admits the task, the station lives, the landing buffer has room. -/
def captureOk (s : State) (trk : BitVec 3) : Prop :=
  (s.ring.secure[trk.toNat]? = some false ∨ s.me.secure = true) ∧ s.me.view.stationLost = false ∧
    s.cairn.stationLost[s.focus.rank] = false ∧ s.me.mem.landings.length < 64

end Sys2Proof.Claims

/-- R237: TLD, TLDS and TLDK read their bytes in the issue cycle, asking for their banks, and have their register in flight
for issue + 6, + 5 and + 6; outside the own terrace each traps BADSPACE, and in a region closed to the task WORLD, with the
effective pointer (R235). -/
def Obligations.TerraceLoadsReadAtIssue : Prop :=
  ∀ (s : State) (vd : BitVec 9) (sd : BitVec 6) (kd : BitVec 4) (aa : BitVec 5) (off : BitVec 28),
    let o := (effOff (A s aa) off.toInt).toNat
    let at_ (n : Nat) : List Byte := s.bytesAt (.t0 s.focus.rank) o n
    (vd.toNat < 384 → ownSpanOk s (A s aa) off.toInt 2048 →
      ∃ t r, exec (.tld vd aa off) s = .next t ∧ t.me.acc = s.me.acc ∧
        Issued s t [inFlight s 6 (.vec vd r MReg.ones true) 0] [bankAsk s o 2048] ∧ r.toList = at_ 2048) ∧
    (ownSpanOk s (A s aa) off.toInt 8 →
      ∃ t, exec (.tlds sd aa off) s = .next t ∧ t.me.acc = s.me.acc ∧
        Issued s t [inFlight s 5 (.scal sd (mod64 (leValue (at_ 8)))) 0] [bankAsk s o 8]) ∧
    (ownSpanOk s (A s aa) off.toInt 256 →
      ∃ t m, exec (.tldk kd aa off) s = .next t ∧ t.me.acc = s.me.acc ∧
        Issued s t [inFlight s 6 (.msk kd m MReg.ones true) 0] [bankAsk s o 256] ∧
        ∀ b : Fin 2048, m[b] = (((at_ 256)[b.val / 8]?).getD 0).getLsbD (b.val % 8)) ∧
    (384 ≤ vd.toNat → exec (.tld vd aa off) s = .next (trapped s .illreg (wordPtr s) s.focus.word)) ∧
    (vd.toNat < 384 → SpanTraps s (.tld vd aa off) (A s aa) off.toInt 2048) ∧
    SpanTraps s (.tlds sd aa off) (A s aa) off.toInt 8 ∧ SpanTraps s (.tldk kd aa off) (A s aa) off.toInt 256

/-- R237: TST and TSTS have their store in flight for issue + 4: the register's bytes where the mask enables them, or the
eight bytes of a scalar; nothing is stored at issue. Outside the own terrace both trap BADSPACE, and in a region closed to the
task WORLD, with the effective pointer (R235). -/
def Obligations.TerraceStoresAreInFlightForIssuePlusFour : Prop :=
  ∀ (s : State) (vs : BitVec 9) (ss : BitVec 6) (k : BitVec 4) (aa : BitVec 5) (off : BitVec 28),
    let o := (effOff (A s aa) off.toInt).toNat
    (vs.toNat < 384 → ownSpanOk s (A s aa) off.toInt 2048 →
      ∃ t a, exec (.tst vs aa k off) s = .next t ∧ t.me.acc = s.me.acc ∧
        Issued s t [inFlight s 4 (.store o ((s.me.readV vs).toList.zip (s.me.readK k).toList) false) 0] [] ∧
        t.me.mem.port = s.me.mem.port ++ [a] ∧ PortAccess s a (.store 2048) (effective (A s aa) off.toInt)) ∧
    (ownSpanOk s (A s aa) off.toInt 8 →
      ∃ t a, exec (.tsts ss aa off) s = .next t ∧ t.me.acc = s.me.acc ∧
        Issued s t [inFlight s 4 (.store o ((leBytes 8 (S s ss).toNat).map fun b => (b, true)) true) 0] [] ∧
        t.me.mem.port = s.me.mem.port ++ [a] ∧ PortAccess s a (.store 8) (effective (A s aa) off.toInt)) ∧
    (384 ≤ vs.toNat → exec (.tst vs aa k off) s = .next (trapped s .illreg (wordPtr s) s.focus.word)) ∧
    (vs.toNat < 384 → SpanTraps s (.tst vs aa k off) (A s aa) off.toInt 2048) ∧
    SpanTraps s (.tsts ss aa off) (A s aa) off.toInt 8

/-- R47, R239, R241, R244: LAND, LANDS and ATOM take a landing-buffer entry that arrives ARR cycles after issue and a place in
the memory port; with the buffer full they trap LANDFULL. An expanding LAND asks for the whole of the segment whose header
stands there.
The model's own choices in it: log entries 6 and 28. -/
def Obligations.LandingsTakeABufferEntryAndAPortPlace : Prop :=
  ∀ (s : State) (vd : BitVec 9) (sd : BitVec 6) (aa : BitVec 5) (off : BitVec 18) (arr : BitVec 10) (xf : BitVec 2)
      (sb sc : BitVec 6) (op : AtomOp) (wide : Bool),
    let p := effective (A s aa) (64 * off.toInt)
    let inSpace : Prop := 0 ≤ effOff (A s aa) (64 * off.toInt) ∧ effOff (A s aa) (64 * off.toInt) < 2 ^ 50
    (∀ x n, vd.toNat < 384 → inSpace → s.access .land p (if xf = 0 then 2048 else 16) = .ok x →
      n = (if xf = 0 then 2048 else s.landSpan s.me.ctxid p x) → (∃ y, s.access .land p n = .ok y) →
      (s.me.mem.landings.length < 64 → ∃ t l a, exec (.land vd aa off arr xf) s = .next t ∧ MemOnly s t [l] [a] ∧
        LandingEntry s l (.land vd xf) p arr.toNat ∧ PortAccess s a (.read xf n) p ∧ a.id = l.id) ∧
      (64 ≤ s.me.mem.landings.length → exec (.land vd aa off arr xf) s = .next (trapped s .landfull (wordPtr s) s.focus.word))) ∧
    (inSpace → (∃ x, s.access .land p 8 = .ok x) →
      (s.me.mem.landings.length < 64 → ∃ t l a, exec (.lands sd aa off arr) s = .next t ∧ MemOnly s t [l] [a] ∧
        LandingEntry s l (.lands sd) p arr.toNat ∧ PortAccess s a (.read 0 8) p ∧ a.id = l.id) ∧
      (64 ≤ s.me.mem.landings.length → exec (.lands sd aa off arr) s = .next (trapped s .landfull (wordPtr s) s.focus.word))) ∧
    (accessOk s .atom (A s aa) (if wide then 8 else 4) →
      (s.me.mem.landings.length < 64 → ∃ t l a, exec (.atom sd aa sb sc op wide arr) s = .next t ∧ MemOnly s t [l] [a] ∧
        LandingEntry s l (.atom sd) (A s aa) arr.toNat ∧ PortAccess s a (.atom op wide (S s sb) (S s sc)) (A s aa) ∧ a.id = l.id) ∧
      (64 ≤ s.me.mem.landings.length →
        exec (.atom sd aa sb sc op wide arr) s = .next (trapped s .landfull (wordPtr s) s.focus.word)))

/-- R245 to R247, R267: RED and STAMP take a place in the memory port and return nothing; FENCE stands behind the accesses
before it and never stops issue; QFENCE notes the captures and QALT writes outstanding.
The model's own choices in it: log entries 6 and 29. -/
def Obligations.ReductionsStampsAndFencesJoinThePort : Prop :=
  ∀ (s : State) (aa : BitVec 5) (sb : BitVec 6) (op : AtomOp) (wide : Bool) (sc : Scope) (k : FenceKind),
    (accessOk s .atom (A s aa) (if wide then 8 else 4) →
      ∃ t a, exec (.red aa sb op wide) s = .next t ∧ MemOnly s t [] [a] ∧ PortAccess s a (.red op wide (S s sb)) (A s aa)) ∧
    (accessOk s .stamp (A s aa) 8 →
      ∃ t a, exec (.stamp aa sb) s = .next t ∧ MemOnly s t [] [a] ∧ PortAccess s a (.stamp (S s sb)) (A s aa)) ∧
    (s.me.mem.port = [] → exec (.fence sc k) s = .next s) ∧
    (s.me.mem.port ≠ [] →
      ∃ t a, exec (.fence sc k) s = .next t ∧ MemOnly s t [] [a] ∧ PortAccess s a (.fence sc k) 0) ∧
    (∃ t, exec .qfence s = .next t ∧ MemOnly s t [] [] ∧
      ∀ i, i ∈ t.me.mem.qwaits ↔ (∃ c ∈ s.me.mem.captures, c.id = i) ∨ ∃ a ∈ s.me.mem.port, a.id = i ∧ ∃ w, a.kind = .qalt w)

/-- R242, R243: COPY and CSTAT test their 32-byte block at issue and their engine two cycles later; a pointer that is not an
aligned one of the own terrace traps BADSPACE. -/
def Obligations.CopyCommandsTestTheirEngineTwoCyclesLater : Prop :=
  ∀ (s : State) (sd : BitVec 6) (aa : BitVec 5) (e : EngSrc),
    let p := A s aa
    let off := p.toNat % 2 ^ 50
    let eng := match e with | .imm n => mod64 n.toNat | .reg b => S s b
    let byReg := match e with | .imm _ => false | .reg _ => true
    (p.toNat / 2 ^ 50 = 2 * 2 ^ 9 + s.focus.rank.val → off % 32 = 0 → off + 32 ≤ 0x17F800 →
      (s.me.secure = true ∨ s.prot.secureSpan (.t0 s.focus.rank) off 32 = false) →
      exec (.copy sd aa e) s = .next (holding s 2 (.engineTest sd eng byReg off true)) ∧
      exec (.cstat sd aa e) s = .next (holding s 2 (.engineTest sd eng byReg off false))) ∧
    (p.toNat / 2 ^ 50 ≠ 2 * 2 ^ 9 + s.focus.rank.val ∨ off % 32 ≠ 0 ∨ 0x17F800 < off + 32 →
      exec (.copy sd aa e) s = .next (trapped s .badspace p s.focus.word) ∧
      exec (.cstat sd aa e) s = .next (trapped s .badspace p s.focus.word))

/-- R73, R76, R260 to R266: a capture stands at its core's station, ready two cycles after issue, and holds a landing-buffer
entry; QALT also takes the place of its write in the memory port. -/
def Obligations.CapturesStandAtTheirStation : Prop :=
  ∀ (s : State),
    (∀ i x op kind, payloadCapture i = some (x, op, kind) → captureOk s x.trk →
      ∃ t k l, exec i s = .next t ∧ OnlyCore s t ∧ SameTask s.me t.me ∧ t.me.fe = s.me.fe ∧ t.me.pipe = s.me.pipe ∧
        t.me.mem.port = s.me.mem.port ∧ t.me.mem.captures = s.me.mem.captures ++ [k] ∧
        t.me.mem.landings = s.me.mem.landings ++ [l] ∧ CaptureEntry s k op x.trk (findBy s x.name) ∧
        k.wd.val = x.wd.toNat ∧ k.b = S s x.sb ∧ k.e = S s x.sa ∧ LandingEntry s l kind s.focus.word x.arr.toNat ∧ l.id = k.id) ∧
    (∀ sd trk sa sb wd arr, captureOk s trk →
      ∃ t k l, exec (.qbrd sd trk sa sb wd arr) s = .next t ∧ OnlyCore s t ∧ SameTask s.me t.me ∧
        t.me.fe = s.me.fe ∧ t.me.pipe = s.me.pipe ∧ t.me.mem.port = s.me.mem.port ∧
        t.me.mem.captures = s.me.mem.captures ++ [k] ∧ t.me.mem.landings = s.me.mem.landings ++ [l] ∧
        CaptureEntry s k .brd trk (.firstFree ((S s sa).setWidth 32)) ∧ k.wd.val = wd.toNat ∧ k.b = S s sb ∧
        LandingEntry s l (.capture sd false true) s.focus.word arr.toNat ∧ l.id = k.id) ∧
    (∀ sd trk name aa arr, captureOk s trk → accessOk s .qalt (A s aa) 64 →
      ∃ t k l a, exec (.qalt sd trk name aa arr) s = .next t ∧ OnlyCore s t ∧ SameTask s.me t.me ∧
        t.me.fe = s.me.fe ∧ t.me.pipe = s.me.pipe ∧ t.me.mem.port = s.me.mem.port ++ [a] ∧
        t.me.mem.captures = s.me.mem.captures ++ [k] ∧ t.me.mem.landings = s.me.mem.landings ++ [l] ∧
        CaptureEntry s k .alt trk (findBy s name) ∧ PortAccess s a (.qalt none) (A s aa) ∧
        LandingEntry s l (.capture sd false true) s.focus.word arr.toNat ∧ l.id = k.id) ∧
    (∀ i x op kind, payloadCapture i = some (x, op, kind) → s.ring.secure[x.trk.toNat]? = some true → s.me.secure = false →
      exec i s = .next (trapped s .world 0 s.focus.word)) ∧
    (∀ i x op kind, payloadCapture i = some (x, op, kind) →
      (s.ring.secure[x.trk.toNat]? = some false ∨ s.me.secure = true) → s.me.view.stationLost = false →
      s.cairn.stationLost[s.focus.rank] = false → 64 ≤ s.me.mem.landings.length →
      exec i s = .next (trapped s .landfull (wordPtr s) s.focus.word))

/-! ## Tasks, freezes and stops -/

namespace Sys2Proof.Claims

/-- Each of these lines of terrace 0s, by rank and line, has been served under a ticket (R44). -/
def Served (s : State) (ticket : Option Nat) (need : List (Nat × Nat)) : Prop :=
  ∀ l ∈ need, s.wasServed (ticket.getD s.serial) l = true

/-- The package as what holds a ticket reads it: a line of a terrace 0 as it stood when its bank served it (R44). -/
def view (s : State) (ticket : Option Nat) : State := s.viewOf (ticket.getD s.serial)

/-- Core r alone may differ, and memory, the ring, the engines, contexts, the cairn and time stand as they stood. -/
structure OnlyAt (r : Fin 288) (s t : State) : Prop where
  cores : ∀ n, n ≠ r → t.core n = s.core n
  mem : t.mem = s.mem
  rest : t.ring = s.ring ∧ t.engines = s.engines ∧ t.contexts = s.contexts ∧ t.cairn = s.cairn ∧ t.prot = s.prot ∧
    t.mgmt = s.mgmt ∧ t.tick = s.tick ∧ t.now = s.now

/-- A record that satisfies p joins those the context waits to have written, with its current generation. -/
def Recorded (s t : State) (id : BitVec 16) (p : FaultRec → Prop) : Prop :=
  ∀ x, s.ctx? id = some x → ∃ y q, t.ctx? id = some y ∧ y.waiting = x.waiting ++ [q] ∧ q.gen = x.gen ∧ p q

/-- s with one task slot of a core replaced. -/
def withSlot (s : State) (r : Fin 288) (n : Fin 32) (u : TaskSlot) : State :=
  s.setCore r { s.core r with tasks := { (s.core r).tasks with slots := (s.core r).tasks.slots.set n u } }

/-- A slot that has just entered WAITING, with its class, what it stands for, and its stamps to be read now. -/
def waitingSlot (cls : Nat) (chunk : Option ChunkRef) (now : Nat) : TaskSlot :=
  { TaskSlot.init with st := .waiting, effCls := cls, chunk := chunk, stampDue := Vector.replicate 4 now }

/-- A slot but for whether its task's last boundary was its end cycle, which a GUARD stop there notes. -/
def slotBut (t : TaskSlot) : TaskSlot := { t with settledAt := none }

/-- The task of core r is stopped at its boundary: CAUSE, FADDR, FAUX and CYC say so, the core has left any freeze with its
span in FRZ, the barrier file is kept as it stands, and the task's registers, accumulators, barrier values and slot stand; the
stop notes whether the touch that GUARD reports dropped bytes of an ACST with .rel. -/
structure Stopped (s t : State) (r : Fin 288) (cause : Cause) (kind : FrameKind) (faddr faux : W64) (resumable : Bool)
    (lostRel : Bool := false) : Prop where
  sp : (t.core r).sp.cause = cause.code ∧ (t.core r).sp.faddr = faddr ∧ (t.core r).sp.faux = faux ∧
    (t.core r).sp.cyc = (s.core r).sp.cyc
  frz : (t.core r).sp.frz = (s.core r).sp.frz + match (s.core r).freeze with | some f => s.now - f.since | none => 0
  stop : (t.core r).stop = some
    { cause := cause, kind := kind, faddr := faddr, faux := faux, boundary := (s.core r).sp.cyc, since := s.now,
      cyc := (s.core r).sp.cyc, record := kind != .eviction, resumable := resumable, lostRel := lostRel
      bars := (s.core r).bars }
  thawed : (t.core r).freeze = none
  task : (t.core r).regs = (s.core r).regs ∧ (t.core r).acc = (s.core r).acc ∧
    (t.core r).bars.val = (s.core r).bars.val
  slots : (t.core r).tasks = { (s.core r).tasks with slots := (t.core r).tasks.slots } ∧
    ∀ n : Fin 32, slotBut (t.slotOf r n) = slotBut (s.slotOf r n)
  others : (∀ n, n ≠ r → t.core n = s.core n) ∧ t.mem = s.mem

/-- The core freezes at its cycle: nothing else of it changes. -/
def Frozen (s t : State) (r : Fin 288) : Prop :=
  ∃ f : Freeze, f.since = s.now ∧ f.cyc = (s.core r).sp.cyc ∧ t.core r = { s.core r with freeze := some f } ∧
    (∀ n, n ≠ r → t.core n = s.core n) ∧ t.mem = s.mem

/-- A landing leaves the buffer and the writes ks fall in the core's present cycle; nothing else changes. -/
def arrived (s : State) (r : Fin 288) (l : Landing) (ks : List LatchKind) : State :=
  let c := s.core r
  s.setCore r { c with
    mem := { c.mem with landings := c.mem.landings.filter fun x => x.id != l.id }
    pipe := { c.pipe with latches := c.pipe.latches ++ ks.map fun k =>
      { strm := .m, pc := 0, word := l.source, issue := l.issue, base := c.sp.cyc, parts := 0xFF, flags := 0, guards := [],
        kind := k } } }

end Sys2Proof.Claims

/-- R19: the task a core takes is RUNNABLE and waits for no tick; no other such task has a higher effective class, the same
class and a longer time RUNNABLE, or both equal and a lower slot; and there is one whenever some such task exists. -/
def Obligations.ChosenTaskIsHighestClassThenLongestRunnableThenLowestSlot : Prop :=
  ∀ (s : State) (r : Fin 288),
    let ready (m : Fin 32) : Prop := (s.slotOf r m).st = .runnable ∧ s.ticked r m = false
    (s.chosen r = none ↔ ∀ m, ¬ ready m) ∧
    (∀ n, s.chosen r = some n → ready n ∧ ∀ m, ready m → m ≠ n →
      (s.slotOf r m).effCls < (s.slotOf r n).effCls ∨
      ((s.slotOf r m).effCls = (s.slotOf r n).effCls ∧
        ((s.slotOf r m).runFor < (s.slotOf r n).runFor ∨ ((s.slotOf r m).runFor = (s.slotOf r n).runFor ∧ n < m))))

/-- R18, R22, R29, R112, R120, R137: TASK_START: the chosen task takes the core. From cycle 0 its registers, accumulators,
special registers and streams stand as the spec says, its descriptor is held, and its start conditions have been subtracted
from the barriers unless it starts again. -/
def Obligations.TaskStartGivesTheTaskItsFirstCycle : Prop :=
  ∀ (s : State) (r : Fin 288) (n : Fin 32),
    s.canStart r = true → s.awaitsMember r = false → s.chosen r = some n → (s.slotOf r n).mode ≠ .resume →
    let d := s.slotDesc r.val n.val
    let u := s.slotOf r n
    ∃ t, exec (.taskStart r) s = .next t ∧ OnlyAt r s t ∧
      (t.core r).readA 0 = d 2 ∧ (t.core r).readA 1 = t0Ptr r.val ((d 1).toNat % 2 ^ 32) ∧
      (∀ i : BitVec 5, 2 ≤ i.toNat → (t.core r).readA i = 0) ∧
      (∀ i : BitVec 6, (t.core r).readS i = match u.chunk with
        | some ch => if i = 1 then mod64 ch.count else if i = 2 then mod64 ch.first else 0
        | none => 0) ∧
      (∀ i, (t.core r).readV i = VReg.zero) ∧
      (∀ i, (t.core r).readK i = if i = 0 then MReg.ones else MReg.zero) ∧
      (∀ st l, (t.core r).readL st l = 0) ∧ (t.core r).regs.fq = [] ∧ (t.core r).acc = AccStore.init ∧
      (t.core r).sp = { Specials.init with taskv := (d 0).extractLsb' 16 32 } ∧
      (∀ st, (t.core r).stream st = { off := 0, base := 0, fixed := false, parked := false }) ∧
      (t.core r).fe.xbr = none ∧ (t.core r).fe.tended = none ∧ (t.core r).pipe = Pipe.init ∧
      (∃ run, (t.core r).tasks.run = some run ∧ run.slot = n ∧ (∀ i : Fin 8, run.desc[i] = d i.val) ∧
        (run.aligned = true ↔ descAlignq d = true ∧ s.ring.phase % 1024 ≠ 0)) ∧
      (t.slotOf r n).st = .running ∧ (∀ m, m ≠ n → t.slotOf r m = s.slotOf r m) ∧
      (∀ b : Fin 256, ((t.core r).bars.val[b]).toNat =
        ((s.core r).bars.val[b]).toNat - if u.mode = .fresh then State.subOf d b.val else 0)

/-- R20, R23, R24, R25, R173, R364: the events of the task slots: a committed task begins when the ring stands where it must;
a task that has waited 2^20 cycles rises one class; an accepted descriptor enters its slot; a gang member starts or misses
its start, once, in the first cycle of its tick, the lowest of a core alone being tested, also where that one has missed;
a stopped gang resumes at its common tick.
The model's own choices in it: log entries 32, 66, 108 and 109. -/
def Obligations.TaskSlotEventsHaveTheirEffect : Prop :=
  ∀ (s : State) (r : Fin 288),
    (∀ run : Running, (s.core r).tasks.run = some run → run.aligned = true → (s.core r).stop = none →
      (∀ e, (s.core r).tasks.lastEnd = some e → e + 2 ≤ s.now) →
      ((s.core r).alignq = false ∨ s.ring.phase % 1024 = (s.core r).sp.cyc % 1024) →
      (s.core r).recoverBy = none →
      exec (.alignedStart r) s = .next (s.setCore r
        { s.core r with tasks := { (s.core r).tasks with run := some { run with aligned := false } } })) ∧
    ((s.core r).recoverBy ≠ none → exec (.alignedStart r) s = .next s) ∧
    (∀ n, (s.slotOf r n).st = .runnable → 2 ^ 20 ≤ (s.slotOf r n).age →
      exec (.effectiveClassRise r n) s =
        .next (withSlot s r n { s.slotOf r n with effCls := min 3 ((s.slotOf r n).effCls + 1), age := 0 })) ∧
    (∀ n w, s.nextWrite r = some w → w.slot = n → w.due ≤ s.now → w.desc.length = 8 →
      let d := State.listDesc w.desc
      -- the line of the slot's descriptor in terrace 0
      let need := [(r.val, 0x17F800 / 64 + n.val)]
      (¬ Served s w.ask need → ∃ t, exec (.taskqSlotWrite r n) s = .next t ∧ t.mem = s.mem ∧
        (∀ m, t.slotOf r m = s.slotOf r m) ∧
        (t.core r).tasks.writes = (s.core r).tasks.writes.map fun y =>
          if y.slot == n then { y with ask := some (w.ask.getD s.serial), due := s.now + 1 } else y) ∧
      (Served s w.ask need → descGang d = false ∨ s.tickLate (descTick d) = false →
        ∃ t, exec (.taskqSlotWrite r n) s = .next t ∧
          t.slotOf r n = waitingSlot (descCls d) w.chunk s.now ∧
          (∀ m, m ≠ n → t.slotOf r m = s.slotOf r m) ∧
          (s.MemOk → ∀ i, i < 8 → t.slotDesc r.val n.val i = d i) ∧
          (t.core r).tasks.writes = (s.core r).tasks.writes.filter fun x => x.slot != n) ∧
      (Served s w.ask need → descGang d = true → s.tickLate (descTick d) = true → w.chunk = none →
        ∃ t, exec (.taskqSlotWrite r n) s = .next t ∧ t.slotOf r n = TaskSlot.init ∧
          Recorded s t (s.core r).ctxid fun q => q.src = 2 ∧ q.reason = 10 ∧ q.rank = r.val ∧ q.slot = n.val)) ∧
    (∀ n, s.gangDue r n = true →
      ((∀ k, k < n → s.memberNow r k = false) → s.canStart r = true → s.runnable r n = true →
        ∃ t run, exec (.gangStartTick r n) s = .next t ∧ OnlyAt r s t ∧ (t.core r).tasks.run = some run ∧ run.slot = n ∧
          (t.slotOf r n).st = .running ∧ (t.core r).sp.cyc = 0) ∧
      ((∃ k, k < n ∧ s.memberNow r k = true) ∨ s.canStart r = false ∨ s.runnable r n = false →
        ∃ t, exec (.gangStartTick r n) s = .next t ∧
          t.slotOf r n = { s.slotOf r n with tested := true, missed := true } ∧
          (∀ m, m ≠ n → t.slotOf r m = s.slotOf r m) ∧ (t.core r).tasks.run = (s.core r).tasks.run ∧
          ((s.slotOf r n).chunk = none →
            Recorded s t (s.core r).ctxid fun q => q.src = 2 ∧ q.reason = 10 ∧ q.rank = r.val ∧ q.slot = n.val))) ∧
    (∀ n g, s.resumeOf r n = some g →
      ((s.slotOf r n).resumeTick = some unfixedTick → s.resumeIdle g = true →
        ∃ t, exec (.gangResumeTick r n) s = .next t ∧ t.mem = s.mem ∧
          ∀ i : Fin 288, i.val ∈ g.ranks → (t.core i).tasks.reserved = some (s.tick + 4096).toNat ∧
            ∀ k : Fin 32, (s.slotOf i k).resumeTick = some unfixedTick →
              descGangid (s.slotDesc i.val k.val) = g.gangid → (t.slotOf i k).resumeTick = some (s.tick + 4096)) ∧
      (∀ k, (s.slotOf r n).resumeTick = some k → k ≠ unfixedTick → k.toNat ≤ s.tick.toNat → s.canStart r = true →
        ∃ t run, exec (.gangResumeTick r n) s = .next t ∧ OnlyAt r s t ∧ (t.core r).tasks.run = some run ∧ run.slot = n ∧
          (t.slotOf r n).st = .running ∧ (t.slotOf r n).resumeTick = none))

/-- R169, R170, R172, R46: TASK_END: once nothing is in flight the task's slot is EMPTY, its accumulators and format words are
gone, its barriers stay, and the core takes the newest cairn version; after RFT the framed task follows in the same slot, unless
its VERSION is another one; a guard touch not yet reported stops the task with GUARD instead.
The model's own choices in it: log entries 37, 68 and 70. -/
def Obligations.TaskEndEmptiesItsSlotOrResumesTheFramedTask : Prop :=
  ∀ (s : State) (r : Fin 288) (run : Running),
    (s.core r).tasks.run = some run → (s.core r).active = true → (s.core r).fe.tended.isSome = true →
    (s.core r).mem.landings = [] → (∀ l ∈ (s.core r).pipe.latches, ∃ t, l.kind = .release t) →
    ((s.core r).guard = none → (s.core r).fe.rft = none →
      ∃ t, exec (.taskEnd r) s = .next t ∧ OnlyAt r s t ∧ (t.core r).tasks.run = none ∧
        (t.core r).tasks.lastEnd = some s.now ∧ t.slotOf r run.slot = TaskSlot.init ∧ (t.core r).acc = AccStore.init ∧
        (t.core r).regs = { (s.core r).regs with fq := [] } ∧ (t.core r).bars = (s.core r).bars ∧
        (t.core r).view.version = s.cairn.version ∧ (t.core r).view.pos = s.cairn.pos[r]) ∧
    (∀ n id x, (s.core r).guard = none → (s.core r).fe.rft = some n → n ≠ run.slot → (s.core r).ctx = some id →
      s.ctx? id = some x →
      let version := (s.rawWord .lpddr (x.frameOf r.val n.val + 128)).extractLsb' 16 32
      (version = s.cairn.version →
        ∃ t q, exec (.taskEnd r) s = .next t ∧ (∀ m, m ≠ r → t.core m = s.core m) ∧ (t.core r).tasks.run = some q ∧
          q.slot = run.slot ∧ q.mode = .resume ∧ q.aligned = true ∧ t.slotOf r n = TaskSlot.init ∧
          (t.slotOf r run.slot).st = .running ∧
          (s.MemOk → (t.core r).sp.cyc = (s.rawWord .lpddr (x.frameOf r.val n.val + 8)).toNat)) ∧
      (version ≠ s.cairn.version →
        ∃ t, exec (.taskEnd r) s = .next t ∧ OnlyAt r s t ∧ (t.core r).tasks.run = none ∧
          t.slotOf r run.slot = TaskSlot.init)) ∧
    (∀ g, (s.core r).guard = some g → (s.core r).pipe.before = none →
      ∃ t, exec (.taskEnd r) s = .next t ∧ Stopped s t r .guard .trap g.faddr g.faux true g.lostRel ∧
        (t.core r).guard = none ∧ (t.slotOf r run.slot).settledAt = some (s.core r).sp.cyc)

/-- R47, R48, R49, R262, R353, R354, R365, R386: at its arrival cycle a landing, atomic or capture writes its value as a result of
that cycle, or freezes the core while the value is not there, or stops the task; one that meets a lost layer has 0xFF at once
and freezes nothing. When its causes are over the freeze ends and its span joins FRZ; a gang's freeze takes its members, each
for the one span of the gang.
The model's own choices in it: log entries 31 and 53. -/
def Obligations.ArrivalsWriteTheirValueOrFreezeTheCore : Prop :=
  ∀ (s : State) (r : Fin 288) (id : Nat),
    (∀ l, s.dueLanding r id = some l → l.faulted = false → l.value.isSome = true → l.ready ≤ s.now →
      (∀ bs vd xf, l.value = some (.bytes bs) → l.kind = .land vd xf →
        exec (.landingArrival r id) s = .next (arrived s r l [.vec vd (VReg.ofBytes bs) MReg.ones true])) ∧
      (∀ bs sd, l.value = some (.bytes bs) → (l.kind = .lands sd ∨ l.kind = .atom sd) →
        exec (.landingArrival r id) s = .next (arrived s r l [.scal sd (mod64 (leValue bs : Nat))])) ∧
      (∀ old st sd, l.value = some (.pair old st) → l.kind = .capture sd true false →
        exec (.captureResult r id) s = .next (arrived s r l [.scal sd old, .scal (sd + 1) st])) ∧
      (∀ old st sd, l.value = some (.pair old st) → l.kind = .capture sd false true →
        exec (.captureResult r id) s = .next (arrived s r l [.scal sd st])) ∧
      (∀ old st sd, l.value = some (.pair old st) → l.kind = .capture sd false false →
        exec (.captureResult r id) s = .next (arrived s r l [])) ∧
      (∀ tr j n, l.value = some (.ringFault tr j n) → (s.core r).pipe.before = none →
        ∃ t, exec (.captureResult r id) s = .next t ∧
          Stopped s t r .ringfault .trap 0 (ringFaux (s.core r).sp.cyc tr j n) true)) ∧
    (∀ l, s.dueLanding r id = some l → (l.value = none ∨ s.now < l.ready) →
      (l.faulted = false → s.lostAccess r l = none → ∃ t, exec (.landingArrival r id) s = .next t ∧ Frozen s t r) ∧
      (∀ a, l.faulted = false → s.lostAccess r l = some a →
        ∃ t, exec (.landingArrival r id) s = .next t ∧ t.mem = s.mem ∧ (t.core r).freeze = none ∧
          ((∃ xf n, a.kind = .read xf n) ∨ (∃ op w b e, a.kind = .atom op w b e) →
            ∃ m ∈ (t.core r).mem.landings, ∃ bs, m.id = l.id ∧ m.value = some (.bytes bs) ∧ m.ready = s.now ∧
              ∀ x ∈ bs, x = 0xFF)) ∧
      (l.faulted = true → (s.core r).pipe.before = none →
        ∃ t, exec (.landingArrival r id) s = .next t ∧ Stopped s t r .xlate .trap l.source l.faux true) ∧
      (∃ t, exec (.captureResult r id) s = .next t ∧ Frozen s t r)) ∧
    (∀ f, (s.core r).freeze = some f →
      (f.gang = none → f.since < s.now → s.frozenBy r = false → s.expires r = false →
        ((s.core r).alignq = false ∨ (s.now - f.since) % 1024 = 0) → s.thaws r = true) ∧
      (∀ id g d, f.gang = some id → s.gangs.find? (fun (x : GangFreeze) => x.id == id) = some g → g.span = some d →
        g.had r.val = none → f.since < s.now → s.frozenBy r = false → s.expires r = false →
        ((s.core r).alignq = false ∨ (s.now - f.since) % 1024 = 0) → (s.thaws r = true ↔ d ≤ s.now - f.since)) ∧
      (s.thaws r = true →
        ∃ t, exec (.freezeEnd r) s = .next t ∧ OnlyAt r s t ∧ (t.core r).freeze = none ∧
          (t.core r).sp = { (s.core r).sp with frz := (s.core r).sp.frz + (s.now - f.since) } ∧
          (t.core r).regs = (s.core r).regs ∧ (t.core r).acc = (s.core r).acc ∧ (t.core r).bars = (s.core r).bars ∧
          (t.core r).fe = (s.core r).fe ∧ (t.core r).pipe = (s.core r).pipe ∧ (t.core r).tasks = (s.core r).tasks)) ∧
    (∀ g, s.gangTakes r = some g →
      (g.stop = none → ∃ t, exec (.gangFreeze r) s = .next t ∧ Frozen s t r) ∧
      (∀ st first, g.stop = some (st, first) → (s.core r).pipe.before = none →
        ∃ t, exec (.gangFreeze r) s = .next t ∧
          Stopped s t r st.cause .interrupt 0
            (mod64 ((s.core r).sp.cyc % 2 ^ 32 * 2 ^ 32 + 2 ^ 31 + first : Nat)) true))

/-- R122, R141, R154, R355, R356, R357, R367: a stop writes CAUSE, FADDR and FAUX and holds the task at its boundary with
everything it computed: at the end of the freeze budget, at the timer's cycle (which TMCMP then forgets), for what the core
owes, and for an uncorrectable error; with BARRIER the marks of saturation are cleared, in the core and in its image (R58); a
task that may run again starts again from cycle 0 with a record instead, and waits for the place of that record where there is
none.
The model's own choices in it: log entries 55, 78, 93 and 107. -/
def Obligations.StopsWriteCauseAndHoldTheTaskAtItsBoundary : Prop :=
  ∀ (s : State) (r : Fin 288),
    (s.expires r = true → (s.core r).pipe.before = none →
      (s.heldFor r = [] → ∃ t, exec (.budgetExpiry r) s = .next t ∧
        Stopped s t r .landlate .budget (s.landlateWords r).1 (s.landlateWords r).2 true) ∧
      (s.heldFor r ≠ [] → ∃ t, exec (.budgetExpiry r) s = .next t ∧
        Stopped s t r .xlate .budget (State.xlateWords (s.heldFor r)).1 (State.xlateWords (s.heldFor r)).2 true)) ∧
    ((s.core r).active = true → (s.core r).pipe.before = none → (s.core r).sp.tmcmp ≠ 0 →
      (s.core r).sp.tmcmp.toNat = (s.core r).sp.cyc →
      (s.slotOf r (s.core r).slot).settledAt ≠ some (s.core r).sp.cyc →
      ∃ t, exec (.timer r) s = .next t ∧ (t.core r).sp.tmcmp = 0 ∧
        Stopped s t r .timer .interrupt 0 (mod64 ((s.core r).sp.cyc % 2 ^ 32 * 2 ^ 32 : Nat)) true) ∧
    (∀ cause kind faddr faux, s.owes r = some (cause, kind, faddr, faux) → (s.core r).pipe.before = none →
      cause ≠ .barrier →
      ∃ t, exec (.taskStop r) s = .next t ∧ Stopped s t r cause kind faddr faux true
        (cause == .guard && match (s.core r).guard with | some g => g.lostRel | none => false)) ∧
    (∀ faddr faux x, s.owes r = some (.barrier, .trap, faddr, faux) → (s.core r).pipe.before = none → s.MemOk →
      s.ctx? (s.core r).ctxid = some x →
      ∃ t, exec (.taskStop r) s = .next t ∧ (∃ st, (t.core r).stop = some st ∧ st.cause = .barrier ∧ st.faux = faux) ∧
        (t.core r).bars.val = (s.core r).bars.val ∧ (∀ b : Fin 256, (t.core r).bars.pend[b] = false) ∧
        ∀ b : Fin 256, t.rawWord .lpddr (x.block r.val + 0x180000 + 8 * b.val) =
          s.rawWord .lpddr (x.block r.val + 0x180000 + 8 * b.val) &&& ~~~(1#64 <<< 63)) ∧
    (∀ unit line index, (s.core r).pipe.before = none →
      ((s.core r).tasks.run = none → unit ≠ .layer →
        ∃ t, exec (.uncorr r unit line index) s = .next t ∧ (∀ n, n ≠ r → t.core n = s.core n) ∧
          t.core r = { s.core r with pending := { (s.core r).pending with uncorr := none } } ∧ t.mem = s.mem) ∧
      (∀ run, (s.core r).tasks.run = some run → (s.core r).stop = none → run.aligned = false →
        (s.core r).pending.rerun = false →
        ((run.desc[0]).getLsbD 10 = false ∨ 2 ≤ (s.slotOf r run.slot).reruns →
          ∃ t, exec (.uncorr r unit line index) s = .next t ∧
            (∃ st, (t.core r).stop = some st ∧ st.cause = .uncorr ∧ st.faddr = line ∧ st.resumable = false) ∧
            (unit ≠ .layer → Stopped s t r .uncorr .trap line
              (mod64 ((s.core r).sp.cyc % 2 ^ 32 * 2 ^ 32 + unitCode unit * 2 ^ 16 + index.toNat : Nat)) false)) ∧
        ((run.desc[0]).getLsbD 10 = true → (s.slotOf r run.slot).reruns < 2 → unit ≠ .layer →
          (∃ x, s.ctx? (s.core r).ctxid = some x ∧ x.full = true) →
          ∃ t, exec (.uncorr r unit line index) s = .next t ∧ (t.core r).pending.rerun = true ∧ (t.core r).active = false ∧
            (t.core r).stop = none ∧ (t.core r).regs = (s.core r).regs ∧ t.contexts = s.contexts ∧ t.mem = s.mem) ∧
        ((run.desc[0]).getLsbD 10 = true → (s.slotOf r run.slot).reruns < 2 → unit ≠ .layer →
          (∀ x, s.ctx? (s.core r).ctxid = some x → x.full = false) →
          (∀ l ∈ (s.core r).pipe.latches, l.isTest = false) →
          ∃ t q, exec (.uncorr r unit line index) s = .next t ∧ (t.core r).stop = none ∧ (t.core r).freeze = none ∧
            (t.core r).sp.cyc = 0 ∧ (t.core r).readA 0 = run.desc[2] ∧ (t.core r).pipe = Pipe.init ∧
            (t.core r).mem.landings = [] ∧ (t.core r).tasks.run = some q ∧ q.slot = run.slot ∧ q.mode = .restart ∧
            (t.slotOf r run.slot).reruns = (s.slotOf r run.slot).reruns + 1 ∧ (t.core r).bars = (s.core r).bars ∧
            t.mem = s.mem ∧ Recorded s t (s.core r).ctxid fun q =>
              q.cause = 0x11 ∧ q.src = 3 ∧ q.rank = r.val ∧ q.slot = run.slot.val)))

/-- R357 to R365: a stopped task with nothing in flight and no write that is still coming is written to its frame, and the
core that takes up that frame again has the task's registers, loop counters and format words, its special registers, the next
word and cycle of every stream, a pending transfer, and the tile of every bound handle.
The model's own choices in it: log entries 9, 10, 13 and 24 to 27. -/
def Obligations.AStoppedTaskIsRestoredByItsFrame : Prop :=
  ∀ (s : State) (r : Fin 288) (st : StopRec) (run : Running) (id : BitVec 16) (x : Context), s.MemOk →
    (s.core r).stop = some st → (s.core r).tasks.run = some run → (s.core r).ctx = some id → s.ctx? id = some x →
    (s.core r).mem.landings = [] → (s.core r).pipe.latches = [] → (s.core r).regs.fq.length ≤ 16 →
    (∀ j, s.writeComing r j = false) →
    (st.record = false ∨ x.full = false) → st.boundary < 2 ^ 64 → (s.core r).sp.frz < 2 ^ 64 →
    ∃ t, exec (.taskStop r) s = .next t ∧ (t.core r).tasks.run = none ∧ (t.core r).stop = none ∧
      (t.slotOf r run.slot).st = .suspended ∧
      (st.record = true → Recorded s t id fun q => q.cause = st.cause.code ∧ q.src = 3 ∧ q.rank = r.val ∧
        q.slot = run.slot.val ∧ q.addr = mod64 (x.frameOf r.val run.slot.val : Nat)) ∧
      let u := t.loadFrame r run.slot (x.frameOf r.val run.slot.val)
      let c := s.core r
      let k := u.core r
      k.regs = c.regs ∧
      k.sp = { c.sp with cyc := st.boundary, cause := st.cause.code, faddr := st.faddr, faux := st.faux } ∧
      (∀ q, s.nextIssue r q = none → u.nextIssue r q = none) ∧
      (∀ q n, s.nextIssue r q = some n → n < 2 ^ 64 - 1 → (c.stream q).off < 2 ^ 32 →
        u.nextIssue r q = some n ∧ (k.stream q).off = (c.stream q).off) ∧
      (∀ b, c.fe.xbr = some b → st.boundary ≤ b.at_ → 0 < b.at_ → b.at_ < 2 ^ 64 →
        (∀ i : Fin 4, b.tgt[i] < 2 ^ 32 ∧ (c.fe.streams[i]).off < 2 ^ 32) →
        k.fe.xbr = some b) ∧
      (∀ (h : Fin 16) (a : Fin 32), c.acc.h[h] = some a → ∃ b, k.acc.h[h] = some b ∧ k.acc.tiles[b] = c.acc.tiles[a])

/-! ## Memory ports, the ring and the copy engines -/

namespace Sys2Proof.Claims

/-- The bytes that a stamp or an alighted payload writes. -/
def portPayload : AccKind → Option (List Byte)
  | .stamp v => some (leBytes 8 v.toNat)
  | .qalt (some p) => some (p.toList.flatMap fun w => leBytes 8 w.toNat)
  | _ => none

/-- A landing-buffer entry of a core has a value; no other entry changes. -/
def Delivered (s t : State) (r : Fin 288) (id : Nat) (v : LandValue) (ready : Nat) : Prop :=
  (t.core r).mem.landings = (s.core r).mem.landings.map fun l =>
    if l.id == id then { l with value := some v, ready := ready, poison := false } else l

/-- The access id of the port of core r is its entry j, and may perform. -/
def PortTurn (s : State) (r : Fin 288) (id j : Nat) (a : Access) : Prop :=
  (s.core r).mem.port.findIdx? (fun a => a.id == id) = some j ∧ (s.core r).mem.port[j]? = some a ∧ s.portReady r j = true ∧
    a.owes = false

/-- The part of the device that a pointer names, not lost, without guard granules, poison, and stores that only their own
core sees yet. -/
def At (s : State) (p : W64) (pl : Place) (off : Nat) : Prop :=
  targetOf p = .place pl off ∧ pl ≠ .host ∧ s.lostTarget (.place pl off) = false ∧ s.prot.guards = [] ∧ s.poison = [] ∧
    s.hidden = []

/-- The n bytes from a key are bs, and every other byte of memory reads as it did. -/
def Wrote (s t : State) (key : Nat) (bs : List Byte) : Prop :=
  (∀ j, j < bs.length → some (memRead t.mem (key + j)) = bs[j]?) ∧
    ∀ k, (k < key ∨ key + bs.length ≤ k) → memRead t.mem k = memRead s.mem k

/-- The status word of a capture (R263). -/
def captureStatus (absent wrote : Bool) (slot : Nat) : W64 :=
  mod64 ((if absent then 2 ^ 15 else 0) + (if wrote then 2 ^ 14 else 0) + slot : Nat)

/-- The word that a capture leaves, and whether it says it wrote (R263, R264). -/
def captureNew (op : CapOp) (old b e : W64) : W64 × Bool :=
  match op with
  | .wr => (b, false)
  | .add => (mod64 (old.toInt + b.toInt), true)
  | .min => (mod64 (min old.toInt b.toInt), true)
  | .max => (mod64 (max old.toInt b.toInt), true)
  | .or => (old ||| b, true)
  | .xchg => (b, true)
  | .cas => if old = e then (b, true) else (old, false)
  | .rd | .brd | .alt => (old, false)

/-- Every slot but one stands. -/
def OtherSlots (s t : State) (track : Fin 8) (j : Fin 1024) : Prop :=
  ∀ a b, (a, b) ≠ (track, j) → t.ring.slot a b = s.ring.slot a b

/-- The engine has read an entry of these words, may perform it, and has not begun to copy; no guard granule is set, no
REMOTE stamp of the chain is outstanding, and a record finds room. -/
structure AtEntry (s : State) (e : Fin 96) (ch : Chain) (w : Walk) (x : Nat → W64) (kind : Nat) : Prop where
  walk : s.walkOf e = some (ch, w)
  ready : s.engineReady w = true ∧ State.atLimit w = false ∧ s.stampsOut e ch = false ∧ s.chainRoom ch = true
  fresh : w.copy = none
  entry : w.entry = some (Vector.ofFn fun i : Fin 4 => x i.val)
  high : ∀ i, 4 ≤ i → x i = 0
  kind : (x 0).toNat / 2 ^ 60 = kind
  guards : s.prot.guards = []

/-- The engine waits under a ticket for lines of terrace 0s: nothing else changes but the queue for banks. -/
def Waits (s t : State) (e : Fin 96) (w : Walk) : Prop :=
  t.mem = s.mem ∧ t.cores = s.cores ∧ t.contexts = s.contexts ∧ t.adds = s.adds ∧ t.ring = s.ring ∧
    (t.engines[e]).walk = some { w with ask := some (w.ask.getD s.serial), due := s.now + 1 }

/-- The walk of the engine has gone on from an entry to an offset, with the run of R258 lengthened, kept or ended. -/
def WentOn (t : State) (e : Fin 96) (w : Walk) (nest : List LoopFrame) (nxt : Nat) (run : Run) (p : Walk → Prop) : Prop :=
  ∃ w', (t.engines[e]).walk = some w' ∧ (w'.nest, w'.pc) = leaveBody nest nxt ∧ w'.last = w.pc ∧
    w'.entries = w.entries + 1 ∧ w'.waiting = false ∧ p w' ∧
    w'.streak = match run with | .lengthen => w.streak + 1 | .keep => w.streak | .stop => 0

/-- Some granule that a copy still has to write holds byte b for the place j bytes from a pointer. -/
def Holds (m : CopyRun) (dst : W64) (j : Nat) (b : Byte) : Prop :=
  ∃ g ∈ m.todo, ∃ i, g.bytes[i]? = some b ∧ ptrAdd g.dst (i : Nat) = ptrAdd dst (j : Nat)

/-- The entry of the engine has begun to copy with a count: memory stands, and what is to be written is cut at 64-byte
granules (R55, R57). -/
def Copying (s t : State) (e : Fin 96) (w : Walk) (m : CopyRun) (count : Nat) (p : Walk → Prop) : Prop :=
  t.mem = s.mem ∧ (∃ w', (t.engines[e]).walk = some w' ∧ w'.copy = some m ∧ w'.pc = w.pc ∧ p w') ∧ m.left = count ∧
    ∀ g ∈ m.todo, g.dst.toNat % 64 + g.bytes.length ≤ 64

/-- The entry begins to copy these pieces: every destination byte holds its source byte, as the engine reads it, or its fill. -/
def Begun (s : State) (i : Instr) (e : Fin 96) (w : Walk) (ps : List Piece) (count : Nat) : Prop :=
  ∃ t m, exec i s = .next t ∧ Copying s t e w m count (fun _ => True) ∧
    ∀ p ∈ ps, ∀ d, p.dst = some d → ∀ j, j < p.n → ∃ b, Holds m d.1 j b ∧
      match p.src with
      | none => p.fill[j]? = some b
      | some q => ∀ pl off, targetOf q.1 = .place pl off → b = memRead (view s w.ask).mem (pl.key off + j)

/-- No piece is faulty, held or lost, and every source lies in a terrace or a layer. -/
def PiecesOk (s : State) (e : Fin 96) (ch : Chain) (ps : List Piece) : Prop :=
  ps ≠ [] ∧ s.piecesFault e ch ps = none ∧ s.sourcesWalk e ch ps = none ∧ s.sourcesLost ps = none ∧
    ∀ p ∈ ps, ∀ q, p.src = some q → ∃ pl off, targetOf q.1 = .place pl off

/-- A bit field of a word, and the same as a signed number. -/
def fieldOf (w : W64) (lo len : Nat) : Nat := w.toNat / 2 ^ lo % 2 ^ len
def signedOf (w : W64) (lo len : Nat) : Int :=
  if fieldOf w lo len < 2 ^ (len - 1) then fieldOf w lo len else (fieldOf w lo len : Int) - 2 ^ len

/-- R251: the piece of position (y, k) of a WINDOW: word 0 of the entry, its record, the image, the destination, the fill. -/
def windowPiece (x0 : W64) (r : Nat → W64) (sa da fill : W64) (y k : Nat) : Piece :=
  let size := 2 ^ fieldOf x0 58 2
  let chn := fieldOf (r 1) 32 32
  let row : Int := signedOf (r 2) 32 32 + fieldOf (r 3) 48 16 * y + signedOf x0 50 8
  let col : Int := signedOf (r 2) 0 32 + fieldOf (r 3) 32 16 * k + signedOf x0 42 8
  let dst := ptrMove da ((fieldOf (r 6) 0 50 * (fieldOf (r 1) 0 16 * y + k) : Nat) : Int)
  if 0 ≤ row ∧ row < fieldOf (r 0) 32 32 ∧ 0 ≤ col ∧ col < fieldOf (r 0) 0 32 then
    { src := some (ptrMove sa (row * (fieldOf (r 4) 0 50 : Int) + col * (fieldOf (r 5) 0 50 : Int))), dst := some dst,
      fill := [], n := chn * size }
  else { src := none, dst := some dst, fill := (List.replicate chn (leBytes size fill.toNat)).flatten, n := chn * size }

/-- R66: the segment is well formed for an engine of a level that reads q planes; its bytes from the header on. -/
def SegGood (h : SegHead) (f : MxFmt) (level q : Nat) (bs : List Byte) : Prop :=
  segFmt h.fmt = some f ∧ (h.sliced = true → (f = .e4m3 ∨ f = .e5m2 ∨ f = .e2m1) ∧ (q = 0 ∨ segWidth f ≤ q ∨ leastQ f ≤ q)) ∧
    1 ≤ h.nblk ∧ h.nblk ≤ 4096 ∧ h.resv = false ∧ 16 + h.nblk ≤ h.voff ∧ level ≤ h.xpt ∧
    (halfSum ((bs.drop 16).take h.nblk) + halfSum ((bs.drop h.voff).take (4 * segWidth f * h.nblk))) % 2 ^ 16 = h.check

/-- R63, R65: output element i of block b of a segment, in the output format of its EXPAND. -/
def segElement (h : SegHead) (f : MxFmt) (out q : Nat) (bs : List Byte) (b i : Nat) : List Byte :=
  let w := segWidth f
  let v := leValue ((bs.drop (h.voff + 4 * w * b)).take (4 * w))
  let plane (p : Nat) : Nat := if (q = 0 ∨ p < q) ∧ v.testBit (32 * p + i) = true then 2 ^ (w - 1 - p) else 0
  let code := if h.sliced then ((List.range w).map plane).sum else v / 2 ^ (w * i) % 2 ^ w
  let fmt := match out with | 1 => fmtBF16 | 2 => fmtF16 | _ => fmtF32
  leBytes (if out = 3 then 4 else 2) (fmt.put .rn false (mxValue f (((bs[16 + b]?).getD 0).toNat) code)).1

/-- R252: what a segment becomes: expanded, copied with NEXT 0 where it is the last, or 0xFF where malformed. -/
def SegOutput (h : SegHead) (level : Option Nat) (out q : Nat) (bs : List Byte) (good : Prop) (bytes : List Byte) : Prop :=
  let len := if level = some h.xpt then 32 * (if out = 3 then 4 else 2) * (if h.nblk ≤ 4096 then h.nblk else 0) else h.span
  (good → level = some h.xpt → ∀ f, segFmt h.fmt = some f →
    bytes = (List.range h.nblk).flatMap fun b => (List.range 32).flatMap fun i => segElement h f out q bs b i) ∧
  (good → level ≠ some h.xpt → bytes = bs.take 12 ++ [0, 0, 0, 0] ++ (bs.take h.span).drop 16) ∧
  (¬ good → bytes = List.replicate len 0xFF)

/-- A faulty entry: one record that names it, ERR, and the chain goes on (R53). -/
def Faulty (s t : State) (e : Fin 96) (ch : Chain) (w : Walk) (nxt : Nat) (run : Run) : Prop :=
  Recorded s t ch.ctxid (fun q => q.src = 1 ∧ q.reason = 6 ∧ q.engine = e.val ∧ q.rank = ch.rank.val ∧ q.entry = w.entries) ∧
    WentOn t e w w.nest nxt run fun w' => w'.err = true

end Sys2Proof.Claims

/-- R58, R236, R239, R244, R246, R266, R346 to R349, R17: an access of the memory port performs where its pointer leads: a
landing takes its bytes, a stamp or an alighted payload is written whole, an atomic replaces its word and delivers the old
one, a GLOBAL landing, stamp or payload reaches the pieces that its pages give; a landing from another core's terrace 0 waits
until the banks of its lines have served it, and takes what they gave (R44); one whose walk fails is held and recorded; one
that has met a lost layer writes its record (R386). An addition reaches its barrier or its image. A GLOBAL stamp of a start
condition is read again.
The model's own choices in it: log entries 15 to 17, 29, 30, 66 and 77. -/
def Obligations.PortAccessesPerformOrAreHeld : Prop :=
  ∀ (s : State) (r : Fin 288), s.MemOk →
    (∀ id j a pl off, PortTurn s r id j a → At s a.ptr pl off →
      (∀ n, a.kind = .read 0 n → s.foreignT0 a.ctxid a.ptr = false → Served s a.ask (s.foreignLines r a) →
        let v := if s.foreignLines r a = [] then s else view s a.ask
        ∃ t ready, exec (.translationWalk r id) s = .next t ∧ s.now ≤ ready ∧ t.mem = s.mem ∧
          Delivered s t r a.id (.bytes ((List.range n).map fun i => memRead v.mem (pl.key off + i))) ready) ∧
      (∀ bs, portPayload a.kind = some bs →
        ∃ t, exec (.translationWalk r id) s = .next t ∧ Wrote s t (pl.key off) bs ∧
          ∀ b ∈ (t.core r).mem.port, b.id ≠ a.id) ∧
      (∀ op wide b e, a.kind = .atom op wide b e → a.first = none →
        let n := if wide then 8 else 4
        let old := leValue (memReadN s.mem (pl.key off) n)
        ∃ t ready, exec (.translationWalk r id) s = .next t ∧
          Wrote s t (pl.key off) (leBytes n (atomNew op (8 * n) old (b.toNat % 2 ^ (8 * n)) (e.toNat % 2 ^ (8 * n)))) ∧
          Delivered s t r a.id (.bytes (leBytes 8 old)) ready) ∧
      (∀ op wide b, a.kind = .red op wide b → op ≠ .cas → a.first = none →
        let n := if wide then 8 else 4
        let old := leValue (memReadN s.mem (pl.key off) n)
        ∃ t, exec (.translationWalk r id) s = .next t ∧
          Wrote s t (pl.key off) (leBytes n (atomNew op (8 * n) old (b.toNat % 2 ^ (8 * n)) 0)) ∧
          (t.core r).mem.landings = (s.core r).mem.landings)) ∧
    (∀ id j a, PortTurn s r id j a → ¬ Served s a.ask (s.foreignLines r a) →
      ∃ t, exec (.translationWalk r id) s = .next t ∧ t.mem = s.mem ∧ (t.core r).mem.landings = (s.core r).mem.landings ∧
        ∃ b ∈ (t.core r).mem.port, b.id = a.id ∧ b.due = s.now + 1 ∧ b.ask = some (a.ask.getD s.serial)) ∧
    (∀ id j a x, (s.core r).mem.port.findIdx? (fun a => a.id == id) = some j → (s.core r).mem.port[j]? = some a →
      s.portReady r j = true → a.owes = true → s.ctx? a.ctxid = some x → x.full = false →
      ∃ t, exec (.translationWalk r id) s = .next t ∧ t.mem = s.mem ∧ (t.core r).mem.landings = (s.core r).mem.landings ∧
        (∀ b ∈ (t.core r).mem.port, b.id ≠ a.id) ∧
        Recorded s t a.ctxid fun q => q.cause = 0x0A ∧ q.src = 0 ∧ q.reason = 8 ∧ q.held = false ∧ q.lost = true ∧ q.addr = a.ptr) ∧
    (∀ id j a va x, PortTurn s r id j a → targetOf a.ptr = .global va → s.ctx? a.ctxid = some x →
      (∀ n ps, a.kind = .read 0 n → s.translateSpan (some (mapUnit r)) x va n false = .ok ps →
        ∃ t ready, exec (.translationWalk r id) s = .next t ∧ s.now ≤ ready ∧ t.mem = s.mem ∧
          Delivered s t r a.id (.bytes (s.readPieces ps)) ready) ∧
      (∀ bs ps, portPayload a.kind = some bs →
        s.translateSpan (some (mapUnit r)) x va bs.length true = .ok ps →
        ∃ t, exec (.translationWalk r id) s = .next t ∧ t.mem = (s.writePieces ps (bs.map fun b => (b, true))).mem ∧
          (∀ b ∈ (t.core r).mem.port, b.id ≠ a.id) ∧
          (∀ pa leaf, ps = [(.lpddr, pa, bs.length, leaf)] → Wrote s t (Place.lpddr.key pa) bs))) ∧
    (∀ id j a va x n rs tab at_, PortTurn s r id j a → a.kind = .read 0 n → targetOf a.ptr = .global va →
      s.ctx? a.ctxid = some x → x.full = false → s.translateSpan (some (mapUnit r)) x va n false = .error (rs, tab, at_) →
      (s.core r).stop = none →
      ∃ t, exec (.translationWalk r id) s = .next t ∧ t.mem = s.mem ∧
        (∃ b ∈ (t.core r).mem.port, b.id = a.id ∧ b.held = some x.gen ∧ b.freezes = true) ∧
        Recorded s t a.ctxid fun q => q.cause = 0x0A ∧ q.src = 0 ∧ q.reason = rs ∧ q.held = true) ∧
    (∀ id a, s.adds.find? (fun (x : BarrierAdd) => x.id == id) = some a → a.after = [] → a.due ≤ s.now →
      (∀ y ∈ s.adds.takeWhile (fun x => x.id != id), y.chain = none ∨ y.chain ≠ a.chain) →
      (∀ (b : Fin 256), a.rank = r.val → a.bar = b.val → (s.core r).ctx = some a.ctxid →
        ∃ t, exec (.barrierAddition id) s = .next t ∧
          ((t.core r).bars.val[b]).toNat = min (((s.core r).bars.val[b]).toNat + a.count) (2 ^ 48 - 1) ∧
          ((t.core r).bars.pend[b] = true ↔
            (s.core r).bars.pend[b] = true ∨ 2 ^ 48 ≤ ((s.core r).bars.val[b]).toNat + a.count) ∧
          (∀ c, c ≠ b → (t.core r).bars.val[c] = (s.core r).bars.val[c]) ∧ t.mem = s.mem) ∧
      (∀ x, a.rank = r.val → (s.core r).ctx ≠ some a.ctxid → s.ctx? a.ctxid = some x →
        (x.hasCore r.val = true →
          ∃ t, exec (.barrierAddition id) s = .next t ∧ t.cores = s.cores ∧
            (t.rawWord .lpddr (x.block r.val + 0x180000 + 8 * a.bar)).toNat % 2 ^ 48 =
              min ((s.rawWord .lpddr (x.block r.val + 0x180000 + 8 * a.bar)).toNat % 2 ^ 48 + a.count) (2 ^ 48 - 1)) ∧
        (x.hasCore r.val = false →
          ∃ t, exec (.barrierAddition id) s = .next t ∧ t.cores = s.cores ∧ t.mem = s.mem ∧
            Recorded s t a.ctxid fun q => q.src = 2 ∧ q.reason = 9 ∧ q.akind = 1 ∧ q.rank = r.val))) ∧
    (∀ (n : Fin 32) (i : Fin 4) id x, s.stampDueNow r n i = true → (s.core r).ctx = some id → s.ctx? id = some x →
      let p := descStamp (s.slotDesc r.val n.val) i.val
      let thresh := (s.slotDesc r.val n.val (3 + i.val)).toNat % 2 ^ 48
      (∀ ps, s.translateSpan (some (mapUnit r)) x (p.toNat % 2 ^ 50) 8 false = .ok ps →
        ∃ t, exec (.globalStampRead r n i) s = .next t ∧
          (t.slotOf r n).stampHolds[i] = decide (thresh ≤ leValue (s.readPieces ps) % 2 ^ 48) ∧
          s.now < (t.slotOf r n).stampDue[i] ∧ (t.slotOf r n).stampDue[i] ≤ s.now + 4096) ∧
      (∀ rs tab at_, x.full = false → s.translateSpan (some (mapUnit r)) x (p.toNat % 2 ^ 50) 8 false = .error (rs, tab, at_) →
        ∃ t, exec (.globalStampRead r n i) s = .next t ∧ (t.slotOf r n).stampHolds[i] = false ∧
          Recorded s t id fun q => q.cause = 0x0A ∧ q.src = 0 ∧ q.reason = rs ∧ q.slot = n.val))

/-- R71, R73, R74, R76, R79, R80, R82, R83, R262 to R266: a capture acts on the slot that stands at its station: it reads and
replaces its word, boards, or alights; it ends absent on a slot that is not its context's, and with RINGFAULT on a broken
one; its result is ready two cycles later. After 1,024 passes it ends absent. An uncorrectable error breaks a slot. At the col
parity turns and a slot that was swept becomes FREE.
The model's own choices in it: log entry 14. -/
def Obligations.CapturesActOnTheSlotAtTheirStation : Prop :=
  ∀ (s : State),
    (∀ (r : Fin 288) (id : Nat) (k : Capture), s.cap? r id = some k →
     let j := s.ring.atPos ((s.core r).view.pos.toNat)
     let x := s.ring.slot k.track j
     let mine : Prop := x.st = .boarded ∧ x.ctxid = k.ctxid ∧ x.world = k.world
     s.capActs r k = true →
      (k.op ≠ .brd → k.op ≠ .alt → mine →
        ∃ t, exec (.capturePerform r id) s = .next t ∧ OtherSlots s t k.track j ∧
          t.ring.slot k.track j = { x with payload := x.payload.set k.wd (captureNew k.op x.payload[k.wd] k.b k.e).1 } ∧
          Delivered s t r k.id
            (.pair x.payload[k.wd] (captureStatus false (captureNew k.op x.payload[k.wd] k.b k.e).2 j.val)) (s.now + 2)) ∧
      (k.op ≠ .brd → x.st ≠ .broken → ¬ mine →
        ∃ t, exec (.capturePerform r id) s = .next t ∧ t.ring.slots = s.ring.slots ∧
          Delivered s t r k.id (.pair 0 (captureStatus true false j.val)) (s.now + 2)) ∧
      (k.op ≠ .brd → x.st = .broken →
        ∃ t, exec (.capturePerform r id) s = .next t ∧ t.ring.slots = s.ring.slots ∧
          Delivered s t r k.id (.ringFault k.track.val j.val 1) (s.now + 2)) ∧
      (∀ key, k.op = .brd → k.find = .firstFree key →
        ∃ t y, exec (.capturePerform r id) s = .next t ∧ OtherSlots s t k.track j ∧ t.ring.slot k.track j = y ∧
          y.st = .boarded ∧ y.key = key ∧ y.ctxid = k.ctxid ∧ y.world = k.world ∧ y.par = x.par ∧
          (∀ w : Fin 8, y.payload[w] = if w = k.wd then k.b else 0) ∧
          Delivered s t r k.id (.pair 0 (captureStatus false false j.val)) (s.now + 2)) ∧
      (k.op = .alt → mine →
        ∃ t y, exec (.capturePerform r id) s = .next t ∧ OtherSlots s t k.track j ∧ t.ring.slot k.track j = y ∧
          y.st = .free ∧ y.key = 0 ∧ y.ctxid = 0 ∧ y.world = false ∧ y.par = x.par ∧
          (∀ a ∈ (t.core r).mem.port, a.id = k.id + 1 → a.kind = .qalt (some x.payload)) ∧
          Delivered s t r k.id (.pair 0 (captureStatus false false j.val)) (s.now + 2))) ∧
    (∀ (r : Fin 288) (id : Nat) (k : Capture), s.cap? r id = some k → 1024 ≤ k.examined →
      ∃ t, exec (.captureAbsent r id) s = .next t ∧ t.ring = s.ring ∧
        Delivered s t r k.id
          (.pair 0 (captureStatus true false (match k.find with | .index i => i.val | _ => 0))) (s.now + 2)) ∧
    (∀ (track : Fin 8) (slot : Fin 1024),
      ∃ t, exec (.slotError track slot) s = .next t ∧ (t.ring.slot track slot).st = .broken ∧ OtherSlots s t track slot ∧
        Recorded s t (s.ring.slot track slot).ctxid fun q => q.cause = 0x0F ∧ q.src = 2 ∧ q.reason = 9) ∧
    (∀ slot : Fin 1024, ∃ t, exec (.colCrossing slot) s = .next t ∧ t.cores = s.cores ∧ t.mem = s.mem ∧
      ∀ (track : Fin 8) (j : Fin 1024), t.ring.slot track j =
        let x := s.ring.slot track j
        if j ≠ slot then x
        else if x.freeAtCol then ⟨!x.par, .free, false, 0, 0, Vector.replicate 8 0, false⟩ else { x with par := !x.par })

/-- R44, R52, R53, R249, R253, R254, R255, R258, R259, R401: what the control entries of a chain do: a chain starts, reads each
entry whole in the cycle that serves its line, the oldest request of an idle bank first, loops, jumps, sets EXPAND, tests,
waits, and ends; an entry with a field that it may not have is faulty, and so is a waiting COND that can be tested no more; a
chain at its limit ends with a record.
The model's own choices in it: log entries 35, 66 and 101. -/
def Obligations.ControlEntriesDriveTheChain : Prop :=
  ∀ (s : State) (e : Fin 96),
    (∀ ch rest, (s.engines[e]).walk = none → (s.engines[e]).queue = ch :: rest → s.mayStart ch = true →
      ∃ t w, exec (.chainStart e) s = .next t ∧ (t.engines[e]).walk = some w ∧ w.pc = ch.start ∧ w.nest = [] ∧
        w.err = false ∧ w.lost = false ∧ w.autoCount = 0 ∧ w.expand = none ∧ (t.engines[e]).queue = ch :: rest) ∧
    (∀ ch w, s.walkOf e = some (ch, w) → s.engineReady w = true → State.atLimit w = true →
      s.stampsOut e ch = false → s.chainRoom ch = true →
      ∃ t, exec (.chainLimit e) s = .next t ∧ (t.engines[e]).walk = none ∧
        (t.engines[e]).queue = (s.engines[e]).queue.drop 1 ∧ (t.engines[e]).done = (s.engines[e]).done + 1 ∧
        Recorded s t ch.ctxid fun q => q.src = 1 ∧ q.reason = 9 ∧ q.engine = e.val) ∧
    (∀ ch w, s.walkOf e = some (ch, w) → s.engineReady w = true → State.atLimit w = false → w.entry = none →
      s.prot.guards = [] →
      let need := t0Lines (t0Ptr ch.rank w.pc) 32
      let t := s.readEntry e
      t.mem = s.mem ∧ t.cores = s.cores ∧
      (Served s w.ask need → (t.engines[e]).walk =
        some { w with entry := some (Vector.ofFn fun i : Fin 4 => (view s w.ask).chainWord ch w.pc i.val), ask := none }) ∧
      (¬ Served s w.ask need → (t.engines[e]).walk = some { w with ask := some (w.ask.getD s.serial) })) ∧
    (s.serveBanks.mem = s.mem ∧
      (∀ a ∈ s.serveBanks.bankq, a.data ≠ none → a ∈ s.bankq ∨
        a.data = some (s.seen.bytesAt (.t0 a.rank) (64 * a.line) 64) ∧ s.bankIdle a.rank (a.line % 96) = true) ∧
      (∀ before a after, s.bankq = before ++ a :: after → s.ticketHeld a.id = true → a.data = none →
        s.bankIdle a.rank (a.line % 96) = true →
        (∀ b ∈ before, b.data = none → b.rank = a.rank → b.line % 96 = a.line % 96 → s.ticketHeld b.id = false) →
        { a with data := some (s.seen.bytesAt (.t0 a.rank) (64 * a.line) 64) } ∈ s.serveBanks.bankq)) ∧
    (∀ ch w x kind, AtEntry s e ch w x kind →
      (kind = 0 → (∀ i, i < 4 → x i = 0) →
        ∃ t, exec (.endChain e) s = .next t ∧ (t.engines[e]).walk = none ∧
          (t.engines[e]).queue = (s.engines[e]).queue.drop 1 ∧ (t.engines[e]).done = (s.engines[e]).done + 1 ∧
          t.mem = s.mem ∧ t.contexts = s.contexts) ∧
      (kind = 0 ∧ (∃ i, i < 4 ∧ x i ≠ 0) ∨ 8 ≤ kind →
        ∃ t, exec (.endChain e) s = .next t ∧ Faulty s t e ch w (w.pc + 32) .keep) ∧
      (kind = 7 →
        let tgt := (x 0).toNat % 2 ^ 32
        let ok : Prop := (x 0).toNat / 2 ^ 32 % 2 ^ 28 = 0 ∧ x 1 = 0 ∧ x 2 = 0 ∧ x 3 = 0 ∧ tgt % 32 = 0 ∧ tgt < 0x17F800 ∧
          w.nest = []
        (ok → ∃ t, exec (.jump e) s = .next t ∧ WentOn t e w w.nest tgt .lengthen fun w' => w'.pc = tgt) ∧
        (¬ ok → ∃ t, exec (.jump e) s = .next t ∧ Faulty s t e ch w (w.pc + 32) .lengthen)) ∧
      (kind = 6 →
        let out := (x 0).toNat / 2 ^ 58 % 4
        let q := (x 0).toNat / 2 ^ 54 % 16
        let ok : Prop := out ≠ 0 ∧ q ≤ 8 ∧ (x 0).toNat % 2 ^ 54 = 0 ∧ x 1 = 0 ∧ x 2 = 0 ∧ x 3 = 0
        (ok → ∃ t, exec (.expand e) s = .next t ∧ WentOn t e w w.nest (w.pc + 32) .keep fun w' => w'.expand = some (out, q)) ∧
        (¬ ok → ∃ t, exec (.expand e) s = .next t ∧ Faulty s t e ch w (w.pc + 32) .keep)) ∧
      (kind = 3 →
        let stop := w.pc + 32 * ((x 0).toNat / 2 ^ 52 % 2 ^ 8 + 1)
        let count := (x 0).toNat % 2 ^ 32
        let ok : Prop := (x 0).toNat / 2 ^ 52 % 2 ^ 8 ≠ 0 ∧ (x 0).toNat / 2 ^ 32 % 2 ^ 20 = 0 ∧ (x 3).toNat / 2 ^ 48 = 0 ∧
          w.nest.length < 4 ∧ (∀ f rest, w.nest = f :: rest → stop ≤ f.stop)
        (ok → count = 0 → ∃ t, exec (.loopEntry e) s = .next t ∧ WentOn t e w w.nest stop .lengthen fun _ => True) ∧
        (ok → count ≠ 0 → ∃ t, exec (.loopEntry e) s = .next t ∧
          WentOn t e w (⟨w.pc + 32, stop, 0, count, x 1, x 2, (x 3).toNat % 2 ^ 48⟩ :: w.nest) (w.pc + 32) .lengthen
            fun w' => w'.pc = w.pc + 32) ∧
        (¬ ok → ∃ t, exec (.loopEntry e) s = .next t ∧ Faulty s t e ch w stop .lengthen)) ∧
      (kind = 4 → s.condFault e ch w x = none → ¬ Served s w.ask (State.condLines x) →
        ∃ t, exec (.cond e) s = .next t ∧ Waits s t e w) ∧
      (kind = 4 → s.condFault e ch w x = none → Served s w.ask (State.condLines x) →
        let v := if State.condLines x = [] then s else view s w.ask
        let thresh := (x 2).toNat % 2 ^ 48
        let past := w.pc + 32 * (1 + (x 0).toNat % 2 ^ 8)
        (v.condTest e ch x = .holds → (x 0).getLsbD 57 = false →
          ∃ t, exec (.cond e) s = .next t ∧ t.mem = s.mem ∧ t.cores = s.cores ∧
            WentOn t e w w.nest (w.pc + 32) .lengthen fun _ => True) ∧
        (∀ (r : Fin 288) (b : Fin 256), v.condTest e ch x = .holds → (x 0).getLsbD 57 = true →
          (x 1).toNat / 2 ^ 50 % 2 ^ 9 = r.val → (x 1).toNat % 2 ^ 50 / 8 = b.val → (s.core r).ctx = some ch.ctxid →
          ∃ t, exec (.cond e) s = .next t ∧ WentOn t e w w.nest (w.pc + 32) .lengthen (fun _ => True) ∧
            ((t.core r).bars.val[b]).toNat = ((s.core r).bars.val[b]).toNat - thresh) ∧
        (v.condTest e ch x = .fails → (x 0).getLsbD 56 = false →
          ∃ t, exec (.cond e) s = .next t ∧ t.mem = s.mem ∧ t.cores = s.cores ∧
            WentOn t e w w.nest past .lengthen fun _ => True) ∧
        (v.condTest e ch x = .fails → (x 0).getLsbD 56 = true →
          ∃ t w', exec (.cond e) s = .next t ∧ t.mem = s.mem ∧ t.cores = s.cores ∧ (t.engines[e]).walk = some w' ∧
            w'.waiting = true ∧ w'.pc = w.pc))) ∧
    (∀ ch w, s.walkOf e = some (ch, w) → w.waiting = true → w.held = none → w.due ≤ s.now → s.chainRoom ch = true →
      let x := w.word
      let v := if State.condLines x = [] then s else view s w.ask
      (∀ f, s.condFault e ch w x = some f → ∃ t, exec (.condHolds e) s = .next t ∧ t.mem = s.mem ∧
        Faulty s t e ch w (w.pc + 32 * (1 + (x 0).toNat % 2 ^ 8)) .lengthen) ∧
      (s.condFault e ch w x = none → Served s w.ask (State.condLines x) →
        (v.condTest e ch x = .holds → (x 0).getLsbD 57 = false →
          ∃ t, exec (.condHolds e) s = .next t ∧ t.mem = s.mem ∧ t.cores = s.cores ∧
            WentOn t e w w.nest (w.pc + 32) .lengthen fun _ => True) ∧
        (v.condTest e ch x = .fails →
          ∃ t w', exec (.condHolds e) s = .next t ∧ t.mem = s.mem ∧ t.cores = s.cores ∧ (t.engines[e]).walk = some w' ∧
            w'.waiting = true ∧ w'.pc = w.pc ∧ w'.entry = w.entry)))

/-- R53, R59, R60, R257, R401: SIGNAL sends an addition, with AUTO the bytes counted since the last, or, once the additions of its
chain have been made, writes its stamp with the ERR and LOST of the chain and forgets both; a REMOTE stamp leaves for its
package by a link engine, or is held where the walk there fails, or is recorded where no route leads there.
The model's own choices in it: log entries 16, 34, 39, 66 and 96. -/
def Obligations.SignalsAddOrStampAndRemoteStampsLeave : Prop :=
  ∀ (s : State) (e : Fin 96), s.MemOk →
    (∀ ch w x, AtEntry s e ch w x 5 → (x 0).toNat % 2 ^ 58 = 0 → (x 2).toNat / 2 ^ 48 = 0 → x 3 = 0 →
      ((x 0).getLsbD 59 = false → s.chainFault e ch .signalBar false (x 1, true) 8 = none →
        ∃ t a, exec (.signal e) s = .next t ∧ t.adds = s.adds ++ [a] ∧ a.rank = (x 1).toNat / 2 ^ 50 % 2 ^ 9 ∧
          a.bar = (x 1).toNat % 2 ^ 50 / 8 ∧ a.ctxid = ch.ctxid ∧ a.after = [] ∧ a.chain = some ch.id ∧ s.now < a.due ∧
          a.count = (x 2).toNat % 2 ^ 48 + (if (x 0).getLsbD 58 then w.autoCount else 0) ∧ t.mem = s.mem ∧
          WentOn t e w w.nest (w.pc + 32) .stop fun w' => w'.autoCount = if (x 0).getLsbD 58 then 0 else w.autoCount) ∧
      ((x 0).getLsbD 59 = true → s.addsOut ch.id = true →
        ∃ t, exec (.signal e) s = .next t ∧ t.mem = s.mem ∧ t.adds = s.adds ∧
          (t.engines[e]).walk = some { w with due := s.now + 1 }) ∧
      (∀ pl off, (x 0).getLsbD 59 = true → (x 0).getLsbD 58 = false → s.addsOut ch.id = false → At s (x 1) pl off →
        (x 1).toNat % 8 = 0 → s.chainFault e ch .stamp false (x 1, true) 8 = none → Served s w.ask (t0Lines (x 1) 8) →
        ∃ t, exec (.signal e) s = .next t ∧
          Wrote s t (pl.key off) (leBytes 8 (((x 2).toNat % 2 ^ 48 + (loopInc w.nest).2.2) % 2 ^ 48 +
            (if w.lost then 2 ^ 62 else 0) + (if w.err then 2 ^ 63 else 0))) ∧
          WentOn t e w w.nest (w.pc + 32) .stop fun w' => w'.err = false ∧ w'.lost = false)) ∧
    (∀ x, s.remoteReady e = some x → x.chain = none → x.ptr.toNat / 2 ^ 59 = 7 →
      let pkg := x.ptr.toNat / 2 ^ 47 % 2 ^ 12
      (s.routeLive pkg = true → pkg ≠ s.mgmt.number.toNat → (∀ c, s.ctx? x.ctxid = some c → c.full = false) →
        ∃ t, exec (.remoteStamp e) s = .next t ∧ t.mem = s.mem ∧
          match s.remoteWalk x.ptr pkg (x.ptr.toNat % 2 ^ 47) 8 true with
          | none =>
            (∃ m, t.sent = s.sent ++ [m] ∧ m.dest = pkg ∧ m.src = s.mgmt.number.toNat ∧ m.kind = .write ∧
              s.routePort pkg = some m.port ∧ m.ctxid = x.ctxid ∧ m.off = x.ptr.toNat % 2 ^ 47 ∧
              m.bytes = leBytes 8 x.value.toNat) ∧
            (t.engines[e]).remote = (s.engines[e]).remote.erase x
          | some (reason, _, p) => t.sent = s.sent ∧ ∃ y h, y ∈ (t.engines[e]).remote ∧ y.id = x.id ∧ y.held = some h ∧
              h.reason = reason ∧ h.ptr = p ∧ h.write = true) ∧
      (s.routeLive pkg = false → (∀ c, s.ctx? x.ctxid = some c → c.full = false) →
        ∃ t, exec (.remoteStamp e) s = .next t ∧ t.mem = s.mem ∧ t.sent = s.sent ∧
          (t.engines[e]).remote = (s.engines[e]).remote.erase x ∧
          Recorded s t x.ctxid fun q => q.src = 1 ∧ q.reason = 6 ∧ q.engine = e.val))

/-- R54, R57, R250 to R252: a MOVE or WINDOW that begins has taken every source byte, and holds for every destination byte the
byte or fill that goes there, cut at 64-byte granules; a copying entry that has begun writes one granule whole and keeps the
rest; the last one ends the entry and counts its bytes. A segment move of no segment does nothing; one of one segment writes
it expanded, copied, or as 0xFF with a record where it is malformed (R63 to R66); a field that a copying entry may not have
makes it faulty.
The model's own choices in it: log entries 11, 33, 36, 66, 72, 75, 89 and 100. -/
def Obligations.CopyingEntriesReadThenWriteGranuleByGranule : Prop :=
  ∀ (s : State) (e : Fin 96), s.MemOk →
    (∀ ch w x, AtEntry s e ch w x 1 → (x 0).getLsbD 57 = false → (x 0).toNat / 2 ^ 15 % 2 ^ 41 = 0 →
      64 * ((x 0).toNat % 2 ^ 15) + 128 ≤ 0x17F800 →
      let v := view s w.ask
      let h := Shape.ofWords (2 ^ ((x 0).toNat / 2 ^ 58 % 4)) fun i => v.chainWord ch (64 * ((x 0).toNat % 2 ^ 15)) i
      let ps := (blockIdx h.ext[3] h.ext[2] h.ext[1] h.ext[0]).filterMap fun i =>
        h.piece (2 ^ ((x 0).toNat / 2 ^ 58 % 4)) ((x 0).getLsbD 56) (ptrAdd (x 1) (loopInc w.nest).1)
          (ptrAdd (x 2) (loopInc w.nest).2.1) (x 3) i
      s.hidden = [] → h.resv = false → PiecesOk s e ch ps →
      Served s w.ask (t0Lines (t0Ptr ch.rank (64 * ((x 0).toNat % 2 ^ 15))) 128 ++ State.sourceLines ps) →
      Begun s (.move e) e w ps (h.ext[0] * h.ext[1] * h.ext[2] * h.ext[3] * 2 ^ ((x 0).toNat / 2 ^ 58 % 4))) ∧
    (∀ ch w x, AtEntry s e ch w x 2 → (x 0).toNat / 2 ^ 15 % 2 ^ 27 = 0 → 64 * ((x 0).toNat % 2 ^ 15) + 64 ≤ 0x17F800 →
      let r := fun i => (view s w.ask).chainWord ch (64 * ((x 0).toNat % 2 ^ 15)) i
      let record := t0Lines (t0Ptr ch.rank (64 * ((x 0).toNat % 2 ^ 15))) 64
      let ps := (List.range (fieldOf (r 1) 16 16)).flatMap fun y => (List.range (fieldOf (r 1) 0 16)).map fun k =>
        windowPiece (x 0) r (ptrAdd (x 1) (loopInc w.nest).1) (ptrAdd (x 2) (loopInc w.nest).2.1) (x 3) y k
      let resv : Prop := fieldOf (r 3) 0 32 ≠ 0 ∨ fieldOf (r 4) 50 14 ≠ 0 ∨ fieldOf (r 5) 50 14 ≠ 0 ∨ fieldOf (r 6) 50 14 ≠ 0 ∨ r 7 ≠ 0
      let faulty : Prop := resv ∨ fieldOf (r 3) 32 16 = 0 ∨ fieldOf (r 3) 48 16 = 0
      (s.hidden = [] → ¬ faulty → fieldOf (r 1) 32 32 ≠ 0 → PiecesOk s e ch ps →
        Served s w.ask (record ++ State.sourceLines ps) →
        Begun s (.window e) e w ps
          (fieldOf (r 1) 16 16 * fieldOf (r 1) 0 16 * fieldOf (r 1) 32 32 * 2 ^ fieldOf (x 0) 58 2)) ∧
      (¬ Served s w.ask record → ∃ t, exec (.window e) s = .next t ∧ Waits s t e w) ∧
      (faulty → Served s w.ask record →
        ∃ t, exec (.window e) s = .next t ∧ t.mem = s.mem ∧ Faulty s t e ch w (w.pc + 32) .stop)) ∧
    (∀ ch w x pl off out q h (bytes : List Byte), AtEntry s e ch w x 1 → (x 0).getLsbD 57 = true →
      (x 0).toNat / 2 ^ 58 % 4 = 0 → (x 0).getLsbD 56 = false → (x 0).toNat % 2 ^ 56 = 0 → x 3 = 1 → w.expand = some (out, q) →
      let sa := ptrAdd (x 1) (loopInc w.nest).1
      let da := ptrAdd (x 2) (loopInc w.nest).2.1
      let level := engLevel e
      let planes := if level = some h.xpt then q else 0
      let v := view s w.ask
      At s sa pl off → sa.toNat % 16 = 0 → h = SegHead.ofBytes (memReadN v.mem (pl.key off) 16) →
      Served s w.ask (t0Lines sa (max 16 h.span)) →
      let good : Prop := ∃ f, SegGood h f (level.getD 0) planes (memReadN v.mem (pl.key off) h.span)
      s.chainFault e ch .copySrc true (sa, true) 16 = none → s.chainFault e ch .copySrc true (sa, true) h.span = none →
      SegOutput h level out q (memReadN v.mem (pl.key off) h.span) good bytes → bytes ≠ [] →
      s.piecesFault e ch [{ src := none, dst := some (ptrMove da 0), fill := [], n := bytes.length }] = none →
      ∃ t m, exec (.segmentMove e) s = .next t ∧ Copying s t e w m bytes.length (fun w' => good ∨ w'.err = true) ∧
        (∀ j b, bytes[j]? = some b → Holds m da j b) ∧
        (¬ good → Recorded s t ch.ctxid fun q => q.src = 1 ∧ q.reason = 7 ∧ q.engine = e.val ∧ q.rank = ch.rank.val ∧
          q.entry = w.entries ∧ q.addr = sa) ∧
        (good → t.contexts = s.contexts)) ∧
    (∀ i ch w m p, s.walkOf e = some (ch, w) → w.copy = some m → m.owed = some p → s.chainRoom ch = true →
      (s.entryKind e = some 1 ∧ s.entryXp e = false ∧ i = .move e ∨ s.entryKind e = some 2 ∧ i = .window e ∨
        s.entryKind e = some 1 ∧ s.entryXp e = true ∧ i = .segmentMove e) →
      ∃ t w', exec i s = .next t ∧ t.mem = s.mem ∧ (t.engines[e]).walk = some w' ∧ w'.copy = some { m with owed := none } ∧
        w'.lost = true ∧ Recorded s t ch.ctxid fun q =>
          q.src = 1 ∧ q.reason = 8 ∧ q.held = false ∧ q.lost = true ∧ q.addr = p ∧ q.remain = m.left) ∧
    (∀ i ch w m, s.walkOf e = some (ch, w) → w.copy = some m → m.owed = none → m.guards = [] → m.todo ≠ [] → m.todo.Nodup →
      (s.entryKind e = some 1 ∧ s.entryXp e = false ∧ i = .move e ∨ s.entryKind e = some 2 ∧ i = .window e ∨
        s.entryKind e = some 1 ∧ s.entryXp e = true ∧ i = .segmentMove e) →
      (∀ g ∈ m.todo, ∃ pl off, At s g.dst pl off) → (∀ g ∈ m.todo, Served s w.ask (t0Lines g.dst 1)) →
      (∀ g ∈ m.todo, ∀ f ∈ m.todo, g.dst.toNat / 64 = f.dst.toNat / 64 → g = f) →
      ∃ t, exec i s = .next t ∧ ∃ d ∈ m.todo, (∀ pl off, targetOf d.dst = .place pl off → Wrote s t (pl.key off) d.bytes) ∧
        (m.todo.filter (fun g => g.dst.toNat / 64 != d.dst.toNat / 64) = [] →
          WentOn t e w w.nest (w.pc + 32) .stop fun w' => w'.copy = none ∧ w'.autoCount = w.autoCount + m.left) ∧
        (m.todo.filter (fun g => g.dst.toNat / 64 != d.dst.toNat / 64) ≠ [] →
          ∃ w' m', (t.engines[e]).walk = some w' ∧ w'.copy = some m' ∧ w'.pc = w.pc ∧
            m'.todo = m.todo.filter (fun g => g.dst.toNat / 64 != d.dst.toNat / 64) ∧
            w'.autoCount = w.autoCount + d.bytes.length ∧ m'.left = m.left - d.bytes.length)) ∧
    (∀ ch w x, AtEntry s e ch w x 1 → (x 0).getLsbD 57 = true →
      let ok : Prop := (x 0).toNat / 2 ^ 58 % 4 = 0 ∧ (x 0).getLsbD 56 = false ∧ (x 0).toNat % 2 ^ 56 = 0 ∧ (x 3).toNat < 2 ^ 32
      (ok → x 3 = 0 → ∃ t, exec (.segmentMove e) s = .next t ∧ t.mem = s.mem ∧
        WentOn t e w w.nest (w.pc + 32) .stop fun w' => w'.autoCount = w.autoCount) ∧
      (¬ ok ∨ x 3 ≠ 0 ∧ w.expand = none →
        ∃ t, exec (.segmentMove e) s = .next t ∧ t.mem = s.mem ∧ Faulty s t e ch w (w.pc + 32) .stop)) ∧
    (∀ ch w x, AtEntry s e ch w x 2 → (x 0).toNat / 2 ^ 15 % 2 ^ 27 ≠ 0 →
      Served s w.ask (t0Lines (t0Ptr ch.rank (64 * ((x 0).toNat % 2 ^ 15))) 64) →
      ∃ t, exec (.window e) s = .next t ∧ t.mem = s.mem ∧ Faulty s t e ch w (w.pc + 32) .stop)

/-! ## The host, contexts, jobs, the cairn, the fleet and power -/

namespace Sys2Proof.Claims

/-- A vector raised once more, and no other. -/
def Raised (s t : State) (v : Nat) : Prop :=
  ∀ n : Fin 72, t.raised[n] = s.raised[n] + if n.val = v then 1 else 0

/-- The command has acted and completes with a result. -/
def Ended (t : State) (r : Byte) : Prop := t.mailbox.pendingResult = some r

/-- The context an executing command names in ARG0[15:0]: its argument fits, it exists, and if it is secure the command is
authorised (R328, R329). -/
def NamedContext (s : State) (x : Context) : Prop :=
  (s.arg 0).toNat < 2 ^ 16 ∧ s.ctx? ((s.arg 0).setWidth 16) = some x ∧ s.authorised x.secure = true

/-- A command for a context is turned away for want of authorisation: RESULT 7 and no effect. -/
def Unauthorised (s : State) (i : Instr) : Prop :=
  ∃ t, exec i s = .next t ∧ Ended t 7 ∧ t.contexts = s.contexts ∧ t.cores = s.cores ∧ t.mem = s.mem ∧ t.ring = s.ring

/-- Word i of the frame at an LPDDR address, and word i of the descriptor it holds (R359, R364). -/
def frameWord (s : State) (at_ i : Nat) : W64 := s.rawWord .lpddr (at_ + 8 * i)

/-- The frame whose ACTION decides for a frame that RESOLVE disposes of: its own, or that of the lowest rank of its gang
(R364). -/
def Leads (s : State) (fs : List (Nat × Nat × Nat)) (f lead : Nat × Nat × Nat) : Prop :=
  let gang (g : Nat × Nat × Nat) : Prop := (frameWord s g.2.2 16).getLsbD 8 = true
  let kin (g : Nat × Nat × Nat) : Prop := gang g ∧ descGangid (fun i => frameWord s g.2.2 (16 + i)) =
    descGangid fun i => frameWord s f.2.2 (16 + i)
  (¬ gang f ∧ lead = f) ∨ (gang f ∧ lead ∈ fs ∧ kin lead ∧ ∀ g ∈ fs, kin g → g = lead ∨ lead.1 < g.1)

/-- CREATE has taken a record: the context exists, and the barrier files of its cores are zero. -/
def created (s : State) (x : Context) : State :=
  { s with
    contexts := s.contexts ++ [x]
    mem := x.cores.foldl (fun m r =>
      memClear m (Place.lpddr.key (x.block r + 0x180000)) (Place.lpddr.key (x.block r + 0x180800))) s.mem }

/-- The newest version is published with one degradation (R373 to R376, R380). -/
structure Published (s t : State) (cls res index reason : Nat) : Prop where
  version : t.cairn.version = s.cairn.version + 1 ∧ t.cairn.seq = s.cairn.seq + 2 ∧ t.cairn.cls = cls
  history : ∃ h, t.cairn.history = h :: s.cairn.history ∧ h.version = s.cairn.version + 1 ∧ h.cls = cls ∧ h.res = res ∧
    h.index = index ∧ h.reason = reason ∧ h.tick = s.tick.setWidth 48
  vector : t.raised[(65 : Fin 72)] = s.raised[(65 : Fin 72)] + 1

/-- A request of the management port with a good header, that repeats nothing. -/
def NewRequest (s : State) (d : Datagram) (op : Nat) : Prop :=
  d.op.toNat = op ∧ s.mgmt.lastSource ≠ some (d.source, d.seq) ∧ State.requestOk d = true

/-- The management port replies to a request (R400), and nothing but the port changes. -/
def Replied (s t : State) (d : Datagram) (status : Nat) (body : List Byte) : Prop :=
  t.mgmt.sent = s.mgmt.sent ++ [(d.source, leBytes 2 0x9140 ++ [d.op] ++ leBytes 1 status ++ leBytes 4 d.seq.toNat ++
    leBytes 2 body.length ++ List.replicate 6 0 ++ body)] ∧ t.mem = s.mem ∧ t.cores = s.cores

/-- Flits of 240 bytes of payload that some bytes take, one at least (R398). -/
def flits (bs : List Byte) : Nat := max 1 ((bs.length + 239) / 240)

/-- What goes out for a flit that has come in: to a package, from one, by a port, of a kind and with its bytes. -/
def flitOf (x : Flit) (dest src : Nat) (port : Fin 16) (kind : FlitKind) (bytes : List Byte) : SentFlit :=
  { dest := dest, src := src, port := port, kind := kind, ctxid := x.ctxid, world := x.world, off := x.off, bytes := bytes }

/-- A flit has left by a port, whose replay buffer keeps it. -/
def Left (s t : State) (q : Fin 16) (f : SentFlit) : Prop :=
  t.sent = s.sent ++ [f] ∧ t.links[q].unacked = s.links[q].unacked ++ [f]

end Sys2Proof.Claims

/-- R325 to R327, R334, R340: the host's writes: CMD starts a command with the arguments it finds, or is discarded while one
is busy; ARG0 to ARG3 hold what is written, other registers nothing; a doorbell sets its queue's tail or is reported in
BELLERR, which a read clears and whose rise from zero raises vector 67; before READY nothing is written.
The model's own choices in it: log entry 6. -/
def Obligations.HostWritesReachRegistersAndDoorbells : Prop :=
  ∀ (s : State) (value : W64) (offset : Nat),
    (s.base.ready = false → exec (.cmd value) s = .next s ∧ exec (.registerWrite offset value) s = .next s ∧
      exec (.doorbell offset value) s = .next s) ∧
    (s.base.ready = true →
      (s.mailbox.busy = false →
        ∃ t, exec (.cmd value) s = .next t ∧ t.mailbox.busy = true ∧ t.mailbox.cur = value ∧
          t.mailbox.cmd.toNat = value.toNat / 2 ^ 48 * 2 ^ 48 + value.toNat % 256 ∧ t.mailbox.curArgs = s.mailbox.args ∧ t.mailbox.pendingResult = none ∧ s.now ≤ t.mailbox.due) ∧
      (s.mailbox.busy = true →
        ∃ t, exec (.cmd value) s = .next t ∧ t.mailbox = { s.mailbox with bellerr := s.mailbox.bellerr ||| 8 } ∧
          (s.mailbox.bellerr = 0 → Raised s t 67) ∧ (s.mailbox.bellerr ≠ 0 → t.raised = s.raised)) ∧
      (∀ i : Fin 4, offset = 0x18 + 8 * i.val →
        exec (.registerWrite offset value) s =
          .next { s with mailbox := { s.mailbox with args := s.mailbox.args.set i value } }) ∧
      (offset % 8 = 0 → offset ≠ 0x18 → offset ≠ 0x20 → offset ≠ 0x28 → offset ≠ 0x30 →
        exec (.registerWrite offset value) s = .next s) ∧
      (offset % 8 ≠ 0 → ∃ t, exec (.registerWrite offset value) s = .next t ∧
        t.mailbox = { s.mailbox with bellerr := s.mailbox.bellerr ||| 16 } ∧
        (s.mailbox.bellerr = 0 → Raised s t 67) ∧ (s.mailbox.bellerr ≠ 0 → t.raised = s.raised)) ∧
      (offset % 8 ≠ 0 → ∃ t, exec (.doorbell offset value) s = .next t ∧ t.contexts = s.contexts ∧
        t.mailbox.bellerr.toNat = (s.mailbox.bellerr.toNat % 2 ^ 32 ||| 16) + offset / 8 % 2 ^ 32 * 2 ^ 32) ∧
      (∀ x q, offset % 8 = 0 → s.ctx? (BitVec.ofNat 16 (offset / 32)) = some x → q.val = offset / 8 % 4 → x.qlog q ≠ 0 →
        (value.setWidth 16 - (x.queues[q]).head).toNat ≤ 2 ^ x.qlog q →
        ∃ t y, exec (.doorbell offset value) s = .next t ∧ t.mailbox = s.mailbox ∧
          t.ctx? (BitVec.ofNat 16 (offset / 32)) = some y ∧
          y.queues = x.queues.set q { x.queues[q] with tail := value.setWidth 16 }) ∧
      (offset % 8 = 0 → s.ctx? (BitVec.ofNat 16 (offset / 32)) = none →
        ∃ t, exec (.doorbell offset value) s = .next t ∧ t.contexts = s.contexts ∧
          t.mailbox.bellerr.toNat = (s.mailbox.bellerr.toNat % 2 ^ 32 ||| 1) + offset / 8 % 2 ^ 32 * 2 ^ 32)) ∧
    exec .bellerrRead s = .next { s with mailbox := { s.mailbox with bellerr := 0 } } ∧
    (∀ bar w, ∃ t, exec (.misalignedBarAccess ⟨bar, offset, w⟩) s = .next t ∧ t.mem = s.mem ∧ t.cores = s.cores ∧
      (s.base.ready = false → t = s) ∧
      (s.base.ready = true → (bar ≠ 2 ∨ w = false) →
        t.mailbox = { s.mailbox with bellerr := s.mailbox.bellerr ||| 16 }) ∧
      (s.base.ready = true → bar = 2 → w = true → t.contexts = s.contexts ∧
        t.mailbox.bellerr.toNat = (s.mailbox.bellerr.toNat % 2 ^ 32 ||| 16) + offset / 8 % 2 ^ 32 * 2 ^ 32)) ∧
    (s.base.ready = true → ∀ bar off size, size ≠ 8 ∨ off % 8 ≠ 0 → s.barRead bar off size = 0)

/-- R327 to R333, R341 to R345, R352, R364, R368, R370, R387: what the mailbox commands do, for a context that is not secure or
with a command that is authorised, and the results that turn one away; RESOLVE disposes of each stopped task by the ACTION of
its frame; a command completes with its result and tag and raises vector 66.
The model's own choices in it: log entries 18, 40 to 43, 47, 71, 90, 94, 104 and 109. -/
def Obligations.MailboxCommandsHaveTheirEffect : Prop :=
  ∀ (s : State),
    (∀ r, s.mailbox.busy = true → s.mailbox.pendingResult = some r →
      ∃ t, exec .commandComplete s = .next t ∧ t.mailbox.busy = false ∧ t.mailbox.result = r ∧
        t.mailbox.tag = s.mailbox.cur.extractLsb' 48 16 ∧ Raised s t 66) ∧
    (∀ n, s.curCode = some n → (n = 0 ∨ 14 < n) → ∃ t, exec .unknownCommand s = .next t ∧ Ended t 1) ∧
    (s.curCode = some 1 → (s.arg 0).toNat % 64 = 0 →
      let w : Vector W64 16 := Vector.ofFn fun i => s.hostWord ((s.arg 0).toNat + 8 * i.val)
      let x := Context.init w s.cairn.version
      let admitted : Prop := x.secure = false ∨ s.authBlock (s.arg 1).toNat (s.hostBytes (s.arg 0).toNat 128) = true
      (recordOk w = true → admitted → s.ctx? x.id = none →
        ∃ t, exec .create s = .next t ∧ Ended t 0 ∧ t.contexts = s.contexts ++ [x] ∧
          (∀ r, (t.core r).ctx = (s.core r).ctx ∧ (t.core r).tasks.run = (s.core r).tasks.run ∧
            (t.core r).regs = (s.core r).regs) ∧
          ∀ ps, (created s x).translateSpan none x (x.fbuf.toNat % 2 ^ 50) 64 true = .ok ps →
            t.mem = ((created s x).writePieces ps (((List.range 8).flatMap fun i =>
              leBytes 8 (if i = 2 then 1 else 0)).map fun b => (b, true))).mem) ∧
      (recordOk w = true → ¬ admitted → Unauthorised s .create) ∧
      (recordOk w = true → admitted → s.ctx? x.id ≠ none →
        ∃ t, exec .create s = .next t ∧ Ended t 3 ∧ t.contexts = s.contexts ∧ t.mem = s.mem) ∧
      (recordOk w = false → ∃ t, exec .create s = .next t ∧ Ended t 1 ∧ t.contexts = s.contexts ∧ t.mem = s.mem)) ∧
    (∀ x, NamedContext s x → x.resident = none → s.evictionOf x.id = none →
      (s.curCode = some 2 → ∃ t, exec .destroy s = .next t ∧ Ended t 0 ∧ t.ctx? x.id = none ∧
        (∀ r, (t.core r).ctx = (s.core r).ctx ∧ (t.core r).tasks = (s.core r).tasks ∧ (t.core r).regs = (s.core r).regs ∧
          (t.core r).sp = (s.core r).sp ∧ (t.core r).bars = (s.core r).bars ∧ (t.core r).view = (s.core r).view ∧
          (∀ g ∈ (t.core r).mem.guards, g.ctxid ≠ x.id) ∧ ∀ k ∈ (t.core r).mem.captures, k.ctxid ≠ x.id) ∧
        ∀ a b, (s.ring.slot a b).st = .boarded → (s.ring.slot a b).ctxid = x.id → (t.ring.slot a b).freeAtCol = true) ∧
      (s.curCode = some 4 → ∃ t, exec .evict s = .next t ∧ Ended t 0 ∧ t.contexts = s.contexts)) ∧
    (∀ x, NamedContext s x → x.resident.isSome = true → s.evictionOf x.id = none → s.curCode = some 4 →
      ∃ t, exec .evict s = .next t ∧ t.mem = s.mem ∧ (∃ e, t.evictionOf x.id = some e ∧ e.destroy = false) ∧
        ∀ r, (s.core r).ctx = some x.id → (t.core r).pending.evict = true) ∧
    (∀ x e, NamedContext s x → s.evictionOf x.id = some e → e.commanded = true → e.destroy = false →
      s.evictReady x.id = true → s.curCode = some 4 →
      ∃ t y, exec .evict s = .next t ∧ Ended t 0 ∧ t.ctx? x.id = some y ∧ y.resident = none ∧
        (∀ r, (s.core r).ctx = some x.id → (t.core r).ctx = none) ∧
        (∀ r, (s.core r).ctx ≠ some x.id → t.core r = s.core r)) ∧
    (∀ x, NamedContext s x → s.curCode = some 3 → (s.arg 1).toNat < 64 → x.resident = none →
      (∀ c ∈ s.contexts, c.resident ≠ none → c.resident ≠ some ((s.arg 1).setWidth 6) ∧ ∀ r ∈ x.cores, c.hasCore r = false) →
      (∀ r ∈ x.cores, s.cairn.live[r]? = some true) → s.worldMatches x = true → s.base.hot = false →
      (s.base.powered = false → ∃ t, exec .reside s = .next t ∧ Ended t 8 ∧ t.contexts = s.contexts) ∧
      (∀ v, s.base.powered = true → x.stale = false → s.saved = some v → v.fresh = true → v.ringLost = false →
        x.preempted = true → (∀ c ∈ s.contexts, c.id ≠ x.id → c.resident = none) → (∀ e : Fin 96, (s.engines[e]).walk = none) →
        ∃ t v', exec .reside s = .next t ∧ Ended t 0 ∧ t.ring.slots = (s.savedRing v).ring ∧
          t.ring.phase = (s.savedRing v).phase ∧ t.ring.stopped = false ∧ t.saved = some v' ∧ v'.fresh = false) ∧
      (s.base.powered = true → s.saved = none → x.stale = false →
      ∃ t y, exec .reside s = .next t ∧ Ended t 0 ∧ t.ctx? x.id = some y ∧ y.resident = some ((s.arg 1).setWidth 6) ∧
        (∀ r : Fin 288, r.val ∈ x.cores → (t.core r).ctx = some x.id ∧ (t.core r).attr = x.attr) ∧
        (∀ r : Fin 288, r.val ∉ x.cores → t.core r = s.core r) ∧
        (s.MemOk → ∀ r : Fin 288, r.val ∈ x.cores → ∀ off, off < 0x180000 →
          memRead t.mem ((Place.t0 r).key off) = memRead s.mem (Place.lpddr.key (x.block r + off))))) ∧
    (∀ x, NamedContext s x → s.curCode = some 5 → 3 = (s.arg 1).toNat → recordOk (x.record.set 3 (s.arg 2)) = true →
      ∃ t y, exec .setattr s = .next t ∧ Ended t 0 ∧ t.ctx? x.id = some y ∧
        y = { x with record := x.record.set 3 (s.arg 2) }) ∧
    (∀ pl off k, s.curCode = some 6 → s.regionOf (s.arg 0) = some (pl, off) → s.prot.secureAt pl off = false →
      pl.region off = some k →
      ∃ t, exec .guard s = .next t ∧ Ended t 0 ∧ t.mem = s.mem ∧
        ∀ i, i < 65536 → t.prot.guarded pl (off + i) =
          (leValue (s.hostBytes (s.arg 1).toNat 32)).testBit (i / 256)) ∧
    (∀ (a : Fin 8) (b : Fin 1024), s.curCode = some 7 → (s.arg 0).toNat = a.val → (s.arg 1).toNat = b.val →
      ((s.ring.slot a b).st = .broken →
        ∃ t, exec .freeslot s = .next t ∧ Ended t 0 ∧ OtherSlots s t a b ∧
          t.ring.slot a b = { s.ring.slot a b with freeAtCol := true }) ∧
      ((s.ring.slot a b).st ≠ .broken → ∃ t, exec .freeslot s = .next t ∧ Ended t 1 ∧ t.ring = s.ring)) ∧
    (∀ x, NamedContext s x → s.curCode = some 8 →
      ((s.arg 1).toNat = x.gen.toNat →
        ∃ t y, exec .resolve s = .next t ∧ Ended t 0 ∧ t.ctx? x.id = some y ∧ y.waiting = [] ∧
          y.gen = (if x.gen = 0xFFFFFFFF then 1 else x.gen + 1) ∧
          (∀ r, ∀ a ∈ (t.core r).mem.port, a.ctxid = x.id → a.held = none) ∧
          ∀ (r : Fin 288) (n : Fin 32) at_ lead, x.resident.isSome = true → (s.core r).ctx = some x.id →
            (r.val, n.val, at_) ∈ s.framesOf x → Leads s (s.framesOf x) (r.val, n.val, at_) lead →
            let action := (frameWord s lead.2.2 0).toNat / 2 ^ 6 % 4
            let again : Prop := action = 0 ∧ (frameWord s at_ 0).getLsbD 5 = true
            let anew : Prop := action = 1 ∧ (frameWord s at_ 16).getLsbD 10 = true
            let adopted : Prop := (frameWord s at_ 16).extractLsb' 16 32 = (s.core r).view.version
            (again → adopted → (t.slotOf r n).st = .waiting ∧ (t.slotOf r n).mode = .resume ∧
              (t.slotOf r n).reruns = (s.slotOf r n).reruns) ∧
            (anew → adopted → (t.slotOf r n).st = .waiting ∧ (t.slotOf r n).mode = .restart ∧ (t.slotOf r n).reruns = 0) ∧
            (again ∨ anew → ¬ adopted → (t.slotOf r n).st = .suspended) ∧
            (¬ again → ¬ anew → t.slotOf r n = TaskSlot.init)) ∧
      ((s.arg 1).toNat ≠ x.gen.toNat → ∃ t, exec .resolve s = .next t ∧ Ended t 1 ∧ t.contexts = s.contexts)) ∧
    (∀ x, NamedContext s x → s.curCode = some 9 → x.resident = none → (s.arg 1).toNat ≤ s.cairn.version.toNat →
      ∃ t y, exec .ackmap s = .next t ∧ Ended t 0 ∧ t.ctx? x.id = some y ∧
        y.ackv.toNat = max x.ackv.toNat (s.arg 1).toNat) ∧
    (s.curCode = some 10 →
      let pa := (s.arg 0).toNat
      let n := (s.hostWord pa).toNat
      let table := s.hostBytes pa (8 + 16 * n)
      let es := (List.range n).map fun i => WorldEntry.ofBytes ((table.drop (8 + 16 * i)).take 16)
      (∀ e ∈ es, s.worldEntryOk e = true) → (∀ e ∈ es, s.worldBusy e = false) →
      ∃ t, exec .worldset s = .next t ∧ t.mem = s.mem ∧
        (if s.authorised true = true ∧
            ∃ key, s.base.ownerKey = some key ∧ Config.lmsVerify key table (s.hostBytes (pa + (8 + 16 * n)) 2508) = true
         then Ended t 0 ∧ t.base.worldTableHash = State.digest table ∧
           ∀ e, es = [e] → e.res = 0 → ∀ r : Fin 288, (t.core r).world =
             if e.first.toNat ≤ r.val ∧ r.val < e.first.toNat + e.count then e.secure else (s.core r).world
         else Ended t 7 ∧ t.cores = s.cores ∧ t.prot = s.prot)) ∧
    (s.curCode = some 11 →
      (s.arg 2 = 1 → s.MemOk →
        ∃ t, exec .attest s = .next t ∧ Ended t 0 ∧ t.base = s.base ∧
          Wrote s t (Place.host.key (s.arg 1).toNat) (State.fixed 56 Config.deviceKey ++ Config.deviceCert)) ∧
      (s.arg 2 = 0 → s.base.nextLeaf < 2 ^ 20 →
        ∃ t, exec .attest s = .next t ∧ Ended t 0 ∧ t.base = { s.base with nextLeaf := s.base.nextLeaf + 1 }) ∧
      (s.arg 2 = 0 → 2 ^ 20 ≤ s.base.nextLeaf → ∃ t, exec .attest s = .next t ∧ Ended t 9 ∧ t.mem = s.mem)) ∧
    (s.curCode = some 12 →
      (s.preemptAt = none →
        ∃ t, exec .preempt s = .next t ∧ t.preemptAt = some (s.tick + 4096) ∧ t.cores = s.cores ∧ t.mem = s.mem) ∧
      (∀ p, s.preemptAt = some p → p.toNat ≤ s.tick.toNat → s.freezing = false →
        ∃ t v, exec .preempt s = .next t ∧ t.ring.stopped = true ∧ t.freezing = true ∧ t.saved = some v ∧
          v.ring = s.ring.slots ∧ v.phase = s.ring.phase ∧ (∀ e : Fin 96, (t.engines[e]).walk = none) ∧
          ∀ x ∈ s.contexts, x.resident.isSome = true → ∃ e, t.evictionOf x.id = some e) ∧
      (∀ p v, s.preemptAt = some p → p.toNat ≤ s.tick.toNat → s.freezing = true → s.evicting = [] → s.saved = some v →
        ∃ t v', exec .preempt s = .next t ∧ Ended t 0 ∧ t.preemptAt = none ∧ t.freezing = false ∧ t.saved = some v' ∧
          v'.ring = v.ring ∧ v'.engines = v.engines ∧
          ∀ a, s.MemOk → s.cairn.saveArea = some a → a + 0x300000000 ≤ 2 ^ 40 →
            (∀ e off, e < 16 → off < wholeSize e →
              memRead t.mem (Place.lpddr.key (State.imageOf a e + off)) = memRead s.mem ((Place.layer e).key off)) ∧
            (a ≠ 0 → memReadN t.mem (Place.lpddr.key (ringImageAt a)) v'.ringImage.length = v'.ringImage ∧
              memReadN t.mem (Place.lpddr.key (engineImageAt a)) v'.engineImage.length = v'.engineImage ∧
              ∀ other, (t.savedRing { v' with ring := other }).ring = v'.ring))) ∧
    (∀ (r : Fin 288) x, s.curCode = some 13 → (s.arg 0).toNat = r.val → (s.core r).ctx = some x.id → s.ctx? x.id = some x →
      s.authorised x.secure = true →
      (x.debugBit = true → ∃ t, exec .dbgreq s = .next t ∧ Ended t 0 ∧ (t.core r).pending.debug = true ∧
        (∀ n, n ≠ r → t.core n = s.core n)) ∧
      (x.debugBit = false → ∃ t, exec .dbgreq s = .next t ∧ Ended t 6 ∧ t.cores = s.cores)) ∧
    (∀ x, (s.arg 0).toNat < 2 ^ 16 → s.ctx? ((s.arg 0).setWidth 16) = some x → s.authorised x.secure = false →
      ((∀ e, s.evictionOf x.id = some e → e.commanded = false) →
        (s.curCode = some 2 → Unauthorised s .destroy) ∧ (s.curCode = some 4 → Unauthorised s .evict)) ∧
      (s.curCode = some 3 → (s.arg 1).toNat < 64 → Unauthorised s .reside) ∧
      (s.curCode = some 5 → (s.arg 1).toNat = 3 → recordOk (x.record.set 3 (s.arg 2)) = true → Unauthorised s .setattr) ∧
      (s.curCode = some 8 → (s.arg 1).toNat = x.gen.toNat → Unauthorised s .resolve) ∧
      (s.curCode = some 9 → x.resident = none → (s.arg 1).toNat ≤ s.cairn.version.toNat → Unauthorised s .ackmap)) ∧
    (s.curCode = some 14 → s.base.ownerKey = none →
      let b := s.hostBytes (s.arg 0).toNat 2612
      (wordAt b 0 = 1 → (b.drop 16).take 32 = List.replicate 32 0 →
        ∃ t, exec .ownerkey s = .next t ∧ t.mem = s.mem ∧ t.cores = s.cores ∧
          (if Config.lmsVerify Config.rootKey (b.take 104) (b.drop 104) = true ∧ Config.rollback ≤ (wordAt b 8).toNat
           then Ended t 0 ∧ t.base.ownerKey = some ((b.drop 48).take 56) else Ended t 7 ∧ t.base = s.base)) ∧
      (wordAt b 0 ≠ 1 → ∃ t, exec .ownerkey s = .next t ∧ Ended t 1 ∧ t.base = s.base))

namespace Sys2Proof.Claims

/-- The four words of a job's completion record (R339). -/
def completionOf (j : Job) (now : W64) : List Nat :=
  let first (status : Nat) : Nat := 2 ^ 63 + status * 2 ^ 48 + j.chunks % 2 ^ 32
  let tick := (j.endTick.getD now).toNat
  match j.refused, j.missed, j.failed with
  | some st, _, _ => [2 ^ 63 + st * 2 ^ 48, j.card[5].toNat, 0, 0]
  | none, some m, _ => [first 3, j.card[5].toNat, m % 2 ^ 32 * 2 ^ 32, tick]
  | none, none, some f => [first 2, j.card[5].toNat, f.1 % 2 ^ 32 * 2 ^ 32 + f.2.toNat, tick]
  | none, none, none => [first 1, j.card[5].toNat, 0, tick]

/-- The eight words of a fault record (R351). -/
def recordOf (f : FaultRec) (id : BitVec 16) (now : W64) : List Nat :=
  let bit (p : Bool) : Nat := if p then 1 else 0
  [f.cause.toNat * 2 ^ 56 + f.src * 2 ^ 52 + f.reason * 2 ^ 48 + f.engine * 2 ^ 40 + bit f.held * 2 ^ 39 + bit f.lost * 2 ^ 38 +
      f.akind * 2 ^ 35 + f.rank * 2 ^ 23 + f.slot * 2 ^ 18,
    f.gen.toNat * 2 ^ 32 + f.entry % 2 ^ 32, f.addr.toNat, f.loops[1] % 2 ^ 32 * 2 ^ 32 + f.loops[0] % 2 ^ 32,
    f.loops[3] % 2 ^ 32 * 2 ^ 32 + f.loops[2] % 2 ^ 32, f.remain, f.detail.toNat, id.toNat * 2 ^ 48 + now.toNat % 2 ^ 48]

end Sys2Proof.Claims

/-- R26, R28, R29, R30, R335 to R339, R350, R351, R389: the distributor and the base controller: a card is read and its head
advances, or its queue is held; a chunk of the size R28 gives goes to its core with its first record and count; a gang's
cores are reserved and its members sent with one start tick; a job that is over writes its completion record, leaves the
distributor and raises its vector, or, where its COMPL cannot be written, gets a fault record instead; a fault record is written whole at its place, PROD and GEN beside it, PROD advances and
vector 64 is raised; a context past its deadline is suspended with MAPSTALE.
The model's own choices in it: log entries 40, 45, 46, 51, 73, 74, 91 and 103. -/
def Obligations.JobsRecordsAndDeadlinesProceed : Prop :=
  ∀ (s : State),
    (∀ id x q, s.ctx? id = some x → s.cardReady x q = true → (x.qbase q).toNat / 2 ^ 59 = 1 →
      let k := x.queues[q]
      let va := ((x.qbase q).toNat % 2 ^ 50 + 64 * (k.head.toNat % 2 ^ x.qlog q)) % 2 ^ 50
      (∀ rs tab at_, s.translateSpan none x va 64 false = .error (rs, tab, at_) →
        ∃ t y, exec (.cardRead id q) s = .next t ∧ t.jobs = s.jobs ∧ t.ctx? id = some y ∧ (y.queues[q]).held = true ∧
          (y.queues[q]).head = k.head ∧
          Recorded s t id fun f => f.cause = 0x0A ∧ f.src = 2 ∧ f.reason = rs) ∧
      (∀ ps, s.translateSpan none x va 64 false = .ok ps →
        ∃ t y j, exec (.cardRead id q) s = .next t ∧ t.jobs = s.jobs ++ [j] ∧ t.ctx? id = some y ∧
          (y.queues[q]).head = k.head + 1 ∧ j.ctxid = id ∧ j.queue = q ∧ j.index = k.head ∧ j.dealt = 0 ∧
          (∀ i : Fin 8, j.card[i] = wordAt (s.readPieces ps) (8 * i.val)) ∧
          (y.queues[q]).dealing = if j.refused.isSome then none else some j.id)) ∧
    (∀ j (r : Fin 288) n, s.job? j.id = some j → j.gang = false → j.refused = none → j.redeal = [] → j.dealt < j.n →
      s.chunkReady j = true → s.chunkCore j = some r.val → State.freeTaskSlot (s.core r) = some n →
      let c := (s.jobCores j).length
      let count := min (j.n - j.dealt) (max j.minchunk ((j.n - j.dealt + 2 * c - 1) / (2 * c)))
      let desc := State.jobDesc j (State.jobArgs j j.dealt r.val) j.template[7]
      s.descOk r.val (s.core r) (State.listDesc desc) = true →
      ∃ t k w, exec (.chunkDeal j.id) s = .next t ∧ t.job? j.id = some k ∧ k.dealt = j.dealt + count ∧
        k.chunks = j.chunks + 1 ∧ k.open_ = j.open_ ++ [(r.val, j.dealt)] ∧ (t.slotOf r n).st = .reserved ∧
        (t.core r).tasks.writes = (s.core r).tasks.writes ++ [w] ∧ w.slot = n ∧ w.desc = desc ∧
        w.chunk = some { job := j.id, member := false, first := j.dealt, count := count } ∧ s.now < w.due) ∧
    (∀ j, s.job? j.id = some j → s.gangReady j = true →
      (j.dealt = 0 → ∃ t k, exec (.gangPlace j.id) s = .next t ∧ t.job? j.id = some k ∧ k.dealt = 1 ∧
        ∀ r : Fin 288, r.val ∈ s.jobCores j → (t.core r).tasks.reserved = some 0) ∧
      (j.dealt ≠ 0 → ∃ t k, exec (.gangPlace j.id) s = .next t ∧ t.job? j.id = some k ∧
        k.startTick = some (s.tick + 4096) ∧
        ∀ r : Fin 288, r.val ∈ s.jobCores j → (t.core r).tasks.reserved = some (s.tick + 4096).toNat)) ∧
    (∀ j x rs, s.job? j.id = some j → s.completionReady j = true → s.ctx? j.ctxid = some x → globalAligned j.compl 32 = true →
      (j.noRecord = some rs ∨
        j.noRecord = none ∧ ∃ tab at_, s.translateSpan none x (j.compl.toNat % 2 ^ 50) 32 true = .error (rs, tab, at_)) →
      ∃ t, exec (.completionRecord j.id) s = .next t ∧ t.job? j.id = none ∧ t.mem = s.mem ∧ t.raised = s.raised ∧
        Recorded s t j.ctxid fun q => q.cause = 0x0A ∧ q.src = 2 ∧ q.reason = rs ∧ q.addr = j.compl) ∧
    (∀ j x ps, s.job? j.id = some j → s.completionReady j = true → s.ctx? j.ctxid = some x → globalAligned j.compl 32 = true →
      j.noRecord = none → s.translateSpan none x (j.compl.toNat % 2 ^ 50) 32 true = .ok ps →
      ∃ t, exec (.completionRecord j.id) s = .next t ∧ t.job? j.id = none ∧
        (∀ pl pa lf, ps = [(pl, pa, 32, lf)] → s.MemOk →
          Wrote s t (pl.key pa) ((completionOf j s.tick).flatMap (leBytes 8))) ∧
        (∀ slot, x.resident = some slot → j.irq = true → Raised s t slot.toNat) ∧
        (j.irq = false → t.raised = s.raised)) ∧
    (∀ id x f rest, s.ctx? id = some x → x.waiting = f :: rest → s.recordTurn id = .write →
      ∃ t y, exec (.faultRecordWrite id) s = .next t ∧ t.ctx? id = some y ∧ y.waiting = rest ∧ y.prod = x.prod + 1 ∧
        y.gen = x.gen ∧ Raised s t 64 ∧
        ∀ pl pa lf ql qa lg, s.MemOk →
          s.translateSpan none x (x.fbuf.toNat % 2 ^ 50 + 64 + 64 * (x.prod.toNat % max x.fbufn 1)) 64 true = .ok [(pl, pa, 64, lf)] →
          (∀ u, s.putGlobal id (x.fbuf.toNat % 2 ^ 50 + 64 + 64 * (x.prod.toNat % max x.fbufn 1))
              ((recordOf f id s.tick).flatMap (leBytes 8)) = some u →
            u.translateSpan none x (x.fbuf.toNat % 2 ^ 50) 32 true = .ok [(ql, qa, 32, lg)]) →
          (pl.key pa + 64 ≤ ql.key qa ∨ ql.key qa + 32 ≤ pl.key pa) →
          memReadN t.mem (pl.key pa) 64 = (recordOf f id s.tick).flatMap (leBytes 8) ∧
          memReadN t.mem (ql.key qa) 8 = leBytes 8 (x.prod + 1).toNat ∧
          memReadN t.mem (ql.key qa + 16) 8 = leBytes 8 x.gen.toNat) ∧
    (∀ id x, s.ctx? id = some x → x.id = id → s.evictionOf id = none → s.deadlinePassed x = true →
      (x.resident.isSome = true →
        ∃ t y, exec (.mapDeadline id) s = .next t ∧ t.ctx? id = some y ∧ y.stale = true ∧
          (∃ e, t.evictionOf id = some e ∧ e.cause = .mapstale) ∧
          ∀ r, (s.core r).ctx = some id → (t.core r).pending.mapstale = some s.cairn.version) ∧
      (x.resident = none →
        ∃ t y, exec (.mapDeadline id) s = .next t ∧ t.ctx? id = some y ∧ y.stale = true ∧ t.cores = s.cores))

/-- R85, R86, R373 to R385: each degradation publishes the next version with its entry and changes what it names: a spare
taken, a layer, core, station, channel or port lost, the ring re-formed; tasks it touches are told by CAIRN; a core without a
task adopts the newest version at its recovery point, and one that waits to start a task of another version does not start it.
The model's own choices in it: log entries 48, 49, 106 and 108. -/
def Obligations.DegradationsPublishTheNextVersion : Prop :=
  ∀ (s : State) (why : HistReason), s.cairn.version ≠ 0xFFFFFFFF →
    (∀ (e : Fin 16) (g b : Fin 64), (s.cairn.layers[e]).state ≠ 2 → ((s.cairn.layers[e]).gspare[g]).toNat < 2 →
      ∃ t, exec (.bankRetire e g b why) s = .next t ∧ t.mem = s.mem ∧
        Published s t 1 0 (e.val * 2 ^ 16 + g.val * 2 ^ 10 + b.val) (reasonCode why) ∧
        (t.cairn.layers[e]).state = 1 ∧ (t.cairn.layers[e]).size = (s.cairn.layers[e]).size ∧
        ((t.cairn.layers[e]).gspare[g]).toNat = ((s.cairn.layers[e]).gspare[g]).toNat + 1) ∧
    (∀ (e : Fin 16) (g : Fin 512), (s.cairn.layers[e]).state ≠ 2 → (s.cairn.layers[e]).lgroup.getLsbD g.val = false →
      ∃ t, exec (.laneSpare e g why) s = .next t ∧ t.mem = s.mem ∧
        Published s t 1 1 (e.val * 2 ^ 16 + g.val) (reasonCode why) ∧ (t.cairn.layers[e]).state = 1 ∧
        (t.cairn.layers[e]).lgroup.getLsbD g.val = true ∧ (t.cairn.layers[e]).lanes = (s.cairn.layers[e]).lanes + 1) ∧
    (∀ (e : Fin 16) (g : Fin 64), (s.cairn.layers[e]).state ≠ 2 → 2 ≤ ((s.cairn.layers[e]).gspare[g]).toNat →
      ∃ t, exec (.layerLost e (some g)) s = .next t ∧ Published s t 2 2 e.val 3 ∧ (t.cairn.layers[e]).state = 2 ∧
        (t.cairn.layers[e]).size = 0 ∧ (t.cairn.layers[e]).lostVer = s.cairn.version + 1 ∧
        ∀ r : Fin 288, r.val / 72 = e.val / 4 → State.notStarted (s.core r) = false →
          (t.core r).pending.cairn = some (s.cairn.version + 1, s.now + 1)) ∧
    (∀ r : Fin 288, s.cairn.live[r] = true →
      ∃ t, exec (.coreLost r why) s = .next t ∧ Published s t 2 3 r.val (reasonCode why) ∧ t.cairn.live[r] = false ∧
        t.cairn.stationLost[r] = true ∧ (t.core r).live = false ∧ (t.core r).tasks.run = none ∧
        ∀ n, (t.slotOf r n).st = .empty) ∧
    (∀ r : Fin 288, s.cairn.stationLost[r] = false →
      ∃ t, exec (.stationLost r why) s = .next t ∧ Published s t 2 4 r.val (reasonCode why) ∧ t.cairn.stationLost[r] = true ∧
        (State.notStarted (s.core r) = false → (t.core r).pending.cairn = some (s.cairn.version + 1, s.now + 1))) ∧
    (∀ pos, positionsOk pos s.cairn.stationLost = true →
      ∃ t, exec (.ringReform pos why) s = .next t ∧ Published s t 2 5 0 (reasonCode why) ∧ t.cairn.pos = pos ∧
        (∀ a b, t.ring.slot a b = RingSlot.init) ∧ t.ring.phase = 0) ∧
    (∀ ch : Fin 48, s.cairn.chan.getLsbD ch.val = true →
      ∃ t, exec (.channelLost ch why) s = .next t ∧ Published s t 2 6 ch.val (reasonCode why) ∧
        t.cairn.chan.getLsbD ch.val = false ∧ t.cairn.region.getLsbD (ch.val / 4) = false) ∧
    (∀ p : Fin 16, s.cairn.port.getLsbD p.val = true →
      ∃ t, exec (.portLost p why) s = .next t ∧ Published s t 2 7 p.val (reasonCode why) ∧
        (∀ q, t.cairn.port.getLsbD q = (s.cairn.port.getLsbD q && decide (q ≠ p.val)))) ∧
    (∀ (r : Fin 288) d, (s.core r).recoverBy = some d → d ≤ s.now → (s.core r).tasks.run = none →
      ∃ t, exec (.recoveryPoint r) s = .next t ∧ OnlyAt r s t ∧ (t.core r).view.version = s.cairn.version ∧
        (t.core r).view.pos = s.cairn.pos[r] ∧ (t.core r).recoverBy = none) ∧
    (∀ (r : Fin 288) d run, (s.core r).recoverBy = some d → d ≤ s.now → State.committed (s.core r) = some run →
      let w (i : Nat) : W64 := (run.desc[i]?).getD 0
      descVersion w ≠ s.cairn.version → descGang w = false →
      ∃ t, exec (.recoveryPoint r) s = .next t ∧ OnlyAt r s t ∧ (t.core r).tasks.run = none ∧
        (t.core r).view.version = s.cairn.version ∧ (t.core r).recoverBy = none ∧ (t.core r).bars = (s.core r).bars ∧
        (t.slotOf r run.slot).st = if (s.slotOf r run.slot).mode = .fresh then .waiting else .suspended)

/-- R396 to R401: the management port answers: number, routes, staging and discarding of both, a commit only with a valid
authorisation and no resident context, STATUS 1 for a bad request; DHCP gives an address; the PTP clock locks after 16 small
offsets, and slews against an offset; a flit writes or reads by its context's page tables and is answered, or travels on whole
by a live port of its route; what leaves stands in its port's replay buffer until it is acknowledged, and is sent again where
it fails its CRC, counted as a replay; a retired lane is counted.
The model's own choices in it: log entries 12, 39, 56, 58 and 80. -/
def Obligations.TheManagementPortLinksAndClockAnswer : Prop :=
  ∀ (s : State) (d : Datagram),
    (NewRequest s d 1 → ∃ t, exec (.getnum d) s = .next t ∧ Replied s t d 0 (leBytes 8 s.mgmt.number.toNat)) ∧
    (∀ first count, NewRequest s d 2 → routeSpan d.body = some (first, count) →
      ∃ t, exec (.getroute d) s = .next t ∧
        Replied s t d 0 (((s.mgmt.routes.toList.drop first).take count).flatMap fun w => leBytes 4 w.toNat)) ∧
    (NewRequest s d 0x11 → leValue d.body < 4096 →
      ∃ t, exec (.stagenum d) s = .next t ∧ Replied s t d 0 [] ∧ t.mgmt.stagedNumber.toNat = leValue d.body ∧
        t.mgmt.number = s.mgmt.number) ∧
    (∀ first count, NewRequest s d 0x12 → routeSpan d.body = some (first, count) → (d.body.drop 4).all portByteOk = true →
      ∃ t, exec (.stageroute d) s = .next t ∧ Replied s t d 0 [] ∧ t.mgmt.routes = s.mgmt.routes ∧
        ∀ j : Fin 4096, (t.mgmt.stagedRoutes[j]) = if first ≤ j.val ∧ j.val < first + count
          then BitVec.ofNat 32 (leValue ((d.body.drop (4 + 4 * (j.val - first))).take 4)) else s.mgmt.stagedRoutes[j]) ∧
    (NewRequest s d 0x20 → ∃ t, exec (.commit d) s = .next t ∧
      (if s.commitAuthorised d.body = true then
        (if ∃ x ∈ s.contexts, x.resident ≠ none then Replied s t d 8 [] ∧ t.mgmt.number = s.mgmt.number
         else Replied s t d 0 [] ∧ t.mgmt.number = s.mgmt.stagedNumber ∧ t.mgmt.routes = s.mgmt.stagedRoutes)
       else Replied s t d 7 [] ∧ t.mgmt.number = s.mgmt.number)) ∧
    (NewRequest s d 0x21 → ∃ t, exec (.discard d) s = .next t ∧ Replied s t d 0 [] ∧
      t.mgmt.stagedNumber = s.mgmt.number ∧ t.mgmt.stagedRoutes = s.mgmt.routes) ∧
    (State.requestOk d = false → s.mgmt.lastSource ≠ some (d.source, d.seq) →
      ∃ t, exec (.badOp d) s = .next t ∧ Replied s t d 1 []) ∧
    (∀ addr, exec (.dhcpOffer addr) s = .next { s with mgmt := { s.mgmt with ipv4 := some addr } }) ∧
    (∀ (off : Int) tai, ∃ t, exec (.ptpSync off tai) s = .next t ∧ t.cores = s.cores ∧ t.mem = s.mem ∧
      t.ptp.offset = BitVec.ofInt 32 off ∧ t.ptp.good = (if off.natAbs < 20 then s.ptp.good + 1 else 0) ∧
      (t.ptp.locked = true ↔ off.natAbs < 20 ∧ 15 ≤ s.ptp.good) ∧ -5000 ≤ t.ptp.slew.toInt ∧ t.ptp.slew.toInt ≤ 5000 ∧
      (0 < off → t.ptp.slew.toInt < 0) ∧ (off < 0 → 0 < t.ptp.slew.toInt) ∧
      (50000 ≤ off.natAbs → t.ptp.slew.toInt.natAbs = 5000) ∧
      (t.tick = if t.ptp.locked = true ∧ s.ptp.loaded = false ∧ s.base.everResident = false
        then BitVec.ofNat 64 (tai / 10) else s.tick)) ∧
    (∀ (port : Fin 16) (x : Flit),
      (s.cairn.port.getLsbD port.val = false → ∀ ok, exec (.flitReceive port ok x) s = .next s) ∧
      (s.cairn.port.getLsbD port.val = true →
        (∃ t, exec (.flitReceive port false x) s = .next t ∧ t = { s with links := t.links, scree := t.scree } ∧
          (∀ q : Fin 16, t.links[q] = if q = port then
            { s.links[port] with flits := s.links[port].flits + flits x.bytes, replays := s.links[port].replays + flits x.bytes
                                 naked := s.links[port].naked + flits x.bytes } else s.links[q]) ∧
          t.scree = { s.scree with replays := s.scree.replays.set port (s.scree.replays[port] + flits x.bytes) }) ∧
        (∀ q, x.dest ≠ s.mgmt.number → s.routePort x.dest.toNat = some q →
          let f := flitOf x x.dest.toNat x.src.toNat q x.kind x.bytes
          ∃ t, exec (.flitReceive port true x) s = .next t ∧ t.mem = s.mem ∧ t.cores = s.cores ∧ Left s t q f ∧
            t.links[port].acked = s.links[port].acked + flits x.bytes) ∧
        (x.dest = s.mgmt.number → (x.kind = .answer ∨ ∃ n, x.kind = .failed n) →
          ∃ t, exec (.flitReceive port true x) s = .next t ∧ t = { s with links := t.links }) ∧
        (∀ c, x.dest = s.mgmt.number → s.ctx? x.ctxid = some c → c.secure = x.world →
          let k := s.countFlit port (flits x.bytes) true
          (∀ ps, x.kind = .write → k.translateSpan none c x.off x.bytes.length true = .ok ps →
            ∃ t, exec (.flitReceive port true x) s = .next t ∧ t.sent = s.sent ∧
              t.mem = (s.writePieces ps (x.bytes.map fun b => (b, true))).mem) ∧
          (∀ n ps q, x.kind = .read n → k.translateSpan none c x.off n false = .ok ps → s.routePort x.src.toNat = some q →
            ∃ t, exec (.flitReceive port true x) s = .next t ∧ t.mem = s.mem ∧
              Left s t q (flitOf x x.src.toNat s.mgmt.number.toNat q .answer (s.readPieces ps))) ∧
          (∀ rs tab at_ q, (x.kind = .write ∧ k.translateSpan none c x.off x.bytes.length true = .error (rs, tab, at_) ∨
              ∃ n, x.kind = .read n ∧ k.translateSpan none c x.off n false = .error (rs, tab, at_)) →
            s.routePort x.src.toNat = some q →
            ∃ t, exec (.flitReceive port true x) s = .next t ∧ t.mem = s.mem ∧
              Left s t q (flitOf x x.src.toNat s.mgmt.number.toNat q (.failed rs) []))) ∧
        (∀ q, x.dest = s.mgmt.number → (∀ c, s.ctx? x.ctxid = some c → c.secure ≠ x.world) →
          (x.kind = .write ∨ ∃ n, x.kind = .read n) → s.routePort x.src.toNat = some q →
          ∃ t, exec (.flitReceive port true x) s = .next t ∧ t.mem = s.mem ∧
            Left s t q (flitOf x x.src.toNat s.mgmt.number.toNat q (.failed 4) [])) ∧
        (∀ n, s.base.alive = true → s.phase = .early →
          (∀ m, s.dueInput = some (n, .linkAck port m) →
            ∃ t, step s = .next t ∧ t.sent = s.sent ∧ t.mem = s.mem ∧ t.cores = s.cores ∧
              t.links[port] = { s.links[port] with unacked := s.links[port].unacked.drop m }) ∧
          (∀ f rest, s.dueInput = some (n, .linkNak port) → s.links[port].unacked = f :: rest →
            ∃ t, step s = .next t ∧ t.sent = s.sent ++ [f] ∧ t.mem = s.mem ∧ t.cores = s.cores ∧
              t.links[port].unacked = f :: rest ∧ t.scree.replays[port] = s.scree.replays[port] + flits f.bytes)))) ∧
    (∀ port : Fin 16, s.scree.portLanes[port] < 4 →
      ∃ t, exec (.linkLaneRetire port) s = .next t ∧ t.cairn = s.cairn ∧
        t.scree = { s.scree with portLanes := s.scree.portLanes.set port (s.scree.portLanes[port] + 1) })

namespace Sys2Proof.Claims

/-- A region of LPDDR memory is populated whole: every one of a 9140-M (R1, R407). -/
def wholeRegion (g : Fin 12) : Prop :=
  Config.isModule = true ∨ ∀ i : Fin 4, Config.populated.getLsbD (4 * g.val + i.val) = true

end Sys2Proof.Claims

/-- R1, R24, R25, R26, R141, R395, R396, R402, R403, R406 to R408: time, samples, power: TICK advances by one and a fractional
accumulator, which each core cycle fills by the corrected rate, places the next tick 11 to 13 cycles later; a member that
missed the tick which ends leaves its slot EMPTY; samples are counted, the scree is saved; heat refuses RESIDE and begins
pre-emption, or removes power from the dies while the base controller goes on; power-on runs with the cairn, as boot's stages
degrade it in their order, the saved scree, TICK 0 and the populated regions that train. A word that no encoding assigns traps.
The model's own choices in it: log entries 6, 52, 54, 60, 63, 79 and 94. -/
def Obligations.TimeSamplesAndPowerHaveTheirEffect : Prop :=
  ∀ (s : State),
    (s.tickDue ≤ s.now → ∃ t, exec .tick s = .next t ∧ t.tick = s.tick + 1 ∧ t.mem = s.mem ∧
      (-5000 ≤ s.ptp.slew.toInt → s.ptp.slew.toInt ≤ 5000 → s.tickAcc ≤ 100005000 →
        let rate : Int := 100000000 + s.ptp.slew.toInt
        s.now + 11 ≤ t.tickDue ∧ t.tickDue ≤ s.now + 13 ∧ t.ptp = s.ptp ∧
        ((t.tickAcc : Int) = s.tickAcc + (t.tickDue - s.now : Nat) * rate - 1200000000) ∧ (t.tickAcc : Int) < rate) ∧
      (∀ r k, (s.core r).tasks.reserved = some k → k ≠ 0 → k < (s.tick + 1).toNat → (t.core r).tasks.reserved = none) ∧
      ∀ r n, (s.slotOf r n).missed = true → t.slotOf r n = TaskSlot.init) ∧
    exec .screeSave s = .next { s with screeSaved := s.scree, saveDue := s.now + 72000000000 } ∧
    exec .orderlyShutdown s = .next { s with screeSaved := s.scree } ∧
    (∀ c : Int, 0 ≤ c → ∃ t, exec (.thermalSample c) s = .next t ∧
      ∀ i : Fin 32, t.scree.thermal[i] =
        if (i.val : Int) = min 31 (c / 500) then min (s.scree.thermal[i] + 1) (2 ^ 64 - 1) else s.scree.thermal[i]) ∧
    (∀ c : Int, -800 ≤ c → ∃ t, exec (.voltageSample c) s = .next t ∧
      ∀ i : Fin 32, t.scree.voltage[i] =
        if (i.val : Int) = min 31 ((c + 800) / 50) then min (s.scree.voltage[i] + 1) (2 ^ 64 - 1) else s.scree.voltage[i]) ∧
    (s.preemptAt = none → ∃ t, exec .thermalPreempt s = .next t ∧ t.base.hot = true ∧
      t.preemptAt = some (s.tick + 4096) ∧ t.cores = s.cores) ∧
    exec .thermalClear s = .next { s with base := { s.base with hot := false } } ∧
    (∃ t, exec .thermalShutdown s = .next t ∧ t.base = { s.base with powered := false } ∧
      t.scree.shutdowns = s.scree.shutdowns + 1 ∧ t.screeSaved = t.scree ∧ t.ring.stopped = true ∧ t.tick = s.tick ∧
      t.contexts = s.contexts ∧ t.mailbox = s.mailbox ∧ t.mgmt = s.mgmt ∧ t.cairn = s.cairn ∧
      (∀ r, (t.core r).tasks = Tasks.init ∧ (t.core r).ctx = none) ∧ (s.MemOk → ∀ k, k < 2 ^ 52 → memRead t.mem k = 0)) ∧
    (s.base.alive = false → s.dueInput = none → step s = .next { s with now := s.now + 1 }) ∧
    (∃ t, exec .powerLoss s = .next t ∧ t.base.alive = false ∧ t.base.powered = false ∧ t.scree = s.screeSaved ∧ t.contexts = [] ∧
      t.cairn = { s.cairn with seq := 0 } ∧ t.base.ownerKey = s.base.ownerKey ∧ t.base.nextLeaf = s.base.nextLeaf) ∧
    (∃ t, exec .powerOnReset s = .next t ∧ t.base.alive = true ∧ t.base.powered = true ∧ t.tick = 0 ∧ t.contexts = [] ∧
      t.phase = .early ∧
      t.scree.boots = min (s.screeSaved.boots + 1) (2 ^ 32 - 1) ∧
      (∀ r : Fin 288, (t.core r).live = t.cairn.live[r] ∧ (t.core r).ctx = none ∧
        (t.core r).view.version = t.cairn.version) ∧
      let found := Config.bootFaults s.serial
      let u := (s.dark.bootStage found fun k => decide (k < 6)).bootStage found fun k => k == 6
      let v := ({ u with cairn := u.trained (Config.trainedChannels s.serial) } : State).bootStage found fun k => k == 7
      t.cairn = v.cairn ∧ t.cairn.layers = u.cairn.layers ∧ t.cairn.live = u.cairn.live ∧
        (∀ g : Fin 12, t.cairn.region.getLsbD g.val = true ↔ wholeRegion g ∧
          (Config.isModule = false → ∃ h : Fin 12, h ≠ g ∧ wholeRegion h) ∧
          ∀ i : Fin 4, (Config.trainedChannels s.serial).getLsbD (4 * g.val + i.val) = true ∧
            ∀ h ∈ u.cairn.history, ¬ (h.res = 6 ∧ h.index = 4 * g.val + i.val)) ∧
        (∀ c : Fin 48, t.cairn.chan.getLsbD c.val = t.cairn.region.getLsbD (c.val / 4)) ∧
        s.dark.cairn.version = s.cairn.version ∧ s.dark.cairn.layers = s.cairn.layers ∧ s.dark.cairn.live = s.cairn.live) ∧
    exec (.unassignedOpcode .illop) s = .next (trapped s .illop (wordPtr s) s.focus.word) ∧
    exec (.unassignedOpcode .wrongStream) s = .next (trapped s .wrongstream (wordPtr s) s.focus.word)

/-! ## Encodings, the step, the frame and the invariant -/

namespace Sys2Proof.Claims

/-- The invariant: memory is in its canonical form. -/
structure Inv (s : State) : Prop where
  mem : Memory.wf s.mem = true

/-- What no word changes in the cycle in which it issues: any other core; the scalar, address, vector and mask registers;
CYC, FRZ, TASKV, the flags, CAUSE, FADDR, FAUX and TMCMP; the barriers and task slots; memory, the ring's slots, the engines,
contexts, jobs, time, the mailbox, the cairn and the management port. -/
structure WordFrame (s t : State) : Prop where
  cores : ∀ r, r ≠ s.focus.rank → t.core r = s.core r
  regs : t.me.regs.s = s.me.regs.s ∧ t.me.regs.a = s.me.regs.a ∧ t.me.regs.v = s.me.regs.v ∧ t.me.regs.k = s.me.regs.k
  core : t.me.sp = s.me.sp ∧ t.me.bars.val = s.me.bars.val ∧ t.me.tasks = s.me.tasks ∧ t.me.view = s.me.view ∧
    t.me.ctx = s.me.ctx ∧ t.me.world = s.me.world ∧ t.me.stop = s.me.stop ∧ t.me.freeze = s.me.freeze
  bytes : ∀ pl off, t.byteAt pl off = s.byteAt pl off
  rest : t.ring.slots = s.ring.slots ∧ t.engines = s.engines ∧ t.contexts = s.contexts ∧ t.jobs = s.jobs ∧ t.tick = s.tick ∧
    t.now = s.now ∧ t.mailbox = s.mailbox ∧ t.cairn = s.cairn ∧ t.prot = s.prot ∧ t.mgmt = s.mgmt

end Sys2Proof.Claims

/-- R136, R141 to R152: decode and encode agree, both ways: the word encoded for a well-formed instruction of a stream, with
any IDLE, decodes to that instruction in that stream; and a word that decodes is the word encoded for what it decodes to, so
that no bit of it is dropped. -/
def Obligations.DecodeAndEncodeAgreeBothWays : Prop :=
  (∀ (i : Instr) (st : Stream) (idl : BitVec 10), i.wf = true → i.stream? = some st →
    ∃ w, encode idl i = some w ∧ decodeWord st w = .ok i ∧ wordIdle w = idl.toNat) ∧
  (∀ (st : Stream) (w : W64) (i : Instr), decodeWord st w = .ok i →
    i.wf = true ∧ i.stream? = some st ∧ encode (w.extractLsb' 54 10) i = some w)

/-- R136, R142 to R152, R156, chapters 11 and 14: words that the spec prints decode to the instructions it prints beside
them. -/
def Obligations.PrintedWordsDecodeToTheirInstruction : Prop :=
  decodeWord .c 0x0504800000000000 = .ok .tend ∧
  decodeWord .c 0x0002810000000004 = .ok (.li 1 4) ∧
  decodeWord .c 0x0000430C40000000 = .ok (.add 3 3 4) ∧
  decodeWord .c 0x000FC80000020003 = .ok (.loop .c 0 (.reg 1) 3) ∧
  decodeWord .c 0x0006082090000000 = .ok (.taskq 8 4 9) ∧
  decodeWord .v 0x0190406020100060 = .ok (.vadd ⟨3, 2, .vec 2, 0, .i32, .rn, false⟩) ∧
  decodeWord .v 0x0010814010100CA5 = .ok (.vfma ⟨10, 1, 2, 3, 2, .f32, .rz⟩) ∧
  decodeWord .v 0x0011C06040484122 = .ok (.vcmp 3 4 (.scal 9) 0 .f32 .lt) ∧
  decodeWord .x 0x00200000FFFFFFFF = .ok (.idle .x 0xFFFFFFFF) ∧
  decodeWord .m 0x0030404000000000 = .ok (.tld 2 0 0) ∧
  decodeWord .m 0x0033071806400000 = .ok (.copy 7 3 (.imm 50)) ∧
  decodeWord .v 0x0504800000000000 = .error .wrongStream

/-- R10, R137, R140, R141: a step at which a word is due is that word's instruction at the state whose focus is the word and
whose stream has moved past it, or the trap of a word that no encoding assigns; the word is the one that the stream's fetch
buffer holds for its place, or else the eight bytes there in the core's terrace 0, lowest first, and the buffer holds it from
then on. An event that is due before the cycle is a step too, and so is the fixing of the span of a gang's freeze (R354).
The model's own choices in it: log entries 3, 5, 8, 31, 60 and 66. -/
def Obligations.AStepRunsTheDecodedWord : Prop :=
  ∀ (s : State), s.base.alive = true →
    (∀ r st, s.phase = .words → s.nextHold = none → s.nextWord = some (r, st) →
      let p := (s.core r).stream st
      let off := (s.core r).section_ st + p.off
      let w := s.streamWord r st off
      let t := s.focusOn r st
      (∀ i, decodeWord st w = .ok i → step s = exec i t) ∧
      (∀ e, decodeWord st w = .error e → step s = exec (.unassignedOpcode e) t) ∧
      (off + 8 ≤ 0x17F800 → (s.core r).buffered st off = none → w = BitVec.ofNat 64 (leValue ((List.range 8).map fun j => memRead s.mem ((Place.t0 r).key off + j)))) ∧
      (∀ b, (s.core r).buffered st off = some b → w = b) ∧ (t.core r).buffered st off = some w ∧
      t.focus = { rank := r, strm := st, off := off, word := w, old := p } ∧
      (t.core r).stream st = { off := p.off + 8, base := (s.core r).sp.cyc + 1, fixed := false, parked := false } ∧
      (∀ q, q ≠ st → (t.core r).stream q = (s.core r).stream q) ∧ (t.core r).regs = (s.core r).regs ∧
      (∀ q, q ≠ r → t.core q = s.core q) ∧ t.mem = s.mem) ∧
    (∀ i, s.phase = .early → s.dueInput = none → s.spanDue = none → s.nextEarly = some i → step s = exec i s) ∧
    (∀ id, s.phase = .early → s.dueInput = none → s.spanDue = some id → ∃ d, 1 ≤ d ∧ step s = .next (s.setSpan id d))

/-- R10, R113, R115, R153 and the rules of each word: in the cycle in which it issues, a word of any stream changes no
register, no special register, no barrier, no byte of memory, no other core and nothing outside its core; only LOOP changes a
loop counter.
The model's own choices in it: log entries 4 and 37. -/
def Obligations.NoWordChangesRegistersOrMemoryInItsIssueCycle : Prop :=
  ∀ (i : Instr) (st : Stream) (s t : State), i.stream? = some st → exec i s = .next t →
    WordFrame s t ∧ ((∀ q lc n tgt, i ≠ .loop q lc n tgt) → t.me.regs.loops = s.me.regs.loops)

namespace Sys2Proof.Claims

/-- Two writes of a cycle to one register, slice or portion are one and the same. -/
def Alone (ws : List (Stream × Nat × RegWrite)) (w : Stream × Nat × RegWrite) : Prop :=
  ∀ v ∈ ws, v.2.2.key = w.2.2.key → v = w

/-- The result is due in cycle c, and of the others due in it none writes the slot; where it need not be alone, each that does
issued earlier. -/
def LastWriter (ls : List Latch) (c : Nat) (u : Fin 32) (l : Latch) (alone : Bool) : Prop :=
  ∃ pre post, ls = pre ++ l :: post ∧ l.base = c ∧
    ∀ m ∈ pre ++ post, writesSlot u m → m.base = c → alone = false ∧ m.issue < l.issue

end Sys2Proof.Claims

/-- R99, R113, R115, R153, R155, R182, R215, R228, R237: in the cycle at which they are due, results reach their registers, those
of the vector and mask files slice by slice; a write to s0 is discarded, two streams that write one register in one cycle both
fail with WCOLL, and every other register stands; a write of FPF or TMCMP reaches it, and the flags of the words whose last
write falls in the cycle join FPF; a tile, an element or a product reaches its slot, the later-issued of two; a terrace 0 store
writes exactly its enabled bytes, a tile store the 1,024 bytes of its line group, and no other byte changes.
The model's own choices in it: log entries 2 and 84. -/
def Obligations.ResultsAndStoresPerformInTheirCycle : Prop :=
  ∀ (s : State) (r : Fin 288) (c : Nat),
    (let ws := cycleWrites (s.core r).pipe.latches c
     let k := (s.core r).regWrites c
     (∀ w ∈ ws, ∀ d x, w.2.2 = .scal d x → (∀ v ∈ ws, v.2.2.key = w.2.2.key → v = w) →
        k.readS d = if d = 0 then 0 else x) ∧
     (∀ w ∈ ws, ∀ d x, w.2.2 = .addr d x → (∀ v ∈ ws, v.2.2.key = w.2.2.key → v = w) → k.readA d = x) ∧
     (∀ d : BitVec 6, (∀ v ∈ ws, v.2.2.key ≠ (0, d.toNat, 0)) → k.readS d = (s.core r).readS d) ∧
     (∀ d : BitVec 5, (∀ v ∈ ws, v.2.2.key ≠ (1, d.toNat, 0)) → k.readA d = (s.core r).readA d) ∧
     (∀ d : BitVec 9, (∀ v ∈ ws, ∀ j, v.2.2.key ≠ (2, d.toNat, j)) → k.readV d = (s.core r).readV d) ∧
     (∀ d : BitVec 4, (∀ v ∈ ws, ∀ j, v.2.2.key ≠ (3, d.toNat, j)) → k.readK d = (s.core r).readK d) ∧
     (∀ v ∈ ws, ∀ w ∈ ws, v.1 ≠ w.1 → v.2.2.key = w.2.2.key →
        (∃ t ∈ k.pipe.traps, t.cause = .wcoll ∧ t.boundary = c + 1) ∧
        ∀ d x, w.2.2 = .scal d x → (∀ u ∈ ws, u.2.2.key = w.2.2.key → u = v ∨ u = w) → k.readS d = (s.core r).readS d) ∧
     k.acc = (s.core r).acc ∧ k.bars = (s.core r).bars ∧
     (∀ v, v ∈ ws ↔ ∃ l ∈ (s.core r).pipe.latches, ∃ w ∈ l.writesAt c, v = (l.strm, l.issue, w)) ∧
     (∀ w ∈ ws, ∀ d j x en, w.2.2 = .vec d j x en → d.toNat < 384 → Alone ws w → ∀ b : Fin 2048, b.val / 256 = j →
        (k.readV d)[b] = if en[b] then x[b] else ((s.core r).readV d)[b]) ∧
     (∀ w ∈ ws, ∀ d j x en, w.2.2 = .msk d j x en → d ≠ 0 → Alone ws w → ∀ b : Fin 2048, b.val / 256 = j →
        (k.readK d)[b] = if en[b] then x[b] else ((s.core r).readK d)[b]) ∧
     (let due (n : Nat) (l : Latch) : Prop := l.base = c ∧ ∃ v, l.kind = .special n v
      let joined (b : Nat) : Prop := ∃ l ∈ (s.core r).pipe.latches, (l.flagsAt c).getLsbD b = true
      ((∀ l ∈ (s.core r).pipe.latches, ¬ due 7 l) →
        ∀ b, k.sp.fpf.getLsbD b = true ↔ (s.core r).sp.fpf.getLsbD b = true ∨ joined b) ∧
      (∀ pre l post v, (s.core r).pipe.latches = pre ++ l :: post → l.base = c → l.kind = .special 7 v →
        (∀ m ∈ post, ¬ due 7 m) → ∀ b, k.sp.fpf.getLsbD b = true ↔ (v.setWidth 6).getLsbD b = true ∨ joined b) ∧
      ((∀ l ∈ (s.core r).pipe.latches, ¬ due 11 l) → k.sp.tmcmp = (s.core r).sp.tmcmp) ∧
      (∀ pre l post v, (s.core r).pipe.latches = pre ++ l :: post → l.base = c → l.kind = .special 11 v →
        (∀ m ∈ post, ¬ due 11 m) → k.sp.tmcmp = v))) ∧
    (∀ l : Latch,
      (∀ d v en, l.kind = .vec d v en true → c = l.base → ∀ j, j < 8 → .vec d j v en ∈ l.writesAt c) ∧
      (∀ d v en, l.kind = .msk d v en true → c = l.base → ∀ j, j < 8 → .msk d j v en ∈ l.writesAt c) ∧
      (∀ scal ops mops, l.kind = .vword scal ops mops →
        (l.base ≤ c → c < l.base + 8 → l.parts.getLsbD (c - l.base) = true →
          l.writesAt c = (vEval l.instr scal ops mops).writes.map fun w => match w with
            | .vec d v en => .vec d (c - l.base) v en
            | .msk d v en => .msk d (c - l.base) v en) ∧
        ((c < l.base ∨ l.base + 8 ≤ c) → l.writesAt c = []) ∧
        l.flagsAt c = if c = l.base + 7 then (vEval l.instr scal ops mops).flags else 0) ∧
      (∀ d v en, l.kind = .vec d v en true → l.flagsAt c = if c = l.base then l.flags else 0)) ∧
    (let k := (s.core r).tileWrites c
     let ls := (s.core r).pipe.latches
     let old (u : Fin 32) : Tile := (s.core r).acc.tiles[u]
     (∀ u, (∀ l ∈ ls, writesSlot u l → l.base ≠ c) → k.acc.tiles[u] = old u) ∧
     (∀ l u x, l.kind = .tile u x → LastWriter ls c u l false → k.acc.tiles[u] = x) ∧
     (∀ l u ps f a b sa sb hs, l.kind = .xword u ps f a b sa sb hs → LastWriter ls c u l false →
        k.acc.tiles[u] = (l.product (old u)).1) ∧
     (∀ l u i x, l.kind = .elem u i x → LastWriter ls c u l true → ∀ j : Fin 4096,
        (k.acc.tiles[u])[j] = if j.val = i then x else (old u)[j]) ∧
     (∀ b, k.sp.fpf.getLsbD b = true ↔ (s.core r).sp.fpf.getLsbD b = true ∨
        ∃ l ∈ ls, l.base = c ∧ ∃ u ps f x y sa sb hs, l.kind = .xword u ps f x y sa sb hs ∧
          (l.product (old u)).2.getLsbD b = true) ∧
     k.regs = (s.core r).regs ∧ k.acc.h = (s.core r).acc.h ∧ k.acc.free = (s.core r).acc.free ∧ k.bars = (s.core r).bars) ∧
    (∀ pre l post, s.MemOk → l.guards = [] → (s.core r).pipe.latches = pre ++ l :: post →
      (∀ m ∈ pre ++ post, ∀ o b x, m.kind ≠ .store o b x) → (∀ m ∈ pre ++ post, ∀ o b x, m.kind ≠ .tileStore o b x) →
      let t := s.storeWrites r c
      (∀ off bs scalar, l.kind = .store off bs scalar →
        (c ≠ l.base → t.mem = s.mem) ∧
        (c = l.base → ∀ n, memRead t.mem n = match bs[n - (Place.t0 r).key off]? with
          | some (x, true) => if (Place.t0 r).key off ≤ n then x else memRead s.mem n
          | _ => memRead s.mem n)) ∧
      (∀ off x rel, l.kind = .tileStore off x rel →
        (¬ (l.base ≤ c ∧ c < l.base + 20) → t.mem = s.mem) ∧
        (l.base ≤ c → c < l.base + 20 →
          Wrote s t ((Place.t0 r).key (off + 1024 * (c - l.base))) (((Tile.image x).drop (1024 * (c - l.base))).take 1024))))

/-- R32, R34, R35 and the model's own form of memory (log entry 2): from every state that meets the invariant, a step that
answers a next state answers one that meets it: memory keeps its one canonical form, whatever word, event or input the step
performs. -/
def Obligations.EveryStepKeepsMemoryCanonical : Prop :=
  ∀ (s t : State), Inv s → step s = .next t → Inv t

/-- R8, R9, R32, R67, R69, R327, R330, R340, R341, R374, R395: the machine at reset meets the invariant and stands as the spec
says: nothing resident, no task on any core, every core, engine and track non-secure, every ring slot FREE and empty with slot
j at position j, no chain queued, TICK 0, BELLERR 0, and every T0 and terrace at its whole size.
The model's own choices in it: log entries 2, 4 and 62. -/
def Obligations.ResetMeetsTheInvariantAndTheSpecsResetValues : Prop :=
  Inv State.reset ∧ State.reset.tick = 0 ∧ State.reset.contexts = [] ∧ State.reset.jobs = [] ∧
  State.reset.mailbox.busy = false ∧ State.reset.mailbox.bellerr = 0 ∧ State.reset.base.ready = false ∧
  (∀ r : Fin 288, (State.reset.core r).ctx = none ∧ (State.reset.core r).world = false ∧
    (State.reset.core r).tasks.run = none ∧ (∀ n : Fin 32, ((State.reset.core r).tasks.slots[n]).st = .empty) ∧
    (∀ b : Fin 256, (State.reset.core r).bars.val[b] = 0) ∧ (State.reset.core r).view.pos = stationPos r.val) ∧
  (∀ (a : Fin 8) (b : Fin 1024), State.reset.ring.slot a b = RingSlot.init ∧ State.reset.ring.slotAt b.val = b.val) ∧
  (∀ a : Fin 8, State.reset.ring.secure[a] = false) ∧
  (∀ e : Fin 96, (State.reset.engines[e]).queue = [] ∧ (State.reset.engines[e]).done = 0 ∧
    (State.reset.engines[e]).world = false) ∧
  (∀ e : Fin 16, (State.reset.cairn.layers[e]).state = 0 ∧
    (State.reset.cairn.layers[e]).size = if e.val % 4 < 2 then 0x20000000 else 0x40000000)
end

