-- ==== Sys2Proof/Laws/Banks.lean ====
section
/-! SUPPORT. The queue for idle bank-cycles of terrace 0 (R44): what a turn can answer, and what the service of the queue
changes. -/

namespace Sys2Proof.Machine

namespace State

@[simp] theorem askLines_mem (s : State) (t : Nat) (ls : List (Nat × Nat)) : (s.askLines t ls).mem = s.mem := rfl
@[simp] theorem askLines_cores (s : State) (t : Nat) (ls : List (Nat × Nat)) : (s.askLines t ls).cores = s.cores := rfl
@[simp] theorem askLines_engines (s : State) (t : Nat) (ls : List (Nat × Nat)) : (s.askLines t ls).engines = s.engines := rfl
@[simp] theorem serveBanks_mem (s : State) : s.serveBanks.mem = s.mem := rfl
@[simp] theorem serveBanks_cores (s : State) : s.serveBanks.cores = s.cores := rfl
@[simp] theorem serveBanks_engines (s : State) : s.serveBanks.engines = s.engines := rfl
@[simp] theorem viewOf_cores (s : State) (t : Nat) : (s.viewOf t).cores = s.cores := rfl
@[simp] theorem viewOf_engines (s : State) (t : Nat) : (s.viewOf t).engines = s.engines := rfl

/-- What a turn answers: it waits, some line having been asked for only now, or not served; or each has been served, and the
view is that of its ticket. -/
theorem bankTurn_cases (s : State) (ticket : Option Nat) (need : List (Nat × Nat)) :
    (∃ l ∈ need, s.asked (ticket.getD s.serial) l = false ∧ ∃ ls, l ∈ ls ∧
        s.bankTurn ticket need = .wait (s.askLines (ticket.getD s.serial) ls) (ticket.getD s.serial)) ∨
      (∃ l ∈ need, s.wasServed (ticket.getD s.serial) l = false ∧
        s.bankTurn ticket need = .wait s (ticket.getD s.serial)) ∨
      ((∀ l ∈ need, s.wasServed (ticket.getD s.serial) l = true) ∧
        s.bankTurn ticket need = .ready (s.viewOf (ticket.getD s.serial))) := by
  unfold bankTurn
  dsimp only
  split
  · rename_i h
    cases e : (need.filter fun l => !s.asked (ticket.getD s.serial) l).eraseDups with
    | nil => simp [e] at h
    | cons l ls =>
      have hl : l ∈ (need.filter fun l => !s.asked (ticket.getD s.serial) l).eraseDups := by simp [e]
      have hm := List.mem_eraseDups.1 hl
      rw [List.mem_filter] at hm
      exact .inl ⟨l, hm.1, by simpa using hm.2, _, by simp, rfl⟩
  · split
    · rename_i h
      exact .inr (.inr ⟨List.all_eq_true.1 h, rfl⟩)
    · rename_i h
      simp only [List.all_eq_true, not_forall] at h
      obtain ⟨l, hl, hs⟩ := h
      exact .inr (.inl ⟨l, hl, by simpa using hs, rfl⟩)

/-- A turn that waits changes no memory. -/
theorem bankTurn_mem {s t : State} {ticket : Option Nat} {need : List (Nat × Nat)} {k : Nat}
    (e : s.bankTurn ticket need = .wait t k) : t.mem = s.mem := by
  obtain ⟨_, _, _, _, _, h⟩ | ⟨_, _, _, h⟩ | ⟨_, h⟩ := s.bankTurn_cases ticket need <;> rw [h] at e <;> cases e <;> rfl

/-- What needs no line of a terrace 0 has its turn. -/
theorem bankTurn_nil (s : State) (ticket : Option Nat) : s.bankTurn ticket [] = .ready (s.viewOf (ticket.getD s.serial)) := by
  simp [bankTurn]

/-- A queue with nothing served under a ticket gives the package as it stands. -/
theorem viewOf_empty (s : State) (t : Nat) (h : s.bankq = []) : s.viewOf t = s := by
  cases s
  cases h
  rfl

end State

end Sys2Proof.Machine
end

