-- ==== Sys2Proof/Laws/State.lean ====
section
/-! SUPPORT. What each named update of the state leaves alone: one lemma per field per update, and what a core reads as
after an update of a core. -/

namespace Sys2Proof.Machine

/-! ## Cores -/

@[simp] theorem State.core_setCore_same (s : State) (r : Fin 288) (c : Core) : (s.setCore r c).core r = c := by
  simp [State.core, State.setCore]

theorem State.core_setCore_ne (s : State) {r q : Fin 288} (c : Core) (h : q ≠ r) : (s.setCore r c).core q = s.core q := by
  have hne : r.val ≠ q.val := fun e => h (Fin.ext e.symm)
  simp [State.core, State.setCore, hne]

@[simp] theorem State.core_modCore_same (s : State) (r : Fin 288) (f : Core → Core) : (s.modCore r f).core r = f (s.core r) := by
  simp [State.modCore]

theorem State.core_modCore_ne (s : State) {r q : Fin 288} (f : Core → Core) (h : q ≠ r) : (s.modCore r f).core q = s.core q := by
  simp [State.modCore, State.core_setCore_ne s _ h]

@[simp] theorem State.me_setMe (s : State) (c : Core) : (s.setMe c).me = c := by
  show (s.setCore s.focus.rank c).core s.focus.rank = c
  simp

@[simp] theorem State.me_modMe (s : State) (f : Core → Core) : (s.modMe f).me = f s.me := by
  show (s.modCore s.focus.rank f).core s.focus.rank = f (s.core s.focus.rank)
  simp

theorem State.core_modMe_ne (s : State) {q : Fin 288} (f : Core → Core) (h : q ≠ s.focus.rank) : (s.modMe f).core q = s.core q :=
  s.core_modCore_ne f h

/-- Two updates of the core in focus are one. -/
theorem State.modMe_modMe (s : State) (f g : Core → Core) : (s.modMe f).modMe g = s.modMe fun c => g (f c) := by
  simp [State.modMe, State.modCore, State.setCore, State.core]

/-- Writing the core in focus back changes nothing. -/
theorem State.modMe_id (s : State) : (s.modMe fun c => c) = s := by
  simp [State.modMe, State.modCore, State.setCore, State.core]

/-! ## Fields that an update leaves alone -/


@[simp] theorem State.setCore_now (s : State) (r : Fin 288) (c : Core) : (s.setCore r c).now = s.now := rfl
@[simp] theorem State.setCore_phase (s : State) (r : Fin 288) (c : Core) : (s.setCore r c).phase = s.phase := rfl
@[simp] theorem State.setCore_focus (s : State) (r : Fin 288) (c : Core) : (s.setCore r c).focus = s.focus := rfl
@[simp] theorem State.setCore_serial (s : State) (r : Fin 288) (c : Core) : (s.setCore r c).serial = s.serial := rfl
@[simp] theorem State.setCore_mem (s : State) (r : Fin 288) (c : Core) : (s.setCore r c).mem = s.mem := rfl
@[simp] theorem State.setCore_ring (s : State) (r : Fin 288) (c : Core) : (s.setCore r c).ring = s.ring := rfl
@[simp] theorem State.setCore_engines (s : State) (r : Fin 288) (c : Core) : (s.setCore r c).engines = s.engines := rfl
@[simp] theorem State.setCore_prot (s : State) (r : Fin 288) (c : Core) : (s.setCore r c).prot = s.prot := rfl
@[simp] theorem State.setCore_contexts (s : State) (r : Fin 288) (c : Core) : (s.setCore r c).contexts = s.contexts := rfl
@[simp] theorem State.setCore_jobs (s : State) (r : Fin 288) (c : Core) : (s.setCore r c).jobs = s.jobs := rfl
@[simp] theorem State.setCore_adds (s : State) (r : Fin 288) (c : Core) : (s.setCore r c).adds = s.adds := rfl
@[simp] theorem State.setCore_gangs (s : State) (r : Fin 288) (c : Core) : (s.setCore r c).gangs = s.gangs := rfl
@[simp] theorem State.setCore_bankq (s : State) (r : Fin 288) (c : Core) : (s.setCore r c).bankq = s.bankq := rfl
@[simp] theorem State.setCore_resumes (s : State) (r : Fin 288) (c : Core) : (s.setCore r c).resumes = s.resumes := rfl
@[simp] theorem State.setCore_evicting (s : State) (r : Fin 288) (c : Core) : (s.setCore r c).evicting = s.evicting := rfl
@[simp] theorem State.setCore_tick (s : State) (r : Fin 288) (c : Core) : (s.setCore r c).tick = s.tick := rfl
@[simp] theorem State.setCore_tickDue (s : State) (r : Fin 288) (c : Core) : (s.setCore r c).tickDue = s.tickDue := rfl
@[simp] theorem State.setCore_tickAcc (s : State) (r : Fin 288) (c : Core) : (s.setCore r c).tickAcc = s.tickAcc := rfl
@[simp] theorem State.setCore_preemptAt (s : State) (r : Fin 288) (c : Core) : (s.setCore r c).preemptAt = s.preemptAt := rfl
@[simp] theorem State.setCore_freezing (s : State) (r : Fin 288) (c : Core) : (s.setCore r c).freezing = s.freezing := rfl
@[simp] theorem State.setCore_mailbox (s : State) (r : Fin 288) (c : Core) : (s.setCore r c).mailbox = s.mailbox := rfl
@[simp] theorem State.setCore_cairn (s : State) (r : Fin 288) (c : Core) : (s.setCore r c).cairn = s.cairn := rfl
@[simp] theorem State.setCore_scree (s : State) (r : Fin 288) (c : Core) : (s.setCore r c).scree = s.scree := rfl
@[simp] theorem State.setCore_screeSaved (s : State) (r : Fin 288) (c : Core) : (s.setCore r c).screeSaved = s.screeSaved := rfl
@[simp] theorem State.setCore_mgmt (s : State) (r : Fin 288) (c : Core) : (s.setCore r c).mgmt = s.mgmt := rfl
@[simp] theorem State.setCore_ptp (s : State) (r : Fin 288) (c : Core) : (s.setCore r c).ptp = s.ptp := rfl
@[simp] theorem State.setCore_base (s : State) (r : Fin 288) (c : Core) : (s.setCore r c).base = s.base := rfl
@[simp] theorem State.setCore_saved (s : State) (r : Fin 288) (c : Core) : (s.setCore r c).saved = s.saved := rfl
@[simp] theorem State.setCore_raised (s : State) (r : Fin 288) (c : Core) : (s.setCore r c).raised = s.raised := rfl
@[simp] theorem State.setCore_sent (s : State) (r : Fin 288) (c : Core) : (s.setCore r c).sent = s.sent := rfl
@[simp] theorem State.setCore_links (s : State) (r : Fin 288) (c : Core) : (s.setCore r c).links = s.links := rfl
@[simp] theorem State.setCore_linksDue (s : State) (r : Fin 288) (c : Core) : (s.setCore r c).linksDue = s.linksDue := rfl
@[simp] theorem State.setCore_saveDue (s : State) (r : Fin 288) (c : Core) : (s.setCore r c).saveDue = s.saveDue := rfl
@[simp] theorem State.setCore_bankTimes (s : State) (r : Fin 288) (c : Core) : (s.setCore r c).bankTimes = s.bankTimes := rfl
@[simp] theorem State.setCore_poison (s : State) (r : Fin 288) (c : Core) : (s.setCore r c).poison = s.poison := rfl
@[simp] theorem State.setCore_acks (s : State) (r : Fin 288) (c : Core) : (s.setCore r c).acks = s.acks := rfl
@[simp] theorem State.setCore_inputs (s : State) (r : Fin 288) (c : Core) : (s.setCore r c).inputs = s.inputs := rfl

@[simp] theorem State.modCore_now (s : State) (r : Fin 288) (f : Core → Core) : (s.modCore r f).now = s.now := rfl
@[simp] theorem State.modCore_phase (s : State) (r : Fin 288) (f : Core → Core) : (s.modCore r f).phase = s.phase := rfl
@[simp] theorem State.modCore_focus (s : State) (r : Fin 288) (f : Core → Core) : (s.modCore r f).focus = s.focus := rfl
@[simp] theorem State.modCore_serial (s : State) (r : Fin 288) (f : Core → Core) : (s.modCore r f).serial = s.serial := rfl
@[simp] theorem State.modCore_mem (s : State) (r : Fin 288) (f : Core → Core) : (s.modCore r f).mem = s.mem := rfl
@[simp] theorem State.modCore_ring (s : State) (r : Fin 288) (f : Core → Core) : (s.modCore r f).ring = s.ring := rfl
@[simp] theorem State.modCore_engines (s : State) (r : Fin 288) (f : Core → Core) : (s.modCore r f).engines = s.engines := rfl
@[simp] theorem State.modCore_prot (s : State) (r : Fin 288) (f : Core → Core) : (s.modCore r f).prot = s.prot := rfl
@[simp] theorem State.modCore_contexts (s : State) (r : Fin 288) (f : Core → Core) : (s.modCore r f).contexts = s.contexts := rfl
@[simp] theorem State.modCore_jobs (s : State) (r : Fin 288) (f : Core → Core) : (s.modCore r f).jobs = s.jobs := rfl
@[simp] theorem State.modCore_adds (s : State) (r : Fin 288) (f : Core → Core) : (s.modCore r f).adds = s.adds := rfl
@[simp] theorem State.modCore_gangs (s : State) (r : Fin 288) (f : Core → Core) : (s.modCore r f).gangs = s.gangs := rfl
@[simp] theorem State.modCore_bankq (s : State) (r : Fin 288) (f : Core → Core) : (s.modCore r f).bankq = s.bankq := rfl
@[simp] theorem State.modCore_resumes (s : State) (r : Fin 288) (f : Core → Core) : (s.modCore r f).resumes = s.resumes := rfl
@[simp] theorem State.modCore_evicting (s : State) (r : Fin 288) (f : Core → Core) : (s.modCore r f).evicting = s.evicting := rfl
@[simp] theorem State.modCore_tick (s : State) (r : Fin 288) (f : Core → Core) : (s.modCore r f).tick = s.tick := rfl
@[simp] theorem State.modCore_tickDue (s : State) (r : Fin 288) (f : Core → Core) : (s.modCore r f).tickDue = s.tickDue := rfl
@[simp] theorem State.modCore_tickAcc (s : State) (r : Fin 288) (f : Core → Core) : (s.modCore r f).tickAcc = s.tickAcc := rfl
@[simp] theorem State.modCore_preemptAt (s : State) (r : Fin 288) (f : Core → Core) : (s.modCore r f).preemptAt = s.preemptAt := rfl
@[simp] theorem State.modCore_freezing (s : State) (r : Fin 288) (f : Core → Core) : (s.modCore r f).freezing = s.freezing := rfl
@[simp] theorem State.modCore_mailbox (s : State) (r : Fin 288) (f : Core → Core) : (s.modCore r f).mailbox = s.mailbox := rfl
@[simp] theorem State.modCore_cairn (s : State) (r : Fin 288) (f : Core → Core) : (s.modCore r f).cairn = s.cairn := rfl
@[simp] theorem State.modCore_scree (s : State) (r : Fin 288) (f : Core → Core) : (s.modCore r f).scree = s.scree := rfl
@[simp] theorem State.modCore_screeSaved (s : State) (r : Fin 288) (f : Core → Core) : (s.modCore r f).screeSaved = s.screeSaved := rfl
@[simp] theorem State.modCore_mgmt (s : State) (r : Fin 288) (f : Core → Core) : (s.modCore r f).mgmt = s.mgmt := rfl
@[simp] theorem State.modCore_ptp (s : State) (r : Fin 288) (f : Core → Core) : (s.modCore r f).ptp = s.ptp := rfl
@[simp] theorem State.modCore_base (s : State) (r : Fin 288) (f : Core → Core) : (s.modCore r f).base = s.base := rfl
@[simp] theorem State.modCore_saved (s : State) (r : Fin 288) (f : Core → Core) : (s.modCore r f).saved = s.saved := rfl
@[simp] theorem State.modCore_raised (s : State) (r : Fin 288) (f : Core → Core) : (s.modCore r f).raised = s.raised := rfl
@[simp] theorem State.modCore_sent (s : State) (r : Fin 288) (f : Core → Core) : (s.modCore r f).sent = s.sent := rfl
@[simp] theorem State.modCore_links (s : State) (r : Fin 288) (f : Core → Core) : (s.modCore r f).links = s.links := rfl
@[simp] theorem State.modCore_linksDue (s : State) (r : Fin 288) (f : Core → Core) : (s.modCore r f).linksDue = s.linksDue := rfl
@[simp] theorem State.modCore_saveDue (s : State) (r : Fin 288) (f : Core → Core) : (s.modCore r f).saveDue = s.saveDue := rfl
@[simp] theorem State.modCore_bankTimes (s : State) (r : Fin 288) (f : Core → Core) : (s.modCore r f).bankTimes = s.bankTimes := rfl
@[simp] theorem State.modCore_poison (s : State) (r : Fin 288) (f : Core → Core) : (s.modCore r f).poison = s.poison := rfl
@[simp] theorem State.modCore_acks (s : State) (r : Fin 288) (f : Core → Core) : (s.modCore r f).acks = s.acks := rfl
@[simp] theorem State.modCore_inputs (s : State) (r : Fin 288) (f : Core → Core) : (s.modCore r f).inputs = s.inputs := rfl

@[simp] theorem State.setMe_now (s : State) (c : Core) : (s.setMe c).now = s.now := rfl
@[simp] theorem State.setMe_phase (s : State) (c : Core) : (s.setMe c).phase = s.phase := rfl
@[simp] theorem State.setMe_focus (s : State) (c : Core) : (s.setMe c).focus = s.focus := rfl
@[simp] theorem State.setMe_serial (s : State) (c : Core) : (s.setMe c).serial = s.serial := rfl
@[simp] theorem State.setMe_mem (s : State) (c : Core) : (s.setMe c).mem = s.mem := rfl
@[simp] theorem State.setMe_ring (s : State) (c : Core) : (s.setMe c).ring = s.ring := rfl
@[simp] theorem State.setMe_engines (s : State) (c : Core) : (s.setMe c).engines = s.engines := rfl
@[simp] theorem State.setMe_prot (s : State) (c : Core) : (s.setMe c).prot = s.prot := rfl
@[simp] theorem State.setMe_contexts (s : State) (c : Core) : (s.setMe c).contexts = s.contexts := rfl
@[simp] theorem State.setMe_jobs (s : State) (c : Core) : (s.setMe c).jobs = s.jobs := rfl
@[simp] theorem State.setMe_adds (s : State) (c : Core) : (s.setMe c).adds = s.adds := rfl
@[simp] theorem State.setMe_gangs (s : State) (c : Core) : (s.setMe c).gangs = s.gangs := rfl
@[simp] theorem State.setMe_bankq (s : State) (c : Core) : (s.setMe c).bankq = s.bankq := rfl
@[simp] theorem State.setMe_resumes (s : State) (c : Core) : (s.setMe c).resumes = s.resumes := rfl
@[simp] theorem State.setMe_evicting (s : State) (c : Core) : (s.setMe c).evicting = s.evicting := rfl
@[simp] theorem State.setMe_tick (s : State) (c : Core) : (s.setMe c).tick = s.tick := rfl
@[simp] theorem State.setMe_tickDue (s : State) (c : Core) : (s.setMe c).tickDue = s.tickDue := rfl
@[simp] theorem State.setMe_tickAcc (s : State) (c : Core) : (s.setMe c).tickAcc = s.tickAcc := rfl
@[simp] theorem State.setMe_preemptAt (s : State) (c : Core) : (s.setMe c).preemptAt = s.preemptAt := rfl
@[simp] theorem State.setMe_freezing (s : State) (c : Core) : (s.setMe c).freezing = s.freezing := rfl
@[simp] theorem State.setMe_mailbox (s : State) (c : Core) : (s.setMe c).mailbox = s.mailbox := rfl
@[simp] theorem State.setMe_cairn (s : State) (c : Core) : (s.setMe c).cairn = s.cairn := rfl
@[simp] theorem State.setMe_scree (s : State) (c : Core) : (s.setMe c).scree = s.scree := rfl
@[simp] theorem State.setMe_screeSaved (s : State) (c : Core) : (s.setMe c).screeSaved = s.screeSaved := rfl
@[simp] theorem State.setMe_mgmt (s : State) (c : Core) : (s.setMe c).mgmt = s.mgmt := rfl
@[simp] theorem State.setMe_ptp (s : State) (c : Core) : (s.setMe c).ptp = s.ptp := rfl
@[simp] theorem State.setMe_base (s : State) (c : Core) : (s.setMe c).base = s.base := rfl
@[simp] theorem State.setMe_saved (s : State) (c : Core) : (s.setMe c).saved = s.saved := rfl
@[simp] theorem State.setMe_raised (s : State) (c : Core) : (s.setMe c).raised = s.raised := rfl
@[simp] theorem State.setMe_sent (s : State) (c : Core) : (s.setMe c).sent = s.sent := rfl
@[simp] theorem State.setMe_links (s : State) (c : Core) : (s.setMe c).links = s.links := rfl
@[simp] theorem State.setMe_linksDue (s : State) (c : Core) : (s.setMe c).linksDue = s.linksDue := rfl
@[simp] theorem State.setMe_saveDue (s : State) (c : Core) : (s.setMe c).saveDue = s.saveDue := rfl
@[simp] theorem State.setMe_bankTimes (s : State) (c : Core) : (s.setMe c).bankTimes = s.bankTimes := rfl
@[simp] theorem State.setMe_poison (s : State) (c : Core) : (s.setMe c).poison = s.poison := rfl
@[simp] theorem State.setMe_acks (s : State) (c : Core) : (s.setMe c).acks = s.acks := rfl
@[simp] theorem State.setMe_inputs (s : State) (c : Core) : (s.setMe c).inputs = s.inputs := rfl

@[simp] theorem State.modMe_now (s : State) (f : Core → Core) : (s.modMe f).now = s.now := rfl
@[simp] theorem State.modMe_phase (s : State) (f : Core → Core) : (s.modMe f).phase = s.phase := rfl
@[simp] theorem State.modMe_focus (s : State) (f : Core → Core) : (s.modMe f).focus = s.focus := rfl
@[simp] theorem State.modMe_serial (s : State) (f : Core → Core) : (s.modMe f).serial = s.serial := rfl
@[simp] theorem State.modMe_mem (s : State) (f : Core → Core) : (s.modMe f).mem = s.mem := rfl
@[simp] theorem State.modMe_ring (s : State) (f : Core → Core) : (s.modMe f).ring = s.ring := rfl
@[simp] theorem State.modMe_engines (s : State) (f : Core → Core) : (s.modMe f).engines = s.engines := rfl
@[simp] theorem State.modMe_prot (s : State) (f : Core → Core) : (s.modMe f).prot = s.prot := rfl
@[simp] theorem State.modMe_contexts (s : State) (f : Core → Core) : (s.modMe f).contexts = s.contexts := rfl
@[simp] theorem State.modMe_jobs (s : State) (f : Core → Core) : (s.modMe f).jobs = s.jobs := rfl
@[simp] theorem State.modMe_adds (s : State) (f : Core → Core) : (s.modMe f).adds = s.adds := rfl
@[simp] theorem State.modMe_gangs (s : State) (f : Core → Core) : (s.modMe f).gangs = s.gangs := rfl
@[simp] theorem State.modMe_bankq (s : State) (f : Core → Core) : (s.modMe f).bankq = s.bankq := rfl
@[simp] theorem State.modMe_resumes (s : State) (f : Core → Core) : (s.modMe f).resumes = s.resumes := rfl
@[simp] theorem State.modMe_evicting (s : State) (f : Core → Core) : (s.modMe f).evicting = s.evicting := rfl
@[simp] theorem State.modMe_tick (s : State) (f : Core → Core) : (s.modMe f).tick = s.tick := rfl
@[simp] theorem State.modMe_tickDue (s : State) (f : Core → Core) : (s.modMe f).tickDue = s.tickDue := rfl
@[simp] theorem State.modMe_tickAcc (s : State) (f : Core → Core) : (s.modMe f).tickAcc = s.tickAcc := rfl
@[simp] theorem State.modMe_preemptAt (s : State) (f : Core → Core) : (s.modMe f).preemptAt = s.preemptAt := rfl
@[simp] theorem State.modMe_freezing (s : State) (f : Core → Core) : (s.modMe f).freezing = s.freezing := rfl
@[simp] theorem State.modMe_mailbox (s : State) (f : Core → Core) : (s.modMe f).mailbox = s.mailbox := rfl
@[simp] theorem State.modMe_cairn (s : State) (f : Core → Core) : (s.modMe f).cairn = s.cairn := rfl
@[simp] theorem State.modMe_scree (s : State) (f : Core → Core) : (s.modMe f).scree = s.scree := rfl
@[simp] theorem State.modMe_screeSaved (s : State) (f : Core → Core) : (s.modMe f).screeSaved = s.screeSaved := rfl
@[simp] theorem State.modMe_mgmt (s : State) (f : Core → Core) : (s.modMe f).mgmt = s.mgmt := rfl
@[simp] theorem State.modMe_ptp (s : State) (f : Core → Core) : (s.modMe f).ptp = s.ptp := rfl
@[simp] theorem State.modMe_base (s : State) (f : Core → Core) : (s.modMe f).base = s.base := rfl
@[simp] theorem State.modMe_saved (s : State) (f : Core → Core) : (s.modMe f).saved = s.saved := rfl
@[simp] theorem State.modMe_raised (s : State) (f : Core → Core) : (s.modMe f).raised = s.raised := rfl
@[simp] theorem State.modMe_sent (s : State) (f : Core → Core) : (s.modMe f).sent = s.sent := rfl
@[simp] theorem State.modMe_links (s : State) (f : Core → Core) : (s.modMe f).links = s.links := rfl
@[simp] theorem State.modMe_linksDue (s : State) (f : Core → Core) : (s.modMe f).linksDue = s.linksDue := rfl
@[simp] theorem State.modMe_saveDue (s : State) (f : Core → Core) : (s.modMe f).saveDue = s.saveDue := rfl
@[simp] theorem State.modMe_bankTimes (s : State) (f : Core → Core) : (s.modMe f).bankTimes = s.bankTimes := rfl
@[simp] theorem State.modMe_poison (s : State) (f : Core → Core) : (s.modMe f).poison = s.poison := rfl
@[simp] theorem State.modMe_acks (s : State) (f : Core → Core) : (s.modMe f).acks = s.acks := rfl
@[simp] theorem State.modMe_inputs (s : State) (f : Core → Core) : (s.modMe f).inputs = s.inputs := rfl

@[simp] theorem State.bump_now (s : State) : (s.bump).now = s.now := rfl
@[simp] theorem State.bump_phase (s : State) : (s.bump).phase = s.phase := rfl
@[simp] theorem State.bump_focus (s : State) : (s.bump).focus = s.focus := rfl
@[simp] theorem State.bump_cores (s : State) : (s.bump).cores = s.cores := rfl
@[simp] theorem State.bump_mem (s : State) : (s.bump).mem = s.mem := rfl
@[simp] theorem State.bump_ring (s : State) : (s.bump).ring = s.ring := rfl
@[simp] theorem State.bump_engines (s : State) : (s.bump).engines = s.engines := rfl
@[simp] theorem State.bump_prot (s : State) : (s.bump).prot = s.prot := rfl
@[simp] theorem State.bump_contexts (s : State) : (s.bump).contexts = s.contexts := rfl
@[simp] theorem State.bump_jobs (s : State) : (s.bump).jobs = s.jobs := rfl
@[simp] theorem State.bump_adds (s : State) : (s.bump).adds = s.adds := rfl
@[simp] theorem State.bump_gangs (s : State) : (s.bump).gangs = s.gangs := rfl
@[simp] theorem State.bump_bankq (s : State) : (s.bump).bankq = s.bankq := rfl
@[simp] theorem State.bump_resumes (s : State) : (s.bump).resumes = s.resumes := rfl
@[simp] theorem State.bump_evicting (s : State) : (s.bump).evicting = s.evicting := rfl
@[simp] theorem State.bump_tick (s : State) : (s.bump).tick = s.tick := rfl
@[simp] theorem State.bump_tickDue (s : State) : (s.bump).tickDue = s.tickDue := rfl
@[simp] theorem State.bump_tickAcc (s : State) : (s.bump).tickAcc = s.tickAcc := rfl
@[simp] theorem State.bump_preemptAt (s : State) : (s.bump).preemptAt = s.preemptAt := rfl
@[simp] theorem State.bump_freezing (s : State) : (s.bump).freezing = s.freezing := rfl
@[simp] theorem State.bump_mailbox (s : State) : (s.bump).mailbox = s.mailbox := rfl
@[simp] theorem State.bump_cairn (s : State) : (s.bump).cairn = s.cairn := rfl
@[simp] theorem State.bump_scree (s : State) : (s.bump).scree = s.scree := rfl
@[simp] theorem State.bump_screeSaved (s : State) : (s.bump).screeSaved = s.screeSaved := rfl
@[simp] theorem State.bump_mgmt (s : State) : (s.bump).mgmt = s.mgmt := rfl
@[simp] theorem State.bump_ptp (s : State) : (s.bump).ptp = s.ptp := rfl
@[simp] theorem State.bump_base (s : State) : (s.bump).base = s.base := rfl
@[simp] theorem State.bump_saved (s : State) : (s.bump).saved = s.saved := rfl
@[simp] theorem State.bump_raised (s : State) : (s.bump).raised = s.raised := rfl
@[simp] theorem State.bump_sent (s : State) : (s.bump).sent = s.sent := rfl
@[simp] theorem State.bump_links (s : State) : (s.bump).links = s.links := rfl
@[simp] theorem State.bump_linksDue (s : State) : (s.bump).linksDue = s.linksDue := rfl
@[simp] theorem State.bump_saveDue (s : State) : (s.bump).saveDue = s.saveDue := rfl
@[simp] theorem State.bump_bankTimes (s : State) : (s.bump).bankTimes = s.bankTimes := rfl
@[simp] theorem State.bump_poison (s : State) : (s.bump).poison = s.poison := rfl
@[simp] theorem State.bump_acks (s : State) : (s.bump).acks = s.acks := rfl
@[simp] theorem State.bump_inputs (s : State) : (s.bump).inputs = s.inputs := rfl

@[simp] theorem State.modCtx_now (s : State) (id : BitVec 16) (f : Context → Context) : (s.modCtx id f).now = s.now := rfl
@[simp] theorem State.modCtx_phase (s : State) (id : BitVec 16) (f : Context → Context) : (s.modCtx id f).phase = s.phase := rfl
@[simp] theorem State.modCtx_focus (s : State) (id : BitVec 16) (f : Context → Context) : (s.modCtx id f).focus = s.focus := rfl
@[simp] theorem State.modCtx_serial (s : State) (id : BitVec 16) (f : Context → Context) : (s.modCtx id f).serial = s.serial := rfl
@[simp] theorem State.modCtx_cores (s : State) (id : BitVec 16) (f : Context → Context) : (s.modCtx id f).cores = s.cores := rfl
@[simp] theorem State.modCtx_mem (s : State) (id : BitVec 16) (f : Context → Context) : (s.modCtx id f).mem = s.mem := rfl
@[simp] theorem State.modCtx_ring (s : State) (id : BitVec 16) (f : Context → Context) : (s.modCtx id f).ring = s.ring := rfl
@[simp] theorem State.modCtx_engines (s : State) (id : BitVec 16) (f : Context → Context) : (s.modCtx id f).engines = s.engines := rfl
@[simp] theorem State.modCtx_prot (s : State) (id : BitVec 16) (f : Context → Context) : (s.modCtx id f).prot = s.prot := rfl
@[simp] theorem State.modCtx_jobs (s : State) (id : BitVec 16) (f : Context → Context) : (s.modCtx id f).jobs = s.jobs := rfl
@[simp] theorem State.modCtx_adds (s : State) (id : BitVec 16) (f : Context → Context) : (s.modCtx id f).adds = s.adds := rfl
@[simp] theorem State.modCtx_gangs (s : State) (id : BitVec 16) (f : Context → Context) : (s.modCtx id f).gangs = s.gangs := rfl
@[simp] theorem State.modCtx_bankq (s : State) (id : BitVec 16) (f : Context → Context) : (s.modCtx id f).bankq = s.bankq := rfl
@[simp] theorem State.modCtx_resumes (s : State) (id : BitVec 16) (f : Context → Context) : (s.modCtx id f).resumes = s.resumes := rfl
@[simp] theorem State.modCtx_evicting (s : State) (id : BitVec 16) (f : Context → Context) : (s.modCtx id f).evicting = s.evicting := rfl
@[simp] theorem State.modCtx_tick (s : State) (id : BitVec 16) (f : Context → Context) : (s.modCtx id f).tick = s.tick := rfl
@[simp] theorem State.modCtx_tickDue (s : State) (id : BitVec 16) (f : Context → Context) : (s.modCtx id f).tickDue = s.tickDue := rfl
@[simp] theorem State.modCtx_tickAcc (s : State) (id : BitVec 16) (f : Context → Context) : (s.modCtx id f).tickAcc = s.tickAcc := rfl
@[simp] theorem State.modCtx_preemptAt (s : State) (id : BitVec 16) (f : Context → Context) : (s.modCtx id f).preemptAt = s.preemptAt := rfl
@[simp] theorem State.modCtx_freezing (s : State) (id : BitVec 16) (f : Context → Context) : (s.modCtx id f).freezing = s.freezing := rfl
@[simp] theorem State.modCtx_mailbox (s : State) (id : BitVec 16) (f : Context → Context) : (s.modCtx id f).mailbox = s.mailbox := rfl
@[simp] theorem State.modCtx_cairn (s : State) (id : BitVec 16) (f : Context → Context) : (s.modCtx id f).cairn = s.cairn := rfl
@[simp] theorem State.modCtx_scree (s : State) (id : BitVec 16) (f : Context → Context) : (s.modCtx id f).scree = s.scree := rfl
@[simp] theorem State.modCtx_screeSaved (s : State) (id : BitVec 16) (f : Context → Context) : (s.modCtx id f).screeSaved = s.screeSaved := rfl
@[simp] theorem State.modCtx_mgmt (s : State) (id : BitVec 16) (f : Context → Context) : (s.modCtx id f).mgmt = s.mgmt := rfl
@[simp] theorem State.modCtx_ptp (s : State) (id : BitVec 16) (f : Context → Context) : (s.modCtx id f).ptp = s.ptp := rfl
@[simp] theorem State.modCtx_base (s : State) (id : BitVec 16) (f : Context → Context) : (s.modCtx id f).base = s.base := rfl
@[simp] theorem State.modCtx_saved (s : State) (id : BitVec 16) (f : Context → Context) : (s.modCtx id f).saved = s.saved := rfl
@[simp] theorem State.modCtx_raised (s : State) (id : BitVec 16) (f : Context → Context) : (s.modCtx id f).raised = s.raised := rfl
@[simp] theorem State.modCtx_sent (s : State) (id : BitVec 16) (f : Context → Context) : (s.modCtx id f).sent = s.sent := rfl
@[simp] theorem State.modCtx_links (s : State) (id : BitVec 16) (f : Context → Context) : (s.modCtx id f).links = s.links := rfl
@[simp] theorem State.modCtx_linksDue (s : State) (id : BitVec 16) (f : Context → Context) : (s.modCtx id f).linksDue = s.linksDue := rfl
@[simp] theorem State.modCtx_saveDue (s : State) (id : BitVec 16) (f : Context → Context) : (s.modCtx id f).saveDue = s.saveDue := rfl
@[simp] theorem State.modCtx_bankTimes (s : State) (id : BitVec 16) (f : Context → Context) : (s.modCtx id f).bankTimes = s.bankTimes := rfl
@[simp] theorem State.modCtx_poison (s : State) (id : BitVec 16) (f : Context → Context) : (s.modCtx id f).poison = s.poison := rfl
@[simp] theorem State.modCtx_acks (s : State) (id : BitVec 16) (f : Context → Context) : (s.modCtx id f).acks = s.acks := rfl
@[simp] theorem State.modCtx_inputs (s : State) (id : BitVec 16) (f : Context → Context) : (s.modCtx id f).inputs = s.inputs := rfl

@[simp] theorem State.modJob_now (s : State) (id : Nat) (f : Job → Job) : (s.modJob id f).now = s.now := rfl
@[simp] theorem State.modJob_phase (s : State) (id : Nat) (f : Job → Job) : (s.modJob id f).phase = s.phase := rfl
@[simp] theorem State.modJob_focus (s : State) (id : Nat) (f : Job → Job) : (s.modJob id f).focus = s.focus := rfl
@[simp] theorem State.modJob_serial (s : State) (id : Nat) (f : Job → Job) : (s.modJob id f).serial = s.serial := rfl
@[simp] theorem State.modJob_cores (s : State) (id : Nat) (f : Job → Job) : (s.modJob id f).cores = s.cores := rfl
@[simp] theorem State.modJob_mem (s : State) (id : Nat) (f : Job → Job) : (s.modJob id f).mem = s.mem := rfl
@[simp] theorem State.modJob_ring (s : State) (id : Nat) (f : Job → Job) : (s.modJob id f).ring = s.ring := rfl
@[simp] theorem State.modJob_engines (s : State) (id : Nat) (f : Job → Job) : (s.modJob id f).engines = s.engines := rfl
@[simp] theorem State.modJob_prot (s : State) (id : Nat) (f : Job → Job) : (s.modJob id f).prot = s.prot := rfl
@[simp] theorem State.modJob_contexts (s : State) (id : Nat) (f : Job → Job) : (s.modJob id f).contexts = s.contexts := rfl
@[simp] theorem State.modJob_adds (s : State) (id : Nat) (f : Job → Job) : (s.modJob id f).adds = s.adds := rfl
@[simp] theorem State.modJob_gangs (s : State) (id : Nat) (f : Job → Job) : (s.modJob id f).gangs = s.gangs := rfl
@[simp] theorem State.modJob_bankq (s : State) (id : Nat) (f : Job → Job) : (s.modJob id f).bankq = s.bankq := rfl
@[simp] theorem State.modJob_resumes (s : State) (id : Nat) (f : Job → Job) : (s.modJob id f).resumes = s.resumes := rfl
@[simp] theorem State.modJob_evicting (s : State) (id : Nat) (f : Job → Job) : (s.modJob id f).evicting = s.evicting := rfl
@[simp] theorem State.modJob_tick (s : State) (id : Nat) (f : Job → Job) : (s.modJob id f).tick = s.tick := rfl
@[simp] theorem State.modJob_tickDue (s : State) (id : Nat) (f : Job → Job) : (s.modJob id f).tickDue = s.tickDue := rfl
@[simp] theorem State.modJob_tickAcc (s : State) (id : Nat) (f : Job → Job) : (s.modJob id f).tickAcc = s.tickAcc := rfl
@[simp] theorem State.modJob_preemptAt (s : State) (id : Nat) (f : Job → Job) : (s.modJob id f).preemptAt = s.preemptAt := rfl
@[simp] theorem State.modJob_freezing (s : State) (id : Nat) (f : Job → Job) : (s.modJob id f).freezing = s.freezing := rfl
@[simp] theorem State.modJob_mailbox (s : State) (id : Nat) (f : Job → Job) : (s.modJob id f).mailbox = s.mailbox := rfl
@[simp] theorem State.modJob_cairn (s : State) (id : Nat) (f : Job → Job) : (s.modJob id f).cairn = s.cairn := rfl
@[simp] theorem State.modJob_scree (s : State) (id : Nat) (f : Job → Job) : (s.modJob id f).scree = s.scree := rfl
@[simp] theorem State.modJob_screeSaved (s : State) (id : Nat) (f : Job → Job) : (s.modJob id f).screeSaved = s.screeSaved := rfl
@[simp] theorem State.modJob_mgmt (s : State) (id : Nat) (f : Job → Job) : (s.modJob id f).mgmt = s.mgmt := rfl
@[simp] theorem State.modJob_ptp (s : State) (id : Nat) (f : Job → Job) : (s.modJob id f).ptp = s.ptp := rfl
@[simp] theorem State.modJob_base (s : State) (id : Nat) (f : Job → Job) : (s.modJob id f).base = s.base := rfl
@[simp] theorem State.modJob_saved (s : State) (id : Nat) (f : Job → Job) : (s.modJob id f).saved = s.saved := rfl
@[simp] theorem State.modJob_raised (s : State) (id : Nat) (f : Job → Job) : (s.modJob id f).raised = s.raised := rfl
@[simp] theorem State.modJob_sent (s : State) (id : Nat) (f : Job → Job) : (s.modJob id f).sent = s.sent := rfl
@[simp] theorem State.modJob_links (s : State) (id : Nat) (f : Job → Job) : (s.modJob id f).links = s.links := rfl
@[simp] theorem State.modJob_linksDue (s : State) (id : Nat) (f : Job → Job) : (s.modJob id f).linksDue = s.linksDue := rfl
@[simp] theorem State.modJob_saveDue (s : State) (id : Nat) (f : Job → Job) : (s.modJob id f).saveDue = s.saveDue := rfl
@[simp] theorem State.modJob_bankTimes (s : State) (id : Nat) (f : Job → Job) : (s.modJob id f).bankTimes = s.bankTimes := rfl
@[simp] theorem State.modJob_poison (s : State) (id : Nat) (f : Job → Job) : (s.modJob id f).poison = s.poison := rfl
@[simp] theorem State.modJob_acks (s : State) (id : Nat) (f : Job → Job) : (s.modJob id f).acks = s.acks := rfl
@[simp] theorem State.modJob_inputs (s : State) (id : Nat) (f : Job → Job) : (s.modJob id f).inputs = s.inputs := rfl

@[simp] theorem State.modEngine_now (s : State) (e : Fin 96) (f : Engine → Engine) : (s.modEngine e f).now = s.now := rfl
@[simp] theorem State.modEngine_phase (s : State) (e : Fin 96) (f : Engine → Engine) : (s.modEngine e f).phase = s.phase := rfl
@[simp] theorem State.modEngine_focus (s : State) (e : Fin 96) (f : Engine → Engine) : (s.modEngine e f).focus = s.focus := rfl
@[simp] theorem State.modEngine_serial (s : State) (e : Fin 96) (f : Engine → Engine) : (s.modEngine e f).serial = s.serial := rfl
@[simp] theorem State.modEngine_cores (s : State) (e : Fin 96) (f : Engine → Engine) : (s.modEngine e f).cores = s.cores := rfl
@[simp] theorem State.modEngine_mem (s : State) (e : Fin 96) (f : Engine → Engine) : (s.modEngine e f).mem = s.mem := rfl
@[simp] theorem State.modEngine_ring (s : State) (e : Fin 96) (f : Engine → Engine) : (s.modEngine e f).ring = s.ring := rfl
@[simp] theorem State.modEngine_prot (s : State) (e : Fin 96) (f : Engine → Engine) : (s.modEngine e f).prot = s.prot := rfl
@[simp] theorem State.modEngine_contexts (s : State) (e : Fin 96) (f : Engine → Engine) : (s.modEngine e f).contexts = s.contexts := rfl
@[simp] theorem State.modEngine_jobs (s : State) (e : Fin 96) (f : Engine → Engine) : (s.modEngine e f).jobs = s.jobs := rfl
@[simp] theorem State.modEngine_adds (s : State) (e : Fin 96) (f : Engine → Engine) : (s.modEngine e f).adds = s.adds := rfl
@[simp] theorem State.modEngine_gangs (s : State) (e : Fin 96) (f : Engine → Engine) : (s.modEngine e f).gangs = s.gangs := rfl
@[simp] theorem State.modEngine_bankq (s : State) (e : Fin 96) (f : Engine → Engine) : (s.modEngine e f).bankq = s.bankq := rfl
@[simp] theorem State.modEngine_resumes (s : State) (e : Fin 96) (f : Engine → Engine) : (s.modEngine e f).resumes = s.resumes := rfl
@[simp] theorem State.modEngine_evicting (s : State) (e : Fin 96) (f : Engine → Engine) : (s.modEngine e f).evicting = s.evicting := rfl
@[simp] theorem State.modEngine_tick (s : State) (e : Fin 96) (f : Engine → Engine) : (s.modEngine e f).tick = s.tick := rfl
@[simp] theorem State.modEngine_tickDue (s : State) (e : Fin 96) (f : Engine → Engine) : (s.modEngine e f).tickDue = s.tickDue := rfl
@[simp] theorem State.modEngine_tickAcc (s : State) (e : Fin 96) (f : Engine → Engine) : (s.modEngine e f).tickAcc = s.tickAcc := rfl
@[simp] theorem State.modEngine_preemptAt (s : State) (e : Fin 96) (f : Engine → Engine) : (s.modEngine e f).preemptAt = s.preemptAt := rfl
@[simp] theorem State.modEngine_freezing (s : State) (e : Fin 96) (f : Engine → Engine) : (s.modEngine e f).freezing = s.freezing := rfl
@[simp] theorem State.modEngine_mailbox (s : State) (e : Fin 96) (f : Engine → Engine) : (s.modEngine e f).mailbox = s.mailbox := rfl
@[simp] theorem State.modEngine_cairn (s : State) (e : Fin 96) (f : Engine → Engine) : (s.modEngine e f).cairn = s.cairn := rfl
@[simp] theorem State.modEngine_scree (s : State) (e : Fin 96) (f : Engine → Engine) : (s.modEngine e f).scree = s.scree := rfl
@[simp] theorem State.modEngine_screeSaved (s : State) (e : Fin 96) (f : Engine → Engine) : (s.modEngine e f).screeSaved = s.screeSaved := rfl
@[simp] theorem State.modEngine_mgmt (s : State) (e : Fin 96) (f : Engine → Engine) : (s.modEngine e f).mgmt = s.mgmt := rfl
@[simp] theorem State.modEngine_ptp (s : State) (e : Fin 96) (f : Engine → Engine) : (s.modEngine e f).ptp = s.ptp := rfl
@[simp] theorem State.modEngine_base (s : State) (e : Fin 96) (f : Engine → Engine) : (s.modEngine e f).base = s.base := rfl
@[simp] theorem State.modEngine_saved (s : State) (e : Fin 96) (f : Engine → Engine) : (s.modEngine e f).saved = s.saved := rfl
@[simp] theorem State.modEngine_raised (s : State) (e : Fin 96) (f : Engine → Engine) : (s.modEngine e f).raised = s.raised := rfl
@[simp] theorem State.modEngine_sent (s : State) (e : Fin 96) (f : Engine → Engine) : (s.modEngine e f).sent = s.sent := rfl
@[simp] theorem State.modEngine_links (s : State) (e : Fin 96) (f : Engine → Engine) : (s.modEngine e f).links = s.links := rfl
@[simp] theorem State.modEngine_linksDue (s : State) (e : Fin 96) (f : Engine → Engine) : (s.modEngine e f).linksDue = s.linksDue := rfl
@[simp] theorem State.modEngine_saveDue (s : State) (e : Fin 96) (f : Engine → Engine) : (s.modEngine e f).saveDue = s.saveDue := rfl
@[simp] theorem State.modEngine_bankTimes (s : State) (e : Fin 96) (f : Engine → Engine) : (s.modEngine e f).bankTimes = s.bankTimes := rfl
@[simp] theorem State.modEngine_poison (s : State) (e : Fin 96) (f : Engine → Engine) : (s.modEngine e f).poison = s.poison := rfl
@[simp] theorem State.modEngine_acks (s : State) (e : Fin 96) (f : Engine → Engine) : (s.modEngine e f).acks = s.acks := rfl
@[simp] theorem State.modEngine_inputs (s : State) (e : Fin 96) (f : Engine → Engine) : (s.modEngine e f).inputs = s.inputs := rfl

@[simp] theorem State.raise_now (s : State) (v : Nat) : (s.raise v).now = s.now := rfl
@[simp] theorem State.raise_phase (s : State) (v : Nat) : (s.raise v).phase = s.phase := rfl
@[simp] theorem State.raise_focus (s : State) (v : Nat) : (s.raise v).focus = s.focus := rfl
@[simp] theorem State.raise_serial (s : State) (v : Nat) : (s.raise v).serial = s.serial := rfl
@[simp] theorem State.raise_cores (s : State) (v : Nat) : (s.raise v).cores = s.cores := rfl
@[simp] theorem State.raise_mem (s : State) (v : Nat) : (s.raise v).mem = s.mem := rfl
@[simp] theorem State.raise_ring (s : State) (v : Nat) : (s.raise v).ring = s.ring := rfl
@[simp] theorem State.raise_engines (s : State) (v : Nat) : (s.raise v).engines = s.engines := rfl
@[simp] theorem State.raise_prot (s : State) (v : Nat) : (s.raise v).prot = s.prot := rfl
@[simp] theorem State.raise_contexts (s : State) (v : Nat) : (s.raise v).contexts = s.contexts := rfl
@[simp] theorem State.raise_jobs (s : State) (v : Nat) : (s.raise v).jobs = s.jobs := rfl
@[simp] theorem State.raise_adds (s : State) (v : Nat) : (s.raise v).adds = s.adds := rfl
@[simp] theorem State.raise_gangs (s : State) (v : Nat) : (s.raise v).gangs = s.gangs := rfl
@[simp] theorem State.raise_bankq (s : State) (v : Nat) : (s.raise v).bankq = s.bankq := rfl
@[simp] theorem State.raise_resumes (s : State) (v : Nat) : (s.raise v).resumes = s.resumes := rfl
@[simp] theorem State.raise_evicting (s : State) (v : Nat) : (s.raise v).evicting = s.evicting := rfl
@[simp] theorem State.raise_tick (s : State) (v : Nat) : (s.raise v).tick = s.tick := rfl
@[simp] theorem State.raise_tickDue (s : State) (v : Nat) : (s.raise v).tickDue = s.tickDue := rfl
@[simp] theorem State.raise_tickAcc (s : State) (v : Nat) : (s.raise v).tickAcc = s.tickAcc := rfl
@[simp] theorem State.raise_preemptAt (s : State) (v : Nat) : (s.raise v).preemptAt = s.preemptAt := rfl
@[simp] theorem State.raise_freezing (s : State) (v : Nat) : (s.raise v).freezing = s.freezing := rfl
@[simp] theorem State.raise_mailbox (s : State) (v : Nat) : (s.raise v).mailbox = s.mailbox := rfl
@[simp] theorem State.raise_cairn (s : State) (v : Nat) : (s.raise v).cairn = s.cairn := rfl
@[simp] theorem State.raise_scree (s : State) (v : Nat) : (s.raise v).scree = s.scree := rfl
@[simp] theorem State.raise_screeSaved (s : State) (v : Nat) : (s.raise v).screeSaved = s.screeSaved := rfl
@[simp] theorem State.raise_mgmt (s : State) (v : Nat) : (s.raise v).mgmt = s.mgmt := rfl
@[simp] theorem State.raise_ptp (s : State) (v : Nat) : (s.raise v).ptp = s.ptp := rfl
@[simp] theorem State.raise_base (s : State) (v : Nat) : (s.raise v).base = s.base := rfl
@[simp] theorem State.raise_saved (s : State) (v : Nat) : (s.raise v).saved = s.saved := rfl
@[simp] theorem State.raise_sent (s : State) (v : Nat) : (s.raise v).sent = s.sent := rfl
@[simp] theorem State.raise_links (s : State) (v : Nat) : (s.raise v).links = s.links := rfl
@[simp] theorem State.raise_linksDue (s : State) (v : Nat) : (s.raise v).linksDue = s.linksDue := rfl
@[simp] theorem State.raise_saveDue (s : State) (v : Nat) : (s.raise v).saveDue = s.saveDue := rfl
@[simp] theorem State.raise_bankTimes (s : State) (v : Nat) : (s.raise v).bankTimes = s.bankTimes := rfl
@[simp] theorem State.raise_poison (s : State) (v : Nat) : (s.raise v).poison = s.poison := rfl
@[simp] theorem State.raise_acks (s : State) (v : Nat) : (s.raise v).acks = s.acks := rfl
@[simp] theorem State.raise_inputs (s : State) (v : Nat) : (s.raise v).inputs = s.inputs := rfl

@[simp] theorem State.latch_now (s : State) (lat : Nat) (k : LatchKind) (fl : BitVec 6) : (s.latch lat k fl).now = s.now := rfl
@[simp] theorem State.latch_phase (s : State) (lat : Nat) (k : LatchKind) (fl : BitVec 6) : (s.latch lat k fl).phase = s.phase := rfl
@[simp] theorem State.latch_focus (s : State) (lat : Nat) (k : LatchKind) (fl : BitVec 6) : (s.latch lat k fl).focus = s.focus := rfl
@[simp] theorem State.latch_serial (s : State) (lat : Nat) (k : LatchKind) (fl : BitVec 6) : (s.latch lat k fl).serial = s.serial := rfl
@[simp] theorem State.latch_mem (s : State) (lat : Nat) (k : LatchKind) (fl : BitVec 6) : (s.latch lat k fl).mem = s.mem := rfl
@[simp] theorem State.latch_ring (s : State) (lat : Nat) (k : LatchKind) (fl : BitVec 6) : (s.latch lat k fl).ring = s.ring := rfl
@[simp] theorem State.latch_engines (s : State) (lat : Nat) (k : LatchKind) (fl : BitVec 6) : (s.latch lat k fl).engines = s.engines := rfl
@[simp] theorem State.latch_prot (s : State) (lat : Nat) (k : LatchKind) (fl : BitVec 6) : (s.latch lat k fl).prot = s.prot := rfl
@[simp] theorem State.latch_contexts (s : State) (lat : Nat) (k : LatchKind) (fl : BitVec 6) : (s.latch lat k fl).contexts = s.contexts := rfl
@[simp] theorem State.latch_jobs (s : State) (lat : Nat) (k : LatchKind) (fl : BitVec 6) : (s.latch lat k fl).jobs = s.jobs := rfl
@[simp] theorem State.latch_adds (s : State) (lat : Nat) (k : LatchKind) (fl : BitVec 6) : (s.latch lat k fl).adds = s.adds := rfl
@[simp] theorem State.latch_gangs (s : State) (lat : Nat) (k : LatchKind) (fl : BitVec 6) : (s.latch lat k fl).gangs = s.gangs := rfl
@[simp] theorem State.latch_bankq (s : State) (lat : Nat) (k : LatchKind) (fl : BitVec 6) : (s.latch lat k fl).bankq = s.bankq := rfl
@[simp] theorem State.latch_resumes (s : State) (lat : Nat) (k : LatchKind) (fl : BitVec 6) : (s.latch lat k fl).resumes = s.resumes := rfl
@[simp] theorem State.latch_evicting (s : State) (lat : Nat) (k : LatchKind) (fl : BitVec 6) : (s.latch lat k fl).evicting = s.evicting := rfl
@[simp] theorem State.latch_tick (s : State) (lat : Nat) (k : LatchKind) (fl : BitVec 6) : (s.latch lat k fl).tick = s.tick := rfl
@[simp] theorem State.latch_tickDue (s : State) (lat : Nat) (k : LatchKind) (fl : BitVec 6) : (s.latch lat k fl).tickDue = s.tickDue := rfl
@[simp] theorem State.latch_tickAcc (s : State) (lat : Nat) (k : LatchKind) (fl : BitVec 6) : (s.latch lat k fl).tickAcc = s.tickAcc := rfl
@[simp] theorem State.latch_preemptAt (s : State) (lat : Nat) (k : LatchKind) (fl : BitVec 6) : (s.latch lat k fl).preemptAt = s.preemptAt := rfl
@[simp] theorem State.latch_freezing (s : State) (lat : Nat) (k : LatchKind) (fl : BitVec 6) : (s.latch lat k fl).freezing = s.freezing := rfl
@[simp] theorem State.latch_mailbox (s : State) (lat : Nat) (k : LatchKind) (fl : BitVec 6) : (s.latch lat k fl).mailbox = s.mailbox := rfl
@[simp] theorem State.latch_cairn (s : State) (lat : Nat) (k : LatchKind) (fl : BitVec 6) : (s.latch lat k fl).cairn = s.cairn := rfl
@[simp] theorem State.latch_scree (s : State) (lat : Nat) (k : LatchKind) (fl : BitVec 6) : (s.latch lat k fl).scree = s.scree := rfl
@[simp] theorem State.latch_screeSaved (s : State) (lat : Nat) (k : LatchKind) (fl : BitVec 6) : (s.latch lat k fl).screeSaved = s.screeSaved := rfl
@[simp] theorem State.latch_mgmt (s : State) (lat : Nat) (k : LatchKind) (fl : BitVec 6) : (s.latch lat k fl).mgmt = s.mgmt := rfl
@[simp] theorem State.latch_ptp (s : State) (lat : Nat) (k : LatchKind) (fl : BitVec 6) : (s.latch lat k fl).ptp = s.ptp := rfl
@[simp] theorem State.latch_base (s : State) (lat : Nat) (k : LatchKind) (fl : BitVec 6) : (s.latch lat k fl).base = s.base := rfl
@[simp] theorem State.latch_saved (s : State) (lat : Nat) (k : LatchKind) (fl : BitVec 6) : (s.latch lat k fl).saved = s.saved := rfl
@[simp] theorem State.latch_raised (s : State) (lat : Nat) (k : LatchKind) (fl : BitVec 6) : (s.latch lat k fl).raised = s.raised := rfl
@[simp] theorem State.latch_sent (s : State) (lat : Nat) (k : LatchKind) (fl : BitVec 6) : (s.latch lat k fl).sent = s.sent := rfl
@[simp] theorem State.latch_links (s : State) (lat : Nat) (k : LatchKind) (fl : BitVec 6) : (s.latch lat k fl).links = s.links := rfl
@[simp] theorem State.latch_linksDue (s : State) (lat : Nat) (k : LatchKind) (fl : BitVec 6) : (s.latch lat k fl).linksDue = s.linksDue := rfl
@[simp] theorem State.latch_saveDue (s : State) (lat : Nat) (k : LatchKind) (fl : BitVec 6) : (s.latch lat k fl).saveDue = s.saveDue := rfl
@[simp] theorem State.latch_bankTimes (s : State) (lat : Nat) (k : LatchKind) (fl : BitVec 6) : (s.latch lat k fl).bankTimes = s.bankTimes := rfl
@[simp] theorem State.latch_poison (s : State) (lat : Nat) (k : LatchKind) (fl : BitVec 6) : (s.latch lat k fl).poison = s.poison := rfl
@[simp] theorem State.latch_acks (s : State) (lat : Nat) (k : LatchKind) (fl : BitVec 6) : (s.latch lat k fl).acks = s.acks := rfl
@[simp] theorem State.latch_inputs (s : State) (lat : Nat) (k : LatchKind) (fl : BitVec 6) : (s.latch lat k fl).inputs = s.inputs := rfl

@[simp] theorem State.latchS_now (s : State) (lat : Nat) (d : BitVec 6) (x : W64) : (s.latchS lat d x).now = s.now := rfl
@[simp] theorem State.latchS_phase (s : State) (lat : Nat) (d : BitVec 6) (x : W64) : (s.latchS lat d x).phase = s.phase := rfl
@[simp] theorem State.latchS_focus (s : State) (lat : Nat) (d : BitVec 6) (x : W64) : (s.latchS lat d x).focus = s.focus := rfl
@[simp] theorem State.latchS_serial (s : State) (lat : Nat) (d : BitVec 6) (x : W64) : (s.latchS lat d x).serial = s.serial := rfl
@[simp] theorem State.latchS_mem (s : State) (lat : Nat) (d : BitVec 6) (x : W64) : (s.latchS lat d x).mem = s.mem := rfl
@[simp] theorem State.latchS_ring (s : State) (lat : Nat) (d : BitVec 6) (x : W64) : (s.latchS lat d x).ring = s.ring := rfl
@[simp] theorem State.latchS_engines (s : State) (lat : Nat) (d : BitVec 6) (x : W64) : (s.latchS lat d x).engines = s.engines := rfl
@[simp] theorem State.latchS_prot (s : State) (lat : Nat) (d : BitVec 6) (x : W64) : (s.latchS lat d x).prot = s.prot := rfl
@[simp] theorem State.latchS_contexts (s : State) (lat : Nat) (d : BitVec 6) (x : W64) : (s.latchS lat d x).contexts = s.contexts := rfl
@[simp] theorem State.latchS_jobs (s : State) (lat : Nat) (d : BitVec 6) (x : W64) : (s.latchS lat d x).jobs = s.jobs := rfl
@[simp] theorem State.latchS_adds (s : State) (lat : Nat) (d : BitVec 6) (x : W64) : (s.latchS lat d x).adds = s.adds := rfl
@[simp] theorem State.latchS_gangs (s : State) (lat : Nat) (d : BitVec 6) (x : W64) : (s.latchS lat d x).gangs = s.gangs := rfl
@[simp] theorem State.latchS_bankq (s : State) (lat : Nat) (d : BitVec 6) (x : W64) : (s.latchS lat d x).bankq = s.bankq := rfl
@[simp] theorem State.latchS_resumes (s : State) (lat : Nat) (d : BitVec 6) (x : W64) : (s.latchS lat d x).resumes = s.resumes := rfl
@[simp] theorem State.latchS_evicting (s : State) (lat : Nat) (d : BitVec 6) (x : W64) : (s.latchS lat d x).evicting = s.evicting := rfl
@[simp] theorem State.latchS_tick (s : State) (lat : Nat) (d : BitVec 6) (x : W64) : (s.latchS lat d x).tick = s.tick := rfl
@[simp] theorem State.latchS_tickDue (s : State) (lat : Nat) (d : BitVec 6) (x : W64) : (s.latchS lat d x).tickDue = s.tickDue := rfl
@[simp] theorem State.latchS_tickAcc (s : State) (lat : Nat) (d : BitVec 6) (x : W64) : (s.latchS lat d x).tickAcc = s.tickAcc := rfl
@[simp] theorem State.latchS_preemptAt (s : State) (lat : Nat) (d : BitVec 6) (x : W64) : (s.latchS lat d x).preemptAt = s.preemptAt := rfl
@[simp] theorem State.latchS_freezing (s : State) (lat : Nat) (d : BitVec 6) (x : W64) : (s.latchS lat d x).freezing = s.freezing := rfl
@[simp] theorem State.latchS_mailbox (s : State) (lat : Nat) (d : BitVec 6) (x : W64) : (s.latchS lat d x).mailbox = s.mailbox := rfl
@[simp] theorem State.latchS_cairn (s : State) (lat : Nat) (d : BitVec 6) (x : W64) : (s.latchS lat d x).cairn = s.cairn := rfl
@[simp] theorem State.latchS_scree (s : State) (lat : Nat) (d : BitVec 6) (x : W64) : (s.latchS lat d x).scree = s.scree := rfl
@[simp] theorem State.latchS_screeSaved (s : State) (lat : Nat) (d : BitVec 6) (x : W64) : (s.latchS lat d x).screeSaved = s.screeSaved := rfl
@[simp] theorem State.latchS_mgmt (s : State) (lat : Nat) (d : BitVec 6) (x : W64) : (s.latchS lat d x).mgmt = s.mgmt := rfl
@[simp] theorem State.latchS_ptp (s : State) (lat : Nat) (d : BitVec 6) (x : W64) : (s.latchS lat d x).ptp = s.ptp := rfl
@[simp] theorem State.latchS_base (s : State) (lat : Nat) (d : BitVec 6) (x : W64) : (s.latchS lat d x).base = s.base := rfl
@[simp] theorem State.latchS_saved (s : State) (lat : Nat) (d : BitVec 6) (x : W64) : (s.latchS lat d x).saved = s.saved := rfl
@[simp] theorem State.latchS_raised (s : State) (lat : Nat) (d : BitVec 6) (x : W64) : (s.latchS lat d x).raised = s.raised := rfl
@[simp] theorem State.latchS_sent (s : State) (lat : Nat) (d : BitVec 6) (x : W64) : (s.latchS lat d x).sent = s.sent := rfl
@[simp] theorem State.latchS_links (s : State) (lat : Nat) (d : BitVec 6) (x : W64) : (s.latchS lat d x).links = s.links := rfl
@[simp] theorem State.latchS_linksDue (s : State) (lat : Nat) (d : BitVec 6) (x : W64) : (s.latchS lat d x).linksDue = s.linksDue := rfl
@[simp] theorem State.latchS_saveDue (s : State) (lat : Nat) (d : BitVec 6) (x : W64) : (s.latchS lat d x).saveDue = s.saveDue := rfl
@[simp] theorem State.latchS_bankTimes (s : State) (lat : Nat) (d : BitVec 6) (x : W64) : (s.latchS lat d x).bankTimes = s.bankTimes := rfl
@[simp] theorem State.latchS_poison (s : State) (lat : Nat) (d : BitVec 6) (x : W64) : (s.latchS lat d x).poison = s.poison := rfl
@[simp] theorem State.latchS_acks (s : State) (lat : Nat) (d : BitVec 6) (x : W64) : (s.latchS lat d x).acks = s.acks := rfl
@[simp] theorem State.latchS_inputs (s : State) (lat : Nat) (d : BitVec 6) (x : W64) : (s.latchS lat d x).inputs = s.inputs := rfl

@[simp] theorem State.latchA_now (s : State) (d : BitVec 5) (x : W64) : (s.latchA d x).now = s.now := rfl
@[simp] theorem State.latchA_phase (s : State) (d : BitVec 5) (x : W64) : (s.latchA d x).phase = s.phase := rfl
@[simp] theorem State.latchA_focus (s : State) (d : BitVec 5) (x : W64) : (s.latchA d x).focus = s.focus := rfl
@[simp] theorem State.latchA_serial (s : State) (d : BitVec 5) (x : W64) : (s.latchA d x).serial = s.serial := rfl
@[simp] theorem State.latchA_mem (s : State) (d : BitVec 5) (x : W64) : (s.latchA d x).mem = s.mem := rfl
@[simp] theorem State.latchA_ring (s : State) (d : BitVec 5) (x : W64) : (s.latchA d x).ring = s.ring := rfl
@[simp] theorem State.latchA_engines (s : State) (d : BitVec 5) (x : W64) : (s.latchA d x).engines = s.engines := rfl
@[simp] theorem State.latchA_prot (s : State) (d : BitVec 5) (x : W64) : (s.latchA d x).prot = s.prot := rfl
@[simp] theorem State.latchA_contexts (s : State) (d : BitVec 5) (x : W64) : (s.latchA d x).contexts = s.contexts := rfl
@[simp] theorem State.latchA_jobs (s : State) (d : BitVec 5) (x : W64) : (s.latchA d x).jobs = s.jobs := rfl
@[simp] theorem State.latchA_adds (s : State) (d : BitVec 5) (x : W64) : (s.latchA d x).adds = s.adds := rfl
@[simp] theorem State.latchA_gangs (s : State) (d : BitVec 5) (x : W64) : (s.latchA d x).gangs = s.gangs := rfl
@[simp] theorem State.latchA_bankq (s : State) (d : BitVec 5) (x : W64) : (s.latchA d x).bankq = s.bankq := rfl
@[simp] theorem State.latchA_resumes (s : State) (d : BitVec 5) (x : W64) : (s.latchA d x).resumes = s.resumes := rfl
@[simp] theorem State.latchA_evicting (s : State) (d : BitVec 5) (x : W64) : (s.latchA d x).evicting = s.evicting := rfl
@[simp] theorem State.latchA_tick (s : State) (d : BitVec 5) (x : W64) : (s.latchA d x).tick = s.tick := rfl
@[simp] theorem State.latchA_tickDue (s : State) (d : BitVec 5) (x : W64) : (s.latchA d x).tickDue = s.tickDue := rfl
@[simp] theorem State.latchA_tickAcc (s : State) (d : BitVec 5) (x : W64) : (s.latchA d x).tickAcc = s.tickAcc := rfl
@[simp] theorem State.latchA_preemptAt (s : State) (d : BitVec 5) (x : W64) : (s.latchA d x).preemptAt = s.preemptAt := rfl
@[simp] theorem State.latchA_freezing (s : State) (d : BitVec 5) (x : W64) : (s.latchA d x).freezing = s.freezing := rfl
@[simp] theorem State.latchA_mailbox (s : State) (d : BitVec 5) (x : W64) : (s.latchA d x).mailbox = s.mailbox := rfl
@[simp] theorem State.latchA_cairn (s : State) (d : BitVec 5) (x : W64) : (s.latchA d x).cairn = s.cairn := rfl
@[simp] theorem State.latchA_scree (s : State) (d : BitVec 5) (x : W64) : (s.latchA d x).scree = s.scree := rfl
@[simp] theorem State.latchA_screeSaved (s : State) (d : BitVec 5) (x : W64) : (s.latchA d x).screeSaved = s.screeSaved := rfl
@[simp] theorem State.latchA_mgmt (s : State) (d : BitVec 5) (x : W64) : (s.latchA d x).mgmt = s.mgmt := rfl
@[simp] theorem State.latchA_ptp (s : State) (d : BitVec 5) (x : W64) : (s.latchA d x).ptp = s.ptp := rfl
@[simp] theorem State.latchA_base (s : State) (d : BitVec 5) (x : W64) : (s.latchA d x).base = s.base := rfl
@[simp] theorem State.latchA_saved (s : State) (d : BitVec 5) (x : W64) : (s.latchA d x).saved = s.saved := rfl
@[simp] theorem State.latchA_raised (s : State) (d : BitVec 5) (x : W64) : (s.latchA d x).raised = s.raised := rfl
@[simp] theorem State.latchA_sent (s : State) (d : BitVec 5) (x : W64) : (s.latchA d x).sent = s.sent := rfl
@[simp] theorem State.latchA_links (s : State) (d : BitVec 5) (x : W64) : (s.latchA d x).links = s.links := rfl
@[simp] theorem State.latchA_linksDue (s : State) (d : BitVec 5) (x : W64) : (s.latchA d x).linksDue = s.linksDue := rfl
@[simp] theorem State.latchA_saveDue (s : State) (d : BitVec 5) (x : W64) : (s.latchA d x).saveDue = s.saveDue := rfl
@[simp] theorem State.latchA_bankTimes (s : State) (d : BitVec 5) (x : W64) : (s.latchA d x).bankTimes = s.bankTimes := rfl
@[simp] theorem State.latchA_poison (s : State) (d : BitVec 5) (x : W64) : (s.latchA d x).poison = s.poison := rfl
@[simp] theorem State.latchA_acks (s : State) (d : BitVec 5) (x : W64) : (s.latchA d x).acks = s.acks := rfl
@[simp] theorem State.latchA_inputs (s : State) (d : BitVec 5) (x : W64) : (s.latchA d x).inputs = s.inputs := rfl

@[simp] theorem State.request_now (s : State) (off n : Nat) : (s.request off n).now = s.now := rfl
@[simp] theorem State.request_phase (s : State) (off n : Nat) : (s.request off n).phase = s.phase := rfl
@[simp] theorem State.request_focus (s : State) (off n : Nat) : (s.request off n).focus = s.focus := rfl
@[simp] theorem State.request_serial (s : State) (off n : Nat) : (s.request off n).serial = s.serial := rfl
@[simp] theorem State.request_mem (s : State) (off n : Nat) : (s.request off n).mem = s.mem := rfl
@[simp] theorem State.request_ring (s : State) (off n : Nat) : (s.request off n).ring = s.ring := rfl
@[simp] theorem State.request_engines (s : State) (off n : Nat) : (s.request off n).engines = s.engines := rfl
@[simp] theorem State.request_prot (s : State) (off n : Nat) : (s.request off n).prot = s.prot := rfl
@[simp] theorem State.request_contexts (s : State) (off n : Nat) : (s.request off n).contexts = s.contexts := rfl
@[simp] theorem State.request_jobs (s : State) (off n : Nat) : (s.request off n).jobs = s.jobs := rfl
@[simp] theorem State.request_adds (s : State) (off n : Nat) : (s.request off n).adds = s.adds := rfl
@[simp] theorem State.request_gangs (s : State) (off n : Nat) : (s.request off n).gangs = s.gangs := rfl
@[simp] theorem State.request_bankq (s : State) (off n : Nat) : (s.request off n).bankq = s.bankq := rfl
@[simp] theorem State.request_resumes (s : State) (off n : Nat) : (s.request off n).resumes = s.resumes := rfl
@[simp] theorem State.request_evicting (s : State) (off n : Nat) : (s.request off n).evicting = s.evicting := rfl
@[simp] theorem State.request_tick (s : State) (off n : Nat) : (s.request off n).tick = s.tick := rfl
@[simp] theorem State.request_tickDue (s : State) (off n : Nat) : (s.request off n).tickDue = s.tickDue := rfl
@[simp] theorem State.request_tickAcc (s : State) (off n : Nat) : (s.request off n).tickAcc = s.tickAcc := rfl
@[simp] theorem State.request_preemptAt (s : State) (off n : Nat) : (s.request off n).preemptAt = s.preemptAt := rfl
@[simp] theorem State.request_freezing (s : State) (off n : Nat) : (s.request off n).freezing = s.freezing := rfl
@[simp] theorem State.request_mailbox (s : State) (off n : Nat) : (s.request off n).mailbox = s.mailbox := rfl
@[simp] theorem State.request_cairn (s : State) (off n : Nat) : (s.request off n).cairn = s.cairn := rfl
@[simp] theorem State.request_scree (s : State) (off n : Nat) : (s.request off n).scree = s.scree := rfl
@[simp] theorem State.request_screeSaved (s : State) (off n : Nat) : (s.request off n).screeSaved = s.screeSaved := rfl
@[simp] theorem State.request_mgmt (s : State) (off n : Nat) : (s.request off n).mgmt = s.mgmt := rfl
@[simp] theorem State.request_ptp (s : State) (off n : Nat) : (s.request off n).ptp = s.ptp := rfl
@[simp] theorem State.request_base (s : State) (off n : Nat) : (s.request off n).base = s.base := rfl
@[simp] theorem State.request_saved (s : State) (off n : Nat) : (s.request off n).saved = s.saved := rfl
@[simp] theorem State.request_raised (s : State) (off n : Nat) : (s.request off n).raised = s.raised := rfl
@[simp] theorem State.request_sent (s : State) (off n : Nat) : (s.request off n).sent = s.sent := rfl
@[simp] theorem State.request_links (s : State) (off n : Nat) : (s.request off n).links = s.links := rfl
@[simp] theorem State.request_linksDue (s : State) (off n : Nat) : (s.request off n).linksDue = s.linksDue := rfl
@[simp] theorem State.request_saveDue (s : State) (off n : Nat) : (s.request off n).saveDue = s.saveDue := rfl
@[simp] theorem State.request_bankTimes (s : State) (off n : Nat) : (s.request off n).bankTimes = s.bankTimes := rfl
@[simp] theorem State.request_poison (s : State) (off n : Nat) : (s.request off n).poison = s.poison := rfl
@[simp] theorem State.request_acks (s : State) (off n : Nat) : (s.request off n).acks = s.acks := rfl
@[simp] theorem State.request_inputs (s : State) (off n : Nat) : (s.request off n).inputs = s.inputs := rfl

@[simp] theorem State.trap_now (s : State) (c : Cause) (fa fx : W64) : (s.trap c fa fx).now = s.now := rfl
@[simp] theorem State.trap_phase (s : State) (c : Cause) (fa fx : W64) : (s.trap c fa fx).phase = s.phase := rfl
@[simp] theorem State.trap_focus (s : State) (c : Cause) (fa fx : W64) : (s.trap c fa fx).focus = s.focus := rfl
@[simp] theorem State.trap_serial (s : State) (c : Cause) (fa fx : W64) : (s.trap c fa fx).serial = s.serial := rfl
@[simp] theorem State.trap_mem (s : State) (c : Cause) (fa fx : W64) : (s.trap c fa fx).mem = s.mem := rfl
@[simp] theorem State.trap_ring (s : State) (c : Cause) (fa fx : W64) : (s.trap c fa fx).ring = s.ring := rfl
@[simp] theorem State.trap_engines (s : State) (c : Cause) (fa fx : W64) : (s.trap c fa fx).engines = s.engines := rfl
@[simp] theorem State.trap_prot (s : State) (c : Cause) (fa fx : W64) : (s.trap c fa fx).prot = s.prot := rfl
@[simp] theorem State.trap_contexts (s : State) (c : Cause) (fa fx : W64) : (s.trap c fa fx).contexts = s.contexts := rfl
@[simp] theorem State.trap_jobs (s : State) (c : Cause) (fa fx : W64) : (s.trap c fa fx).jobs = s.jobs := rfl
@[simp] theorem State.trap_adds (s : State) (c : Cause) (fa fx : W64) : (s.trap c fa fx).adds = s.adds := rfl
@[simp] theorem State.trap_gangs (s : State) (c : Cause) (fa fx : W64) : (s.trap c fa fx).gangs = s.gangs := rfl
@[simp] theorem State.trap_bankq (s : State) (c : Cause) (fa fx : W64) : (s.trap c fa fx).bankq = s.bankq := rfl
@[simp] theorem State.trap_resumes (s : State) (c : Cause) (fa fx : W64) : (s.trap c fa fx).resumes = s.resumes := rfl
@[simp] theorem State.trap_evicting (s : State) (c : Cause) (fa fx : W64) : (s.trap c fa fx).evicting = s.evicting := rfl
@[simp] theorem State.trap_tick (s : State) (c : Cause) (fa fx : W64) : (s.trap c fa fx).tick = s.tick := rfl
@[simp] theorem State.trap_tickDue (s : State) (c : Cause) (fa fx : W64) : (s.trap c fa fx).tickDue = s.tickDue := rfl
@[simp] theorem State.trap_tickAcc (s : State) (c : Cause) (fa fx : W64) : (s.trap c fa fx).tickAcc = s.tickAcc := rfl
@[simp] theorem State.trap_preemptAt (s : State) (c : Cause) (fa fx : W64) : (s.trap c fa fx).preemptAt = s.preemptAt := rfl
@[simp] theorem State.trap_freezing (s : State) (c : Cause) (fa fx : W64) : (s.trap c fa fx).freezing = s.freezing := rfl
@[simp] theorem State.trap_mailbox (s : State) (c : Cause) (fa fx : W64) : (s.trap c fa fx).mailbox = s.mailbox := rfl
@[simp] theorem State.trap_cairn (s : State) (c : Cause) (fa fx : W64) : (s.trap c fa fx).cairn = s.cairn := rfl
@[simp] theorem State.trap_scree (s : State) (c : Cause) (fa fx : W64) : (s.trap c fa fx).scree = s.scree := rfl
@[simp] theorem State.trap_screeSaved (s : State) (c : Cause) (fa fx : W64) : (s.trap c fa fx).screeSaved = s.screeSaved := rfl
@[simp] theorem State.trap_mgmt (s : State) (c : Cause) (fa fx : W64) : (s.trap c fa fx).mgmt = s.mgmt := rfl
@[simp] theorem State.trap_ptp (s : State) (c : Cause) (fa fx : W64) : (s.trap c fa fx).ptp = s.ptp := rfl
@[simp] theorem State.trap_base (s : State) (c : Cause) (fa fx : W64) : (s.trap c fa fx).base = s.base := rfl
@[simp] theorem State.trap_saved (s : State) (c : Cause) (fa fx : W64) : (s.trap c fa fx).saved = s.saved := rfl
@[simp] theorem State.trap_raised (s : State) (c : Cause) (fa fx : W64) : (s.trap c fa fx).raised = s.raised := rfl
@[simp] theorem State.trap_sent (s : State) (c : Cause) (fa fx : W64) : (s.trap c fa fx).sent = s.sent := rfl
@[simp] theorem State.trap_links (s : State) (c : Cause) (fa fx : W64) : (s.trap c fa fx).links = s.links := rfl
@[simp] theorem State.trap_linksDue (s : State) (c : Cause) (fa fx : W64) : (s.trap c fa fx).linksDue = s.linksDue := rfl
@[simp] theorem State.trap_saveDue (s : State) (c : Cause) (fa fx : W64) : (s.trap c fa fx).saveDue = s.saveDue := rfl
@[simp] theorem State.trap_bankTimes (s : State) (c : Cause) (fa fx : W64) : (s.trap c fa fx).bankTimes = s.bankTimes := rfl
@[simp] theorem State.trap_poison (s : State) (c : Cause) (fa fx : W64) : (s.trap c fa fx).poison = s.poison := rfl
@[simp] theorem State.trap_acks (s : State) (c : Cause) (fa fx : W64) : (s.trap c fa fx).acks = s.acks := rfl
@[simp] theorem State.trap_inputs (s : State) (c : Cause) (fa fx : W64) : (s.trap c fa fx).inputs = s.inputs := rfl

@[simp] theorem State.transfer_now (s : State) (st : Stream) (tgt : BitVec 17) : (s.transfer st tgt).now = s.now := rfl
@[simp] theorem State.transfer_phase (s : State) (st : Stream) (tgt : BitVec 17) : (s.transfer st tgt).phase = s.phase := rfl
@[simp] theorem State.transfer_focus (s : State) (st : Stream) (tgt : BitVec 17) : (s.transfer st tgt).focus = s.focus := rfl
@[simp] theorem State.transfer_serial (s : State) (st : Stream) (tgt : BitVec 17) : (s.transfer st tgt).serial = s.serial := rfl
@[simp] theorem State.transfer_mem (s : State) (st : Stream) (tgt : BitVec 17) : (s.transfer st tgt).mem = s.mem := rfl
@[simp] theorem State.transfer_ring (s : State) (st : Stream) (tgt : BitVec 17) : (s.transfer st tgt).ring = s.ring := rfl
@[simp] theorem State.transfer_engines (s : State) (st : Stream) (tgt : BitVec 17) : (s.transfer st tgt).engines = s.engines := rfl
@[simp] theorem State.transfer_prot (s : State) (st : Stream) (tgt : BitVec 17) : (s.transfer st tgt).prot = s.prot := rfl
@[simp] theorem State.transfer_contexts (s : State) (st : Stream) (tgt : BitVec 17) : (s.transfer st tgt).contexts = s.contexts := rfl
@[simp] theorem State.transfer_jobs (s : State) (st : Stream) (tgt : BitVec 17) : (s.transfer st tgt).jobs = s.jobs := rfl
@[simp] theorem State.transfer_adds (s : State) (st : Stream) (tgt : BitVec 17) : (s.transfer st tgt).adds = s.adds := rfl
@[simp] theorem State.transfer_gangs (s : State) (st : Stream) (tgt : BitVec 17) : (s.transfer st tgt).gangs = s.gangs := rfl
@[simp] theorem State.transfer_bankq (s : State) (st : Stream) (tgt : BitVec 17) : (s.transfer st tgt).bankq = s.bankq := rfl
@[simp] theorem State.transfer_resumes (s : State) (st : Stream) (tgt : BitVec 17) : (s.transfer st tgt).resumes = s.resumes := rfl
@[simp] theorem State.transfer_evicting (s : State) (st : Stream) (tgt : BitVec 17) : (s.transfer st tgt).evicting = s.evicting := rfl
@[simp] theorem State.transfer_tick (s : State) (st : Stream) (tgt : BitVec 17) : (s.transfer st tgt).tick = s.tick := rfl
@[simp] theorem State.transfer_tickDue (s : State) (st : Stream) (tgt : BitVec 17) : (s.transfer st tgt).tickDue = s.tickDue := rfl
@[simp] theorem State.transfer_tickAcc (s : State) (st : Stream) (tgt : BitVec 17) : (s.transfer st tgt).tickAcc = s.tickAcc := rfl
@[simp] theorem State.transfer_preemptAt (s : State) (st : Stream) (tgt : BitVec 17) : (s.transfer st tgt).preemptAt = s.preemptAt := rfl
@[simp] theorem State.transfer_freezing (s : State) (st : Stream) (tgt : BitVec 17) : (s.transfer st tgt).freezing = s.freezing := rfl
@[simp] theorem State.transfer_mailbox (s : State) (st : Stream) (tgt : BitVec 17) : (s.transfer st tgt).mailbox = s.mailbox := rfl
@[simp] theorem State.transfer_cairn (s : State) (st : Stream) (tgt : BitVec 17) : (s.transfer st tgt).cairn = s.cairn := rfl
@[simp] theorem State.transfer_scree (s : State) (st : Stream) (tgt : BitVec 17) : (s.transfer st tgt).scree = s.scree := rfl
@[simp] theorem State.transfer_screeSaved (s : State) (st : Stream) (tgt : BitVec 17) : (s.transfer st tgt).screeSaved = s.screeSaved := rfl
@[simp] theorem State.transfer_mgmt (s : State) (st : Stream) (tgt : BitVec 17) : (s.transfer st tgt).mgmt = s.mgmt := rfl
@[simp] theorem State.transfer_ptp (s : State) (st : Stream) (tgt : BitVec 17) : (s.transfer st tgt).ptp = s.ptp := rfl
@[simp] theorem State.transfer_base (s : State) (st : Stream) (tgt : BitVec 17) : (s.transfer st tgt).base = s.base := rfl
@[simp] theorem State.transfer_saved (s : State) (st : Stream) (tgt : BitVec 17) : (s.transfer st tgt).saved = s.saved := rfl
@[simp] theorem State.transfer_raised (s : State) (st : Stream) (tgt : BitVec 17) : (s.transfer st tgt).raised = s.raised := rfl
@[simp] theorem State.transfer_sent (s : State) (st : Stream) (tgt : BitVec 17) : (s.transfer st tgt).sent = s.sent := rfl
@[simp] theorem State.transfer_links (s : State) (st : Stream) (tgt : BitVec 17) : (s.transfer st tgt).links = s.links := rfl
@[simp] theorem State.transfer_linksDue (s : State) (st : Stream) (tgt : BitVec 17) : (s.transfer st tgt).linksDue = s.linksDue := rfl
@[simp] theorem State.transfer_saveDue (s : State) (st : Stream) (tgt : BitVec 17) : (s.transfer st tgt).saveDue = s.saveDue := rfl
@[simp] theorem State.transfer_bankTimes (s : State) (st : Stream) (tgt : BitVec 17) : (s.transfer st tgt).bankTimes = s.bankTimes := rfl
@[simp] theorem State.transfer_poison (s : State) (st : Stream) (tgt : BitVec 17) : (s.transfer st tgt).poison = s.poison := rfl
@[simp] theorem State.transfer_acks (s : State) (st : Stream) (tgt : BitVec 17) : (s.transfer st tgt).acks = s.acks := rfl
@[simp] theorem State.transfer_inputs (s : State) (st : Stream) (tgt : BitVec 17) : (s.transfer st tgt).inputs = s.inputs := rfl

@[simp] theorem State.record_now (s : State) (id : BitVec 16) (x : FaultRec) : (s.record id x).now = s.now := rfl
@[simp] theorem State.record_phase (s : State) (id : BitVec 16) (x : FaultRec) : (s.record id x).phase = s.phase := rfl
@[simp] theorem State.record_focus (s : State) (id : BitVec 16) (x : FaultRec) : (s.record id x).focus = s.focus := rfl
@[simp] theorem State.record_cores (s : State) (id : BitVec 16) (x : FaultRec) : (s.record id x).cores = s.cores := rfl
@[simp] theorem State.record_mem (s : State) (id : BitVec 16) (x : FaultRec) : (s.record id x).mem = s.mem := rfl
@[simp] theorem State.record_ring (s : State) (id : BitVec 16) (x : FaultRec) : (s.record id x).ring = s.ring := rfl
@[simp] theorem State.record_engines (s : State) (id : BitVec 16) (x : FaultRec) : (s.record id x).engines = s.engines := rfl
@[simp] theorem State.record_prot (s : State) (id : BitVec 16) (x : FaultRec) : (s.record id x).prot = s.prot := rfl
@[simp] theorem State.record_jobs (s : State) (id : BitVec 16) (x : FaultRec) : (s.record id x).jobs = s.jobs := rfl
@[simp] theorem State.record_adds (s : State) (id : BitVec 16) (x : FaultRec) : (s.record id x).adds = s.adds := rfl
@[simp] theorem State.record_gangs (s : State) (id : BitVec 16) (x : FaultRec) : (s.record id x).gangs = s.gangs := rfl
@[simp] theorem State.record_bankq (s : State) (id : BitVec 16) (x : FaultRec) : (s.record id x).bankq = s.bankq := rfl
@[simp] theorem State.record_resumes (s : State) (id : BitVec 16) (x : FaultRec) : (s.record id x).resumes = s.resumes := rfl
@[simp] theorem State.record_evicting (s : State) (id : BitVec 16) (x : FaultRec) : (s.record id x).evicting = s.evicting := rfl
@[simp] theorem State.record_tick (s : State) (id : BitVec 16) (x : FaultRec) : (s.record id x).tick = s.tick := rfl
@[simp] theorem State.record_tickDue (s : State) (id : BitVec 16) (x : FaultRec) : (s.record id x).tickDue = s.tickDue := rfl
@[simp] theorem State.record_tickAcc (s : State) (id : BitVec 16) (x : FaultRec) : (s.record id x).tickAcc = s.tickAcc := rfl
@[simp] theorem State.record_preemptAt (s : State) (id : BitVec 16) (x : FaultRec) : (s.record id x).preemptAt = s.preemptAt := rfl
@[simp] theorem State.record_freezing (s : State) (id : BitVec 16) (x : FaultRec) : (s.record id x).freezing = s.freezing := rfl
@[simp] theorem State.record_mailbox (s : State) (id : BitVec 16) (x : FaultRec) : (s.record id x).mailbox = s.mailbox := rfl
@[simp] theorem State.record_cairn (s : State) (id : BitVec 16) (x : FaultRec) : (s.record id x).cairn = s.cairn := rfl
@[simp] theorem State.record_scree (s : State) (id : BitVec 16) (x : FaultRec) : (s.record id x).scree = s.scree := rfl
@[simp] theorem State.record_screeSaved (s : State) (id : BitVec 16) (x : FaultRec) : (s.record id x).screeSaved = s.screeSaved := rfl
@[simp] theorem State.record_mgmt (s : State) (id : BitVec 16) (x : FaultRec) : (s.record id x).mgmt = s.mgmt := rfl
@[simp] theorem State.record_ptp (s : State) (id : BitVec 16) (x : FaultRec) : (s.record id x).ptp = s.ptp := rfl
@[simp] theorem State.record_base (s : State) (id : BitVec 16) (x : FaultRec) : (s.record id x).base = s.base := rfl
@[simp] theorem State.record_saved (s : State) (id : BitVec 16) (x : FaultRec) : (s.record id x).saved = s.saved := rfl
@[simp] theorem State.record_raised (s : State) (id : BitVec 16) (x : FaultRec) : (s.record id x).raised = s.raised := rfl
@[simp] theorem State.record_sent (s : State) (id : BitVec 16) (x : FaultRec) : (s.record id x).sent = s.sent := rfl
@[simp] theorem State.record_links (s : State) (id : BitVec 16) (x : FaultRec) : (s.record id x).links = s.links := rfl
@[simp] theorem State.record_linksDue (s : State) (id : BitVec 16) (x : FaultRec) : (s.record id x).linksDue = s.linksDue := rfl
@[simp] theorem State.record_saveDue (s : State) (id : BitVec 16) (x : FaultRec) : (s.record id x).saveDue = s.saveDue := rfl
@[simp] theorem State.record_bankTimes (s : State) (id : BitVec 16) (x : FaultRec) : (s.record id x).bankTimes = s.bankTimes := rfl
@[simp] theorem State.record_poison (s : State) (id : BitVec 16) (x : FaultRec) : (s.record id x).poison = s.poison := rfl
@[simp] theorem State.record_acks (s : State) (id : BitVec 16) (x : FaultRec) : (s.record id x).acks = s.acks := rfl
@[simp] theorem State.record_inputs (s : State) (id : BitVec 16) (x : FaultRec) : (s.record id x).inputs = s.inputs := rfl

@[simp] theorem State.putWord_now (s : State) (pl : Place) (off : Nat) (w : W64) : (s.putWord pl off w).now = s.now := rfl
@[simp] theorem State.putWord_phase (s : State) (pl : Place) (off : Nat) (w : W64) : (s.putWord pl off w).phase = s.phase := rfl
@[simp] theorem State.putWord_focus (s : State) (pl : Place) (off : Nat) (w : W64) : (s.putWord pl off w).focus = s.focus := rfl
@[simp] theorem State.putWord_serial (s : State) (pl : Place) (off : Nat) (w : W64) : (s.putWord pl off w).serial = s.serial := rfl
@[simp] theorem State.putWord_cores (s : State) (pl : Place) (off : Nat) (w : W64) : (s.putWord pl off w).cores = s.cores := rfl
@[simp] theorem State.putWord_ring (s : State) (pl : Place) (off : Nat) (w : W64) : (s.putWord pl off w).ring = s.ring := rfl
@[simp] theorem State.putWord_engines (s : State) (pl : Place) (off : Nat) (w : W64) : (s.putWord pl off w).engines = s.engines := rfl
@[simp] theorem State.putWord_prot (s : State) (pl : Place) (off : Nat) (w : W64) : (s.putWord pl off w).prot = s.prot := rfl
@[simp] theorem State.putWord_contexts (s : State) (pl : Place) (off : Nat) (w : W64) : (s.putWord pl off w).contexts = s.contexts := rfl
@[simp] theorem State.putWord_jobs (s : State) (pl : Place) (off : Nat) (w : W64) : (s.putWord pl off w).jobs = s.jobs := rfl
@[simp] theorem State.putWord_adds (s : State) (pl : Place) (off : Nat) (w : W64) : (s.putWord pl off w).adds = s.adds := rfl
@[simp] theorem State.putWord_gangs (s : State) (pl : Place) (off : Nat) (w : W64) : (s.putWord pl off w).gangs = s.gangs := rfl
@[simp] theorem State.putWord_bankq (s : State) (pl : Place) (off : Nat) (w : W64) : (s.putWord pl off w).bankq = s.bankq := rfl
@[simp] theorem State.putWord_resumes (s : State) (pl : Place) (off : Nat) (w : W64) : (s.putWord pl off w).resumes = s.resumes := rfl
@[simp] theorem State.putWord_evicting (s : State) (pl : Place) (off : Nat) (w : W64) : (s.putWord pl off w).evicting = s.evicting := rfl
@[simp] theorem State.putWord_tick (s : State) (pl : Place) (off : Nat) (w : W64) : (s.putWord pl off w).tick = s.tick := rfl
@[simp] theorem State.putWord_tickDue (s : State) (pl : Place) (off : Nat) (w : W64) : (s.putWord pl off w).tickDue = s.tickDue := rfl
@[simp] theorem State.putWord_tickAcc (s : State) (pl : Place) (off : Nat) (w : W64) : (s.putWord pl off w).tickAcc = s.tickAcc := rfl
@[simp] theorem State.putWord_preemptAt (s : State) (pl : Place) (off : Nat) (w : W64) : (s.putWord pl off w).preemptAt = s.preemptAt := rfl
@[simp] theorem State.putWord_freezing (s : State) (pl : Place) (off : Nat) (w : W64) : (s.putWord pl off w).freezing = s.freezing := rfl
@[simp] theorem State.putWord_mailbox (s : State) (pl : Place) (off : Nat) (w : W64) : (s.putWord pl off w).mailbox = s.mailbox := rfl
@[simp] theorem State.putWord_cairn (s : State) (pl : Place) (off : Nat) (w : W64) : (s.putWord pl off w).cairn = s.cairn := rfl
@[simp] theorem State.putWord_scree (s : State) (pl : Place) (off : Nat) (w : W64) : (s.putWord pl off w).scree = s.scree := rfl
@[simp] theorem State.putWord_screeSaved (s : State) (pl : Place) (off : Nat) (w : W64) : (s.putWord pl off w).screeSaved = s.screeSaved := rfl
@[simp] theorem State.putWord_mgmt (s : State) (pl : Place) (off : Nat) (w : W64) : (s.putWord pl off w).mgmt = s.mgmt := rfl
@[simp] theorem State.putWord_ptp (s : State) (pl : Place) (off : Nat) (w : W64) : (s.putWord pl off w).ptp = s.ptp := rfl
@[simp] theorem State.putWord_base (s : State) (pl : Place) (off : Nat) (w : W64) : (s.putWord pl off w).base = s.base := rfl
@[simp] theorem State.putWord_saved (s : State) (pl : Place) (off : Nat) (w : W64) : (s.putWord pl off w).saved = s.saved := rfl
@[simp] theorem State.putWord_raised (s : State) (pl : Place) (off : Nat) (w : W64) : (s.putWord pl off w).raised = s.raised := rfl
@[simp] theorem State.putWord_sent (s : State) (pl : Place) (off : Nat) (w : W64) : (s.putWord pl off w).sent = s.sent := rfl
@[simp] theorem State.putWord_links (s : State) (pl : Place) (off : Nat) (w : W64) : (s.putWord pl off w).links = s.links := rfl
@[simp] theorem State.putWord_linksDue (s : State) (pl : Place) (off : Nat) (w : W64) : (s.putWord pl off w).linksDue = s.linksDue := rfl
@[simp] theorem State.putWord_saveDue (s : State) (pl : Place) (off : Nat) (w : W64) : (s.putWord pl off w).saveDue = s.saveDue := rfl
@[simp] theorem State.putWord_bankTimes (s : State) (pl : Place) (off : Nat) (w : W64) : (s.putWord pl off w).bankTimes = s.bankTimes := rfl
@[simp] theorem State.putWord_poison (s : State) (pl : Place) (off : Nat) (w : W64) : (s.putWord pl off w).poison = s.poison := rfl
@[simp] theorem State.putWord_acks (s : State) (pl : Place) (off : Nat) (w : W64) : (s.putWord pl off w).acks = s.acks := rfl
@[simp] theorem State.putWord_inputs (s : State) (pl : Place) (off : Nat) (w : W64) : (s.putWord pl off w).inputs = s.inputs := rfl

@[simp] theorem State.putBytes_now (s : State) (pl : Place) (off : Nat) (bs : List Byte) : (s.putBytes pl off bs).now = s.now := rfl
@[simp] theorem State.putBytes_phase (s : State) (pl : Place) (off : Nat) (bs : List Byte) : (s.putBytes pl off bs).phase = s.phase := rfl
@[simp] theorem State.putBytes_focus (s : State) (pl : Place) (off : Nat) (bs : List Byte) : (s.putBytes pl off bs).focus = s.focus := rfl
@[simp] theorem State.putBytes_serial (s : State) (pl : Place) (off : Nat) (bs : List Byte) : (s.putBytes pl off bs).serial = s.serial := rfl
@[simp] theorem State.putBytes_cores (s : State) (pl : Place) (off : Nat) (bs : List Byte) : (s.putBytes pl off bs).cores = s.cores := rfl
@[simp] theorem State.putBytes_ring (s : State) (pl : Place) (off : Nat) (bs : List Byte) : (s.putBytes pl off bs).ring = s.ring := rfl
@[simp] theorem State.putBytes_engines (s : State) (pl : Place) (off : Nat) (bs : List Byte) : (s.putBytes pl off bs).engines = s.engines := rfl
@[simp] theorem State.putBytes_prot (s : State) (pl : Place) (off : Nat) (bs : List Byte) : (s.putBytes pl off bs).prot = s.prot := rfl
@[simp] theorem State.putBytes_contexts (s : State) (pl : Place) (off : Nat) (bs : List Byte) : (s.putBytes pl off bs).contexts = s.contexts := rfl
@[simp] theorem State.putBytes_jobs (s : State) (pl : Place) (off : Nat) (bs : List Byte) : (s.putBytes pl off bs).jobs = s.jobs := rfl
@[simp] theorem State.putBytes_adds (s : State) (pl : Place) (off : Nat) (bs : List Byte) : (s.putBytes pl off bs).adds = s.adds := rfl
@[simp] theorem State.putBytes_gangs (s : State) (pl : Place) (off : Nat) (bs : List Byte) : (s.putBytes pl off bs).gangs = s.gangs := rfl
@[simp] theorem State.putBytes_bankq (s : State) (pl : Place) (off : Nat) (bs : List Byte) : (s.putBytes pl off bs).bankq = s.bankq := rfl
@[simp] theorem State.putBytes_resumes (s : State) (pl : Place) (off : Nat) (bs : List Byte) : (s.putBytes pl off bs).resumes = s.resumes := rfl
@[simp] theorem State.putBytes_evicting (s : State) (pl : Place) (off : Nat) (bs : List Byte) : (s.putBytes pl off bs).evicting = s.evicting := rfl
@[simp] theorem State.putBytes_tick (s : State) (pl : Place) (off : Nat) (bs : List Byte) : (s.putBytes pl off bs).tick = s.tick := rfl
@[simp] theorem State.putBytes_tickDue (s : State) (pl : Place) (off : Nat) (bs : List Byte) : (s.putBytes pl off bs).tickDue = s.tickDue := rfl
@[simp] theorem State.putBytes_tickAcc (s : State) (pl : Place) (off : Nat) (bs : List Byte) : (s.putBytes pl off bs).tickAcc = s.tickAcc := rfl
@[simp] theorem State.putBytes_preemptAt (s : State) (pl : Place) (off : Nat) (bs : List Byte) : (s.putBytes pl off bs).preemptAt = s.preemptAt := rfl
@[simp] theorem State.putBytes_freezing (s : State) (pl : Place) (off : Nat) (bs : List Byte) : (s.putBytes pl off bs).freezing = s.freezing := rfl
@[simp] theorem State.putBytes_mailbox (s : State) (pl : Place) (off : Nat) (bs : List Byte) : (s.putBytes pl off bs).mailbox = s.mailbox := rfl
@[simp] theorem State.putBytes_cairn (s : State) (pl : Place) (off : Nat) (bs : List Byte) : (s.putBytes pl off bs).cairn = s.cairn := rfl
@[simp] theorem State.putBytes_scree (s : State) (pl : Place) (off : Nat) (bs : List Byte) : (s.putBytes pl off bs).scree = s.scree := rfl
@[simp] theorem State.putBytes_screeSaved (s : State) (pl : Place) (off : Nat) (bs : List Byte) : (s.putBytes pl off bs).screeSaved = s.screeSaved := rfl
@[simp] theorem State.putBytes_mgmt (s : State) (pl : Place) (off : Nat) (bs : List Byte) : (s.putBytes pl off bs).mgmt = s.mgmt := rfl
@[simp] theorem State.putBytes_ptp (s : State) (pl : Place) (off : Nat) (bs : List Byte) : (s.putBytes pl off bs).ptp = s.ptp := rfl
@[simp] theorem State.putBytes_base (s : State) (pl : Place) (off : Nat) (bs : List Byte) : (s.putBytes pl off bs).base = s.base := rfl
@[simp] theorem State.putBytes_saved (s : State) (pl : Place) (off : Nat) (bs : List Byte) : (s.putBytes pl off bs).saved = s.saved := rfl
@[simp] theorem State.putBytes_raised (s : State) (pl : Place) (off : Nat) (bs : List Byte) : (s.putBytes pl off bs).raised = s.raised := rfl
@[simp] theorem State.putBytes_sent (s : State) (pl : Place) (off : Nat) (bs : List Byte) : (s.putBytes pl off bs).sent = s.sent := rfl
@[simp] theorem State.putBytes_links (s : State) (pl : Place) (off : Nat) (bs : List Byte) : (s.putBytes pl off bs).links = s.links := rfl
@[simp] theorem State.putBytes_linksDue (s : State) (pl : Place) (off : Nat) (bs : List Byte) : (s.putBytes pl off bs).linksDue = s.linksDue := rfl
@[simp] theorem State.putBytes_saveDue (s : State) (pl : Place) (off : Nat) (bs : List Byte) : (s.putBytes pl off bs).saveDue = s.saveDue := rfl
@[simp] theorem State.putBytes_bankTimes (s : State) (pl : Place) (off : Nat) (bs : List Byte) : (s.putBytes pl off bs).bankTimes = s.bankTimes := rfl
@[simp] theorem State.putBytes_poison (s : State) (pl : Place) (off : Nat) (bs : List Byte) : (s.putBytes pl off bs).poison = s.poison := rfl
@[simp] theorem State.putBytes_acks (s : State) (pl : Place) (off : Nat) (bs : List Byte) : (s.putBytes pl off bs).acks = s.acks := rfl
@[simp] theorem State.putBytes_inputs (s : State) (pl : Place) (off : Nat) (bs : List Byte) : (s.putBytes pl off bs).inputs = s.inputs := rfl

@[simp] theorem State.storeBytes_now (s : State) (pl : Place) (off : Nat) (bs : List (Byte × Bool)) : (s.storeBytes pl off bs).now = s.now := rfl
@[simp] theorem State.storeBytes_phase (s : State) (pl : Place) (off : Nat) (bs : List (Byte × Bool)) : (s.storeBytes pl off bs).phase = s.phase := rfl
@[simp] theorem State.storeBytes_focus (s : State) (pl : Place) (off : Nat) (bs : List (Byte × Bool)) : (s.storeBytes pl off bs).focus = s.focus := rfl
@[simp] theorem State.storeBytes_serial (s : State) (pl : Place) (off : Nat) (bs : List (Byte × Bool)) : (s.storeBytes pl off bs).serial = s.serial := rfl
@[simp] theorem State.storeBytes_cores (s : State) (pl : Place) (off : Nat) (bs : List (Byte × Bool)) : (s.storeBytes pl off bs).cores = s.cores := rfl
@[simp] theorem State.storeBytes_ring (s : State) (pl : Place) (off : Nat) (bs : List (Byte × Bool)) : (s.storeBytes pl off bs).ring = s.ring := rfl
@[simp] theorem State.storeBytes_engines (s : State) (pl : Place) (off : Nat) (bs : List (Byte × Bool)) : (s.storeBytes pl off bs).engines = s.engines := rfl
@[simp] theorem State.storeBytes_prot (s : State) (pl : Place) (off : Nat) (bs : List (Byte × Bool)) : (s.storeBytes pl off bs).prot = s.prot := rfl
@[simp] theorem State.storeBytes_contexts (s : State) (pl : Place) (off : Nat) (bs : List (Byte × Bool)) : (s.storeBytes pl off bs).contexts = s.contexts := rfl
@[simp] theorem State.storeBytes_jobs (s : State) (pl : Place) (off : Nat) (bs : List (Byte × Bool)) : (s.storeBytes pl off bs).jobs = s.jobs := rfl
@[simp] theorem State.storeBytes_adds (s : State) (pl : Place) (off : Nat) (bs : List (Byte × Bool)) : (s.storeBytes pl off bs).adds = s.adds := rfl
@[simp] theorem State.storeBytes_gangs (s : State) (pl : Place) (off : Nat) (bs : List (Byte × Bool)) : (s.storeBytes pl off bs).gangs = s.gangs := rfl
@[simp] theorem State.storeBytes_bankq (s : State) (pl : Place) (off : Nat) (bs : List (Byte × Bool)) : (s.storeBytes pl off bs).bankq = s.bankq := rfl
@[simp] theorem State.storeBytes_resumes (s : State) (pl : Place) (off : Nat) (bs : List (Byte × Bool)) : (s.storeBytes pl off bs).resumes = s.resumes := rfl
@[simp] theorem State.storeBytes_evicting (s : State) (pl : Place) (off : Nat) (bs : List (Byte × Bool)) : (s.storeBytes pl off bs).evicting = s.evicting := rfl
@[simp] theorem State.storeBytes_tick (s : State) (pl : Place) (off : Nat) (bs : List (Byte × Bool)) : (s.storeBytes pl off bs).tick = s.tick := rfl
@[simp] theorem State.storeBytes_tickDue (s : State) (pl : Place) (off : Nat) (bs : List (Byte × Bool)) : (s.storeBytes pl off bs).tickDue = s.tickDue := rfl
@[simp] theorem State.storeBytes_tickAcc (s : State) (pl : Place) (off : Nat) (bs : List (Byte × Bool)) : (s.storeBytes pl off bs).tickAcc = s.tickAcc := rfl
@[simp] theorem State.storeBytes_preemptAt (s : State) (pl : Place) (off : Nat) (bs : List (Byte × Bool)) : (s.storeBytes pl off bs).preemptAt = s.preemptAt := rfl
@[simp] theorem State.storeBytes_freezing (s : State) (pl : Place) (off : Nat) (bs : List (Byte × Bool)) : (s.storeBytes pl off bs).freezing = s.freezing := rfl
@[simp] theorem State.storeBytes_mailbox (s : State) (pl : Place) (off : Nat) (bs : List (Byte × Bool)) : (s.storeBytes pl off bs).mailbox = s.mailbox := rfl
@[simp] theorem State.storeBytes_cairn (s : State) (pl : Place) (off : Nat) (bs : List (Byte × Bool)) : (s.storeBytes pl off bs).cairn = s.cairn := rfl
@[simp] theorem State.storeBytes_scree (s : State) (pl : Place) (off : Nat) (bs : List (Byte × Bool)) : (s.storeBytes pl off bs).scree = s.scree := rfl
@[simp] theorem State.storeBytes_screeSaved (s : State) (pl : Place) (off : Nat) (bs : List (Byte × Bool)) : (s.storeBytes pl off bs).screeSaved = s.screeSaved := rfl
@[simp] theorem State.storeBytes_mgmt (s : State) (pl : Place) (off : Nat) (bs : List (Byte × Bool)) : (s.storeBytes pl off bs).mgmt = s.mgmt := rfl
@[simp] theorem State.storeBytes_ptp (s : State) (pl : Place) (off : Nat) (bs : List (Byte × Bool)) : (s.storeBytes pl off bs).ptp = s.ptp := rfl
@[simp] theorem State.storeBytes_base (s : State) (pl : Place) (off : Nat) (bs : List (Byte × Bool)) : (s.storeBytes pl off bs).base = s.base := rfl
@[simp] theorem State.storeBytes_saved (s : State) (pl : Place) (off : Nat) (bs : List (Byte × Bool)) : (s.storeBytes pl off bs).saved = s.saved := rfl
@[simp] theorem State.storeBytes_raised (s : State) (pl : Place) (off : Nat) (bs : List (Byte × Bool)) : (s.storeBytes pl off bs).raised = s.raised := rfl
@[simp] theorem State.storeBytes_sent (s : State) (pl : Place) (off : Nat) (bs : List (Byte × Bool)) : (s.storeBytes pl off bs).sent = s.sent := rfl
@[simp] theorem State.storeBytes_links (s : State) (pl : Place) (off : Nat) (bs : List (Byte × Bool)) : (s.storeBytes pl off bs).links = s.links := rfl
@[simp] theorem State.storeBytes_linksDue (s : State) (pl : Place) (off : Nat) (bs : List (Byte × Bool)) : (s.storeBytes pl off bs).linksDue = s.linksDue := rfl
@[simp] theorem State.storeBytes_saveDue (s : State) (pl : Place) (off : Nat) (bs : List (Byte × Bool)) : (s.storeBytes pl off bs).saveDue = s.saveDue := rfl
@[simp] theorem State.storeBytes_bankTimes (s : State) (pl : Place) (off : Nat) (bs : List (Byte × Bool)) : (s.storeBytes pl off bs).bankTimes = s.bankTimes := rfl
@[simp] theorem State.storeBytes_poison (s : State) (pl : Place) (off : Nat) (bs : List (Byte × Bool)) : (s.storeBytes pl off bs).poison = s.poison := rfl
@[simp] theorem State.storeBytes_acks (s : State) (pl : Place) (off : Nat) (bs : List (Byte × Bool)) : (s.storeBytes pl off bs).acks = s.acks := rfl
@[simp] theorem State.storeBytes_inputs (s : State) (pl : Place) (off : Nat) (bs : List (Byte × Bool)) : (s.storeBytes pl off bs).inputs = s.inputs := rfl

/-! ## Fields that an update changes -/

@[simp] theorem State.bump_serial (s : State) : s.bump.serial = s.serial + 1 := rfl
@[simp] theorem State.bump_core (s : State) (r : Fin 288) : s.bump.core r = s.core r := rfl
@[simp] theorem State.bump_me (s : State) : s.bump.me = s.me := rfl
@[simp] theorem State.record_serial (s : State) (id : BitVec 16) (x : FaultRec) : (s.record id x).serial = s.serial + 1 := rfl
@[simp] theorem State.putWord_mem (s : State) (pl : Place) (off : Nat) (w : W64) :
    (s.putWord pl off w).mem = memWriteN s.mem (pl.key off) (leBytes 8 w.toNat) := rfl
@[simp] theorem State.putBytes_mem (s : State) (pl : Place) (off : Nat) (bs : List Byte) :
    (s.putBytes pl off bs).mem = memWriteN s.mem (pl.key off) bs := rfl

end Sys2Proof.Machine
end

