-- ==== Sys2Proof/Laws/Frame.lean ====
section
/-! SUPPORT. What each shared operation of an issuing word may change: its stream's place, latches, traps, bank requests
and the queues of its own core, and nothing that another word could read in the same cycle. -/

namespace Sys2Proof.Machine

/-- What no operation of an issuing word changes in its core. -/
structure Core.Framed (c k : Core) : Prop where
  regs : k.regs.s = c.regs.s ∧ k.regs.a = c.regs.a ∧ k.regs.v = c.regs.v ∧ k.regs.k = c.regs.k ∧ k.regs.loops = c.regs.loops
  core : k.sp = c.sp ∧ k.bars.val = c.bars.val ∧ k.tasks = c.tasks ∧ k.view = c.view ∧ k.ctx = c.ctx ∧ k.world = c.world ∧
    k.stop = c.stop ∧ k.freeze = c.freeze

/-- What no operation of an issuing word changes in the state. -/
structure State.Framed (s t : State) : Prop where
  focus : t.focus = s.focus
  others : ∀ r, r ≠ s.focus.rank → t.core r = s.core r
  mine : (s.core s.focus.rank).Framed (t.core s.focus.rank)
  mem : t.mem = s.mem
  rest : t.ring.slots = s.ring.slots ∧ t.engines = s.engines ∧ t.contexts = s.contexts ∧ t.jobs = s.jobs ∧ t.tick = s.tick ∧
    t.now = s.now ∧ t.mailbox = s.mailbox ∧ t.cairn = s.cairn ∧ t.prot = s.prot ∧ t.mgmt = s.mgmt

theorem Core.Framed.rfl {c : Core} : c.Framed c := by constructor <;> simp

theorem Core.Framed.trans {a b c : Core} (h : a.Framed b) (g : b.Framed c) : a.Framed c := by
  obtain ⟨⟨h1, h2, h3, h4, h5⟩, h6, h7, h8, h9, h10, h11, h12, h13⟩ := h
  obtain ⟨⟨g1, g2, g3, g4, g5⟩, g6, g7, g8, g9, g10, g11, g12, g13⟩ := g
  constructor <;> simp [*]

theorem State.Framed.rfl {s : State} : s.Framed s :=
  ⟨Eq.refl _, fun _ _ => Eq.refl _, .rfl, Eq.refl _, by simp⟩

theorem State.Framed.trans {a b c : State} (h : a.Framed b) (g : b.Framed c) : a.Framed c where
  focus := g.focus.trans h.focus
  others r hr := (g.others r (by rw [h.focus]; exact hr)).trans (h.others r hr)
  mine := h.mine.trans (by have := g.mine; rw [h.focus] at this; exact this)
  mem := g.mem.trans h.mem
  rest := by
    obtain ⟨h1, h2, h3, h4, h5, h6, h7, h8, h9, h10⟩ := h.rest
    obtain ⟨g1, g2, g3, g4, g5, g6, g7, g8, g9, g10⟩ := g.rest
    simp [*]

theorem Core.framed_setStream (c : Core) (st : Stream) (p : StreamPos) : c.Framed (c.setStream st p) := by
  constructor <;> simp [Core.setStream]

theorem Core.framed_touch (c : Core) (id : BitVec 16) (faddr : W64) (source : Nat) (write : Bool) (bank : Nat) (rel : Bool) :
    c.Framed (c.touch id faddr source write bank rel) := by
  constructor <;> simp [Core.touch, Core.setGuard]

theorem Core.framed_bind (c : Core) (h : BitVec 4) (t : Fin 32) (serial : Nat) : c.Framed (c.bind h t serial) := by
  constructor <;> simp [Core.bind]

theorem Core.framed_unbind (c : Core) (h : BitVec 4) : c.Framed (c.unbind h) := by
  constructor <;> simp [Core.unbind]

namespace State

/-- An update that frames the core in focus frames the state. -/
theorem framed_modMe {s : State} {f : Core → Core} (h : s.me.Framed (f s.me)) : s.Framed (s.modMe f) := by
  refine ⟨rfl, fun r hr => core_modMe_ne s f hr, ?_, rfl, by simp [State.modMe, State.modCore, State.setCore]⟩
  have e : (s.modMe f).core s.focus.rank = f s.me := core_modCore_same s _ f
  rw [e]
  exact h

theorem framed_bump (s : State) : s.Framed s.bump := ⟨rfl, fun _ _ => rfl, .rfl, rfl, by simp [State.bump]⟩

theorem framed_latch (s : State) (lat : Nat) (k : LatchKind) (flags : BitVec 6) : s.Framed (s.latch lat k flags) :=
  framed_modMe (by constructor <;> simp)

theorem framed_latchS (s : State) (lat : Nat) (d : BitVec 6) (x : W64) : s.Framed (s.latchS lat d x) := framed_latch _ _ _ _

theorem framed_latchA (s : State) (d : BitVec 5) (x : W64) : s.Framed (s.latchA d x) := framed_latch _ _ _ _

theorem framed_request (s : State) (off n : Nat) : s.Framed (s.request off n) := framed_modMe (by constructor <;> simp)

theorem framed_trap (s : State) (cause : Cause) (faddr faux : W64) : s.Framed (s.trap cause faddr faux) :=
  framed_modMe (by constructor <;> simp [Core.setStream])

theorem framed_trapWord (s : State) (cause : Cause) : s.Framed (s.trapWord cause) := framed_trap _ _ _ _

theorem framed_trapPtr (s : State) (cause : Cause) (p : W64) : s.Framed (s.trapPtr cause p) := framed_trap _ _ _ _

theorem framed_trapHandle (s : State) (cause : Cause) (h : BitVec 4) : s.Framed (s.trapHandle cause h) := framed_trap _ _ _ _

theorem framed_transfer (s : State) (st : Stream) (tgt : BitVec 17) : s.Framed (s.transfer st tgt) :=
  framed_modMe (Core.framed_setStream _ _ _)

theorem framed_touchSpan (s : State) (id : BitVec 16) (p : W64) (pl : Place) (off n source : Nat) (write rel : Bool) :
    s.Framed (s.touchSpan s.focus.rank id p pl off n source write rel) := by
  unfold State.touchSpan
  split
  · exact .rfl
  · simp only [State.modCore?, s.focus.rank.isLt, ↓reduceDIte]
    exact framed_modMe (Core.framed_touch _ _ _ _ _ _ _)

/-- A guard touch of a word is noted with the cycle. -/
theorem framed_wordTouch (s : State) (gs : List (Nat × BitVec 256)) (st : Stream) (issue off n : Nat) (write rel : Bool) :
    s.Framed (s.wordTouch s.focus.rank gs st issue off n write rel) := by
  unfold State.wordTouch
  split
  · exact .rfl
  · simp only [State.modCore?, s.focus.rank.isLt, ↓reduceDIte]
    exact framed_modMe (by constructor <;> simp)

/-- A read of the own terrace 0 by the word in focus frames the state. -/
theorem framed_ownRead (s : State) (off n : Nat) : s.Framed (s.ownRead off n) :=
  (framed_request s off n).trans (framed_wordTouch (s.request off n) _ _ _ _ _ _ _)

theorem framed_readOwn (s : State) (off n : Nat) : s.Framed (s.readOwn off n) := framed_ownRead s off n

theorem framed_portAdd (s : State) (k : AccKind) (p : W64) : s.Framed (s.portAdd k p) :=
  (framed_modMe (by constructor <;> simp)).trans (framed_bump _)

theorem framed_capAdd (s : State) (q : CapReq) : s.Framed (s.capAdd q) :=
  (framed_modMe (by constructor <;> simp)).trans (framed_bump _)

/-- Binding a handle frames the state. -/
theorem framed_bindFor {s t : State} {h : BitVec 4} {u : Fin 32} (e : s.bindFor h = some (t, u)) : s.Framed t := by
  unfold State.bindFor at e
  split at e
  · cases e
    exact .rfl
  · split at e
    · cases e
    · cases e
      exact (framed_modMe (by constructor <;> simp [Core.bind])).trans (framed_bump _)

/-- A terrace 0 load frames the state. -/
theorem framed_ownLoad {s t : State} {aa : BitVec 5} {off : BitVec 28} {n : Nat} {bs : List Byte}
    (e : s.ownLoad aa off n = .ok (t, bs)) : s.Framed t := by
  unfold State.ownLoad at e
  split at e
  · cases e
  · cases e
    exact framed_ownRead s _ _
  · cases e

/-- A terrace 0 store frames the state in its issue cycle. -/
theorem framed_ownStore {s t : State} {aa : BitVec 5} {off : BitVec 28} {bs : List (Byte × Bool)} {scalar : Bool}
    (e : s.ownStore aa off bs scalar = .next t) : s.Framed t := by
  unfold State.ownStore at e
  split at e <;> cases e
  · exact framed_trapPtr _ _ _
  · exact (framed_portAdd _ _ _).trans (framed_latch _ _ _ _)
  · exact framed_trapPtr _ _ _

/-- A landing frames the state in its issue cycle. -/
theorem framed_landVia {s t : State} {k : LandKind} {a : AccKind} {p : W64} {arr : Nat} {o : W64 × W64}
    (e : s.landVia k a p arr o = .next t) : s.Framed t := by
  unfold State.landVia at e
  split at e <;> cases e
  · exact framed_trapWord _ _
  · exact (framed_modMe (by constructor <;> simp)).trans (framed_portAdd _ _ _)

/-- The tests of a capture frame the state. -/
theorem framed_capFail {s t : State} {q : CapReq} {third : Option Cause} {p : W64} (e : s.capFail q third p = some t) :
    s.Framed t := by
  unfold State.capFail at e
  repeat' split at e
  all_goals cases e
  all_goals exact framed_trap _ _ _ _

/-- A capture frames the state in its issue cycle. -/
theorem framed_capture {s t : State} {op : CapOp} {x : QArgs} {kind : LandKind} (e : s.capture op x kind = .next t) :
    s.Framed t := by
  unfold State.capture at e
  dsimp only at e
  split at e
  · rename_i u hu
    cases e
    exact framed_capFail hu
  · cases e
    exact framed_capAdd _ _

/-- A V word with a plan frames the state in its issue cycle. -/
theorem framed_issueV {s t : State} {i : Instr} (e : s.issueV i = .next t) : s.Framed t := by
  unfold State.issueV at e
  repeat' split at e
  all_goals cases e
  · exact .rfl
  · exact framed_trapWord _ _
  · exact framed_trapWord _ _
  all_goals exact framed_modMe (by constructor <;> simp)

/-- MMA and MMAC frame the state in their issue cycle. -/
theorem framed_issueMma {s t : State} {complex : Bool} {hd : BitVec 4} {a : ASrc} {ab : BitVec 5} {acc : Bool}
    (e : s.issueMma complex hd a ab acc = .next t) : s.Framed t := by
  unfold State.issueMma at e
  dsimp only at e
  repeat' split at e
  all_goals cases e
  all_goals try exact framed_trap _ _ _ _
  all_goals
    refine (framed_bindFor ‹s.bindFor hd = some _›).trans ?_
    first
      | refine .trans (framed_modMe ?_) ((framed_readOwn _ _ _).trans (framed_latch _ _ _ _))
        constructor <;> simp
      | refine .trans (framed_modMe ?_) (framed_latch _ _ _ _)
        constructor <;> simp

end State

end Sys2Proof.Machine
end

