-- ==== Sys2Proof/Laws/Memory.lean ====
section
/-! SUPPORT. Memory: a byte reads as it was last written, a write leaves every other byte alone, and every operation keeps
the canonical form. -/

namespace Sys2Proof.Machine

/-! ## The canonical form -/

theorem memWfFrom_mono {m : List Host.Cell} {lo hi : Nat} (h : memWfFrom hi m = true) (hle : lo ≤ hi) : memWfFrom lo m = true := by
  cases m with
  | nil => rfl
  | cons c rest =>
    obtain ⟨a, b⟩ := c
    simp only [memWfFrom, Bool.and_eq_true, decide_eq_true_eq] at h ⊢
    exact ⟨⟨le_trans hle h.1.1, h.1.2⟩, h.2⟩

theorem memWfFrom_memWrite {m : List Host.Cell} {lo : Nat} (k : Nat) (v : Byte) (h : memWfFrom lo m = true) (hk : lo ≤ k) :
    memWfFrom lo (memWrite m k v) = true := by
  induction m generalizing lo with
  | nil =>
    by_cases hv : v = 0#8 <;> simp [memWrite, memWfFrom, hv, hk]
  | cons c rest ih =>
    obtain ⟨a, b⟩ := c
    simp only [memWfFrom, Bool.and_eq_true, decide_eq_true_eq, bne_iff_ne, ne_eq] at h
    obtain ⟨⟨ha, hb⟩, hr⟩ := h
    change ¬ b = 0#8 at hb
    unfold memWrite
    split
    · rename_i hka
      split
      · simp [memWfFrom, ha, hb, hr]
      · rename_i hv
        change ¬ v = 0#8 at hv
        have : k + 1 ≤ a := hka
        simp [memWfFrom, hk, hv, this, hb, hr]
    · rename_i hka
      split
      · rename_i he
        subst he
        split
        · exact memWfFrom_mono hr (by omega)
        · rename_i hv
          change ¬ v = 0#8 at hv
          simp [memWfFrom, hk, hv, hr]
      · rename_i hne
        have : a + 1 ≤ k := by omega
        simp [memWfFrom, ha, hb, ih hr this]

/-- A write keeps the canonical form. -/
theorem wf_memWrite {m : List Host.Cell} (k : Nat) (v : Byte) (h : Memory.wf m = true) : Memory.wf (memWrite m k v) = true :=
  memWfFrom_memWrite k v h (Nat.zero_le k)

/-- Writes of consecutive bytes keep the canonical form. -/
theorem wf_memWriteN {m : List Host.Cell} (k : Nat) (bs : List Byte) (h : Memory.wf m = true) :
    Memory.wf (memWriteN m k bs) = true := by
  induction bs generalizing m k with
  | nil => exact h
  | cons b rest ih => exact ih (k + 1) (wf_memWrite k b h)

/-- Writes of the enabled bytes keep the canonical form. -/
theorem wf_memWriteEn {m : List Host.Cell} (k : Nat) (bs : List (Byte × Bool)) (h : Memory.wf m = true) :
    Memory.wf (memWriteEn m k bs) = true := by
  induction bs generalizing m k with
  | nil => exact h
  | cons b rest ih =>
    obtain ⟨b, e⟩ := b
    unfold memWriteEn
    cases e
    · exact ih (k + 1) h
    · exact ih (k + 1) (wf_memWrite k b h)

theorem memWfFrom_filter {m : List Host.Cell} {lo : Nat} (p : Host.Cell → Bool) (h : memWfFrom lo m = true) :
    memWfFrom lo (m.filter p) = true := by
  induction m generalizing lo with
  | nil => rfl
  | cons c rest ih =>
    obtain ⟨a, b⟩ := c
    simp only [memWfFrom, Bool.and_eq_true, decide_eq_true_eq] at h
    simp only [List.filter]
    split
    · simp only [memWfFrom, Bool.and_eq_true, decide_eq_true_eq]
      exact ⟨h.1, ih h.2⟩
    · exact memWfFrom_mono (ih h.2) (by omega)

/-- Clearing a span keeps the canonical form. -/
theorem wf_memClear {m : List Host.Cell} (lo hi : Nat) (h : Memory.wf m = true) : Memory.wf (memClear m lo hi) = true :=
  memWfFrom_filter _ h

/-- The cells of a span are canonical. -/
theorem wf_memSlice {m : List Host.Cell} (lo hi : Nat) (h : Memory.wf m = true) : Memory.wf (memSlice m lo hi) = true :=
  memWfFrom_filter _ h

/-- Every key of a list lies in a span. -/
def KeysIn (lo hi : Nat) (m : List Host.Cell) : Prop := ∀ c ∈ m, lo ≤ c.1 ∧ c.1 < hi

theorem keysIn_memSlice (m : List Host.Cell) (lo hi : Nat) : KeysIn lo hi (memSlice m lo hi) := by
  intro c hc
  simp only [memSlice, List.mem_filter, Bool.and_eq_true, decide_eq_true_eq] at hc
  exact hc.2

/-- Two canonical lists in order, the first below the second's bound. -/
theorem memWfFrom_append {xs ys : List Host.Cell} {lo mid : Nat} (hx : memWfFrom lo xs = true) (hy : memWfFrom mid ys = true)
    (hlo : lo ≤ mid) (hk : ∀ c ∈ xs, c.1 < mid) : memWfFrom lo (xs ++ ys) = true := by
  induction xs generalizing lo with
  | nil => exact memWfFrom_mono hy hlo
  | cons c rest ih =>
    obtain ⟨a, b⟩ := c
    simp only [memWfFrom, Bool.and_eq_true, decide_eq_true_eq, List.cons_append] at hx ⊢
    have ha : a < mid := hk (a, b) (by simp)
    exact ⟨hx.1, ih hx.2 (by omega) fun c hc => hk c (by simp [hc])⟩

theorem memWfFrom_bound {m : List Host.Cell} {lo hi : Nat} (h : memWfFrom lo m = true) (hk : ∀ c ∈ m, hi ≤ c.1) :
    memWfFrom hi m = true := by
  cases m with
  | nil => rfl
  | cons c rest =>
    obtain ⟨a, b⟩ := c
    simp only [memWfFrom, Bool.and_eq_true, decide_eq_true_eq] at h ⊢
    exact ⟨⟨hk (a, b) (by simp), h.1.2⟩, h.2⟩

theorem memWfFrom_shift {m : List Host.Cell} {lo src dst : Nat} (h : memWfFrom lo m = true) (hlo : src ≤ lo) :
    memWfFrom (lo - src + dst) (m.map fun c => (c.1 - src + dst, c.2)) = true := by
  induction m generalizing lo with
  | nil => rfl
  | cons c rest ih =>
    obtain ⟨a, b⟩ := c
    simp only [memWfFrom, Bool.and_eq_true, decide_eq_true_eq, List.map_cons] at h ⊢
    have := ih h.2 (by omega)
    exact ⟨⟨by omega, h.1.2⟩, memWfFrom_mono this (by omega)⟩

/-- Copying a span keeps the canonical form. -/
theorem wf_memCopy {m : List Host.Cell} (src dst n : Nat) (h : Memory.wf m = true) : Memory.wf (memCopy m src dst n) = true := by
  have h1 : memWfFrom 0 (m.filter fun c => c.1 < dst) = true := memWfFrom_filter _ h
  have h2 : memWfFrom src (memSlice m src (src + n)) = true :=
    memWfFrom_bound (wf_memSlice src (src + n) h) fun c hc => (keysIn_memSlice m src (src + n) c hc).1
  have h3 := memWfFrom_shift (src := src) (dst := dst) h2 le_rfl
  have h4 : memWfFrom (dst + n) (m.filter fun c => dst + n ≤ c.1) = true := by
    refine memWfFrom_bound (memWfFrom_filter _ h) fun c hc => ?_
    simpa using (List.mem_filter.1 hc).2
  have h5 : memWfFrom 0 ((m.filter fun c => c.1 < dst) ++ (memSlice m src (src + n)).map fun c => (c.1 - src + dst, c.2)) = true := by
    refine memWfFrom_append h1 h3 (Nat.zero_le _) fun c hc => ?_
    have := (List.mem_filter.1 hc).2
    simp only [decide_eq_true_eq] at this
    omega
  refine memWfFrom_append h5 h4 (Nat.zero_le _) fun c hc => ?_
  rcases List.mem_append.1 hc with hc | hc
  · have := (List.mem_filter.1 hc).2
    simp only [decide_eq_true_eq] at this
    omega
  · obtain ⟨d, hd, rfl⟩ := List.mem_map.1 hc
    have := keysIn_memSlice m src (src + n) d hd
    simp only
    omega

/-- Three canonical spans that follow one another make a canonical memory. -/
theorem wf_append3 {xs ys zs : List Host.Cell} {lo hi : Nat} (hle : lo ≤ hi) (hx : Memory.wf xs = true) (hy : Memory.wf ys = true)
    (hz : Memory.wf zs = true) (kx : ∀ c ∈ xs, c.1 < lo) (ky : KeysIn lo hi ys) (kz : ∀ c ∈ zs, hi ≤ c.1) :
    Memory.wf (xs ++ ys ++ zs) = true := by
  have h1 : memWfFrom 0 (xs ++ ys) = true :=
    memWfFrom_append hx (memWfFrom_bound hy fun c hc => (ky c hc).1) (Nat.zero_le _) kx
  refine memWfFrom_append h1 (memWfFrom_bound hz kz) (Nat.zero_le _) fun c hc => ?_
  rcases List.mem_append.1 hc with hc | hc
  · exact lt_of_lt_of_le (kx c hc) hle
  · exact (ky c hc).2

/-! ## Reading after writing -/

theorem memRead_of_bound {m : List Host.Cell} {lo k : Nat} (h : memWfFrom lo m = true) (hk : k < lo) : memRead m k = 0 := by
  cases m with
  | nil => rfl
  | cons c rest =>
    obtain ⟨a, b⟩ := c
    simp only [memWfFrom, Bool.and_eq_true, decide_eq_true_eq] at h
    have h1 : ¬ a = k := by omega
    have h2 : k < a := by omega
    simp [memRead, h1, h2]

theorem memRead_memWrite_from {m : List Host.Cell} {lo : Nat} (k j : Nat) (v : Byte) (h : memWfFrom lo m = true) :
    memRead (memWrite m k v) j = if j = k then v else memRead m j := by
  induction m generalizing lo with
  | nil =>
    by_cases hv : v = 0#8
    · subst hv; simp [memWrite, memRead]
    · by_cases hj : j = k
      · simp [memWrite, memRead, hv, hj]
      · have : ¬ k = j := fun e => hj e.symm
        simp [memWrite, memRead, hv, hj, this]
  | cons c rest ih =>
    obtain ⟨a, b⟩ := c
    simp only [memWfFrom, Bool.and_eq_true, decide_eq_true_eq, bne_iff_ne, ne_eq] at h
    obtain ⟨⟨ha, hb⟩, hr⟩ := h
    change ¬ b = 0#8 at hb
    unfold memWrite
    split
    · rename_i hka
      by_cases hv : v = 0#8
      · subst hv
        by_cases hj : j = k
        · subst hj
          have h1 : ¬ a = j := by omega
          simp [memRead, h1, hka]
        · simp [hj]
      · by_cases hj : j = k
        · simp [memRead, hv, hj]
        · have h1 : ¬ k = j := fun e => hj e.symm
          by_cases hlt : j < k
          · have h2 : ¬ a = j := by omega
            have h3 : j < a := by omega
            simp [memRead, hv, hj, h1, hlt, h2, h3]
          · simp [memRead, hv, hj, h1, hlt]
    · rename_i hka
      split
      · rename_i he
        subst he
        by_cases hv : v = 0#8
        · subst hv
          by_cases hj : j = k
          · subst hj
            simp [memRead_of_bound hr]
          · have h1 : ¬ k = j := fun e => hj e.symm
            by_cases hlt : j < k
            · simp [memRead, hj, h1, hlt, memRead_of_bound hr (show j < k + 1 by omega)]
            · simp [memRead, hj, h1, hlt]
        · by_cases hj : j = k
          · simp [memRead, hv, hj]
          · have h1 : ¬ k = j := fun e => hj e.symm
            simp [memRead, hv, hj, h1]
      · rename_i hne
        by_cases hja : a = j
        · have : ¬ j = k := by omega
          simp [memRead, hja, this]
        · by_cases hlt : j < a
          · have : ¬ j = k := by omega
            simp [memRead, hja, hlt, this]
          · simp [memRead, hja, hlt, ih hr]

/-- Bytes that replace a span, as cells: their keys rise from the span's first. -/
theorem memWfFrom_cells (bs : List Byte) (k : Nat) :
    memWfFrom k ((bs.zipIdx k).filterMap fun x => if x.1 = 0 then none else some (x.2, x.1)) = true := by
  induction bs generalizing k with
  | nil => rfl
  | cons b rest ih =>
    rw [List.zipIdx_cons, List.filterMap_cons]
    by_cases hb : b = 0
    · simp only [if_pos hb]
      exact memWfFrom_mono (ih (k + 1)) (by omega)
    · simp only [if_neg hb, memWfFrom, Bool.and_eq_true, decide_eq_true_eq]
      exact ⟨⟨le_refl k, by simpa using hb⟩, ih (k + 1)⟩

/-- Replacing a span keeps the canonical form. -/
theorem wf_memPut {m : List Host.Cell} (k : Nat) (bs : List Byte) (h : Memory.wf m = true) :
    Memory.wf (memPut m k bs) = true := by
  refine wf_append3 (Nat.le_add_right k bs.length) (memWfFrom_filter _ h) (memWfFrom_mono (memWfFrom_cells bs k) (Nat.zero_le _))
    (memWfFrom_filter _ h) (fun c hc => ?_) (fun c hc => ?_) fun c hc => ?_
  · simpa using (List.mem_filter.1 hc).2
  · obtain ⟨⟨b, i⟩, hx, hy⟩ := List.mem_filterMap.1 hc
    have hi := List.mem_zipIdx hx
    simp only at hy
    split at hy
    · cases hy
    · cases hy
      simp only at hi ⊢
      omega
  · simpa using (List.mem_filter.1 hc).2

/-- The byte at the written key is the one written; every other byte reads as before. -/
theorem memRead_memWrite {m : List Host.Cell} (h : Memory.wf m = true) (k j : Nat) (v : Byte) :
    memRead (memWrite m k v) j = if j = k then v else memRead m j := memRead_memWrite_from k j v h

/-- Bytes written from a key on: inside the span their own byte is read, outside it the old one. -/
theorem memRead_memWriteN {m : List Host.Cell} (h : Memory.wf m = true) (k j : Nat) (bs : List Byte) :
    memRead (memWriteN m k bs) j = if k ≤ j ∧ j < k + bs.length then (bs[j - k]?).getD 0 else memRead m j := by
  induction bs generalizing m k with
  | nil =>
    have : ¬ (k ≤ j ∧ j < k + ([] : List Byte).length) := by simp
    rw [if_neg this]
    rfl
  | cons b rest ih =>
    have := ih (wf_memWrite k b h) (k + 1)
    rw [memWriteN, this, memRead_memWrite h]
    by_cases hj : j = k
    · subst hj
      simp
    · by_cases h2 : k + 1 ≤ j ∧ j < k + 1 + rest.length
      · have h3 : k ≤ j ∧ j < k + (b :: rest).length := by simp; omega
        have h4 : j - k = (j - (k + 1)) + 1 := by omega
        rw [if_pos h2, if_pos h3, h4, List.getElem?_cons_succ]
      · have h3 : ¬ (k ≤ j ∧ j < k + (b :: rest).length) := by simp; omega
        rw [if_neg h2, if_neg h3, if_neg hj]

/-- Bytes written where their enable is set: inside the span an enabled byte is read, elsewhere the old one. -/
theorem memRead_memWriteEn {m : List Host.Cell} (h : Memory.wf m = true) (k j : Nat) (bs : List (Byte × Bool)) :
    memRead (memWriteEn m k bs) j =
      match (if k ≤ j then bs[j - k]? else none) with
      | some (b, true) => b
      | _ => memRead m j := by
  induction bs generalizing m k with
  | nil => by_cases hk : k ≤ j <;> simp [memWriteEn, hk]
  | cons b rest ih =>
    obtain ⟨b, e⟩ := b
    have hw : Memory.wf (if e then memWrite m k b else m) = true := by
      cases e
      · exact h
      · exact wf_memWrite k b h
    rw [memWriteEn, ih hw (k + 1)]
    by_cases hj : j = k
    · subst hj
      have h1 : ¬ j + 1 ≤ j := by omega
      cases e <;> simp [h1, memRead_memWrite h]
    · by_cases hk : k ≤ j
      · have h1 : k + 1 ≤ j := by omega
        have h2 : j - k = (j - (k + 1)) + 1 := by omega
        rw [if_pos h1, if_pos hk, h2, List.getElem?_cons_succ]
        cases e
        · rfl
        · simp only [if_true]
          rw [memRead_memWrite h, if_neg hj]
      · have h1 : ¬ k + 1 ≤ j := by omega
        rw [if_neg h1, if_neg hk]
        cases e
        · rfl
        · simp only [if_true]
          rw [memRead_memWrite h, if_neg hj]

/-! ## The same through the places of the part -/

/-- A stored byte outside the span reads as before. -/
theorem State.byteAt_storeBytes_out (s : State) (h : Memory.wf s.mem = true) (pl pl' : Place) (off off' : Nat)
    (bs : List (Byte × Bool)) (hout : pl'.key off' < pl.key off ∨ pl.key off + bs.length ≤ pl'.key off') :
    (s.storeBytes pl off bs).byteAt pl' off' = s.byteAt pl' off' := by
  have key : memRead (s.storeBytes pl off bs).mem (pl'.key off') = memRead s.mem (pl'.key off') := by
    rw [State.storeBytes, State.storeBy, memRead_memWriteEn h]
    by_cases hk : pl.key off ≤ pl'.key off'
    · rw [if_pos hk, List.getElem?_eq_none_iff.2 (by rw [List.length_mapIdx]; omega)]
    · rw [if_neg hk]
  simp only [State.byteAt, key]
  rfl

/-- Two places' keys differ unless place and offset agree, within the sizes of the part. -/
def Place.inRange : Place → Nat → Prop
  | .t0 r, off => r < 288 ∧ off < 2 ^ 21
  | .layer e, off => e < 16 ∧ off < 2 ^ 30
  | .lpddr, off => off < 2 ^ 52
  | .host, _ => True

theorem Place.key_inj {p q : Place} {a b : Nat} (hp : p.inRange a) (hq : q.inRange b) (h : p.key a = q.key b) : p = q ∧ a = b := by
  cases p <;> cases q <;> simp only [Place.key, Place.inRange] at * <;> simp <;> omega

end Sys2Proof.Machine
end

