-- ==== Sys2Proof/Laws/Kept.lean ====
section
/-! SUPPORT. What every operation of the machine does to memory as a whole: it stays canonical. One lemma for each
operation on states. -/

namespace Sys2Proof.Machine

/-- The memory of a state is in its canonical form. -/
abbrev State.Kept (s : State) : Prop := Memory.wf s.mem = true

theorem kept_foldl {α : Type} {f : State → α → State} (hf : ∀ s a, s.Kept → (f s a).Kept) {s : State} (l : List α)
    (h : s.Kept) : (l.foldl f s).Kept := by
  induction l generalizing s with
  | nil => exact h
  | cons a l ih => exact ih (hf s a h)

/-- The state of a pair that an operation answers. -/
theorem kept_fst {α : Type} {p : State × α} {t : State} {a : α} (e : p = (t, a)) (h : p.1.Kept) : t.Kept := by
  rw [e] at h
  exact h

theorem kept_ite {p : Prop} [Decidable p] {a b : State} (ha : a.Kept) (hb : b.Kept) : (if p then a else b).Kept := by
  split <;> assumption

/-- Changes that keep the form, one after another, keep it. -/
theorem wf_copies {α : Type} {f : List Host.Cell → α → List Host.Cell}
    (hf : ∀ m a, Memory.wf m = true → Memory.wf (f m a) = true) (l : List α) {m : List Host.Cell} (h : Memory.wf m = true) :
    Memory.wf (l.foldl f m) = true := by
  induction l generalizing m with
  | nil => exact h
  | cons a l ih => exact ih (hf m a h)

theorem kept_storeBy {s : State} (gs : List (Nat × BitVec 256)) (pl : Place) (off : Nat) (bs : List (Byte × Bool)) (h : s.Kept) :
    (State.storeBy s gs pl off bs).Kept := by
  unfold State.storeBy
  repeat' (first | with_reducible assumption | with_reducible refine kept_foldl (fun _ _ _ => ?_) _ ?_ | with_reducible apply wf_memWriteEn)

theorem kept_storeBytes {s : State} (pl : Place) (off : Nat) (bs : List (Byte × Bool)) (h : s.Kept) :
    (State.storeBytes s pl off bs).Kept := by
  unfold State.storeBytes
  repeat' (first | with_reducible assumption | with_reducible refine kept_foldl (fun _ _ _ => ?_) _ ?_ | with_reducible apply kept_storeBy)

theorem kept_putWord {s : State} (pl : Place) (off : Nat) (w : W64) (h : s.Kept) :
    (State.putWord s pl off w).Kept := by
  unfold State.putWord
  repeat' (first | with_reducible assumption | with_reducible refine kept_foldl (fun _ _ _ => ?_) _ ?_ | with_reducible apply wf_memWriteN)

theorem kept_putBytes {s : State} (pl : Place) (off : Nat) (bs : List Byte) (h : s.Kept) :
    (State.putBytes s pl off bs).Kept := by
  unfold State.putBytes
  repeat' (first | with_reducible assumption | with_reducible refine kept_foldl (fun _ _ _ => ?_) _ ?_ | with_reducible apply wf_memWriteN)

theorem kept_setCore {s : State} (r : Fin 288) (c : Core) (h : s.Kept) :
    (State.setCore s r c).Kept := h

theorem kept_modCore {s : State} (r : Fin 288) (f : Core → Core) (h : s.Kept) :
    (State.modCore s r f).Kept := by
  unfold State.modCore
  repeat' (first | with_reducible assumption | with_reducible refine kept_foldl (fun _ _ _ => ?_) _ ?_ | with_reducible apply kept_setCore)

theorem kept_setMe {s : State} (c : Core) (h : s.Kept) :
    (State.setMe s c).Kept := by
  unfold State.setMe
  repeat' (first | with_reducible assumption | with_reducible refine kept_foldl (fun _ _ _ => ?_) _ ?_ | with_reducible apply kept_setCore)

theorem kept_modMe {s : State} (f : Core → Core) (h : s.Kept) :
    (State.modMe s f).Kept := by
  unfold State.modMe
  repeat' (first | with_reducible assumption | with_reducible refine kept_foldl (fun _ _ _ => ?_) _ ?_ | with_reducible apply kept_modCore)

theorem kept_modCore? {s : State} (r : Nat) (f : Core → Core) (h : s.Kept) :
    (State.modCore? s r f).Kept := by
  unfold State.modCore?
  repeat' (first | with_reducible assumption | with_reducible refine kept_foldl (fun _ _ _ => ?_) _ ?_ | with_reducible apply kept_modCore | split)

theorem kept_bump {s : State} (h : s.Kept) :
    (State.bump s).Kept := h

theorem kept_modCtx {s : State} (id : BitVec 16) (f : Context → Context) (h : s.Kept) :
    (State.modCtx s id f).Kept := h

theorem kept_modJob {s : State} (id : Nat) (f : Job → Job) (h : s.Kept) :
    (State.modJob s id f).Kept := h

theorem kept_modEngine {s : State} (e : Fin 96) (f : Engine → Engine) (h : s.Kept) :
    (State.modEngine s e f).Kept := h

theorem kept_raise {s : State} (v : Nat) (h : s.Kept) :
    (State.raise s v).Kept := h

theorem kept_seen {s : State} (h : s.Kept) : s.seen.Kept := by
  unfold State.seen
  generalize s.hidden = l
  induction l with
  | nil => exact h
  | cons x l ih => exact wf_memWrite _ _ ih

theorem kept_putSeen {s : State} (k : Nat) (b : Byte) (h : s.Kept) :
    (State.putSeen s k b).Kept := by
  unfold State.putSeen
  repeat' (first | with_reducible assumption | with_reducible refine kept_foldl (fun _ _ _ => ?_) _ ?_ | with_reducible apply wf_memWrite | split)

theorem kept_storeOver {s : State} (gs : List (Nat × BitVec 256)) (pl : Place) (off : Nat) (bs : List (Byte × Bool)) (h : s.Kept) :
    (State.storeOver s gs pl off bs).Kept := by
  unfold State.storeOver
  repeat' (first | with_reducible assumption | with_reducible refine kept_foldl (fun _ _ _ => ?_) _ ?_ | with_reducible apply kept_storeBy | with_reducible apply kept_putSeen | split)

theorem kept_askLines {s : State} (t : Nat) (ls : List (Nat × Nat)) (h : s.Kept) :
    (State.askLines s t ls).Kept := by
  unfold State.askLines
  repeat' (first | with_reducible assumption | with_reducible refine kept_foldl (fun _ _ _ => ?_) _ ?_ | with_reducible apply kept_bump)

/-- Waiting for banks changes no memory. -/
theorem kept_bankTurn {s t : State} {ticket : Option Nat} {need : List (Nat × Nat)} {k : Nat}
    (e : s.bankTurn ticket need = .wait t k) (h : s.Kept) : t.Kept := by
  unfold State.Kept
  rw [State.bankTurn_mem e]
  exact h

theorem kept_serveBanks {s : State} (h : s.Kept) :
    (State.serveBanks s).Kept := by
  unfold State.serveBanks
  exact h

theorem kept_latch {s : State} (lat : Nat) (k : LatchKind) (flags : BitVec 6) (h : s.Kept) :
    (State.latch s lat k flags).Kept := by
  unfold State.latch
  repeat' (first | with_reducible assumption | with_reducible refine kept_foldl (fun _ _ _ => ?_) _ ?_ | with_reducible apply kept_modMe)

theorem kept_latchS {s : State} (lat : Nat) (r : BitVec 6) (x : W64) (h : s.Kept) :
    (State.latchS s lat r x).Kept := by
  unfold State.latchS
  repeat' (first | with_reducible assumption | with_reducible refine kept_foldl (fun _ _ _ => ?_) _ ?_ | with_reducible apply kept_latch)

theorem kept_latchA {s : State} (r : BitVec 5) (x : W64) (h : s.Kept) :
    (State.latchA s r x).Kept := by
  unfold State.latchA
  repeat' (first | with_reducible assumption | with_reducible refine kept_foldl (fun _ _ _ => ?_) _ ?_ | with_reducible apply kept_latch)

theorem kept_request {s : State} (off n : Nat) (h : s.Kept) :
    (State.request s off n).Kept := by
  unfold State.request
  repeat' (first | with_reducible assumption | with_reducible refine kept_foldl (fun _ _ _ => ?_) _ ?_ | with_reducible apply kept_modMe)

theorem kept_trap {s : State} (cause : Cause) (faddr faux : W64) (h : s.Kept) :
    (State.trap s cause faddr faux).Kept := by
  unfold State.trap
  repeat' (first | with_reducible assumption | with_reducible refine kept_foldl (fun _ _ _ => ?_) _ ?_ | with_reducible apply kept_modMe)

theorem kept_trapWord {s : State} (cause : Cause) (h : s.Kept) :
    (State.trapWord s cause).Kept := by
  unfold State.trapWord
  repeat' (first | with_reducible assumption | with_reducible refine kept_foldl (fun _ _ _ => ?_) _ ?_ | with_reducible apply kept_trap)

theorem kept_trapPtr {s : State} (cause : Cause) (ptr : W64) (h : s.Kept) :
    (State.trapPtr s cause ptr).Kept := by
  unfold State.trapPtr
  repeat' (first | with_reducible assumption | with_reducible refine kept_foldl (fun _ _ _ => ?_) _ ?_ | with_reducible apply kept_trap)

theorem kept_record {s : State} (id : BitVec 16) (r : FaultRec) (h : s.Kept) :
    (State.record s id r).Kept := by
  unfold State.record
  repeat' (first | with_reducible assumption | with_reducible refine kept_foldl (fun _ _ _ => ?_) _ ?_ | with_reducible apply kept_bump | with_reducible apply kept_modCtx)

theorem kept_addBarrier {s : State} (id : BitVec 16) (r b n : Nat) (h : s.Kept) :
    (State.addBarrier s id r b n).Kept := by
  unfold State.addBarrier
  repeat' (first | with_reducible assumption | with_reducible refine kept_foldl (fun _ _ _ => ?_) _ ?_ | with_reducible apply kept_modCore? | with_reducible apply kept_putWord | with_reducible apply kept_record | split)

theorem kept_subBarrier {s : State} (id : BitVec 16) (r b n : Nat) (h : s.Kept) :
    (State.subBarrier s id r b n).Kept := by
  unfold State.subBarrier
  repeat' (first | with_reducible assumption | with_reducible refine kept_foldl (fun _ _ _ => ?_) _ ?_ | with_reducible apply kept_modCore? | with_reducible apply kept_putWord | split)

theorem kept_wordTouch {s : State} (r : Nat) (gs : List (Nat × BitVec 256)) (strm : Stream) (issue off n : Nat) (write rel : Bool) (h : s.Kept) :
    (State.wordTouch s r gs strm issue off n write rel).Kept := by
  unfold State.wordTouch
  repeat' (first | with_reducible assumption | with_reducible refine kept_foldl (fun _ _ _ => ?_) _ ?_ | with_reducible apply kept_modCore? | split)

theorem kept_touchSpan {s : State} (r : Nat) (id : BitVec 16) (ptr : W64) (pl : Place) (off n source : Nat) (write rel : Bool) (h : s.Kept) :
    (State.touchSpan s r id ptr pl off n source write rel).Kept := by
  unfold State.touchSpan
  repeat' (first | with_reducible assumption | with_reducible refine kept_foldl (fun _ _ _ => ?_) _ ?_ | with_reducible apply kept_modCore? | split)

theorem kept_cacheLeaf {s : State} (eng : Option (Fin 96)) (id : BitVec 16) (va : Nat) (l : Leaf) (h : s.Kept) :
    (State.cacheLeaf s eng id va l).Kept := by
  unfold State.cacheLeaf
  repeat' (first | with_reducible assumption | with_reducible refine kept_foldl (fun _ _ _ => ?_) _ ?_ | with_reducible apply kept_modEngine | split)

theorem kept_writePieces {s : State} (ps : List (Place × Nat × Nat × Leaf)) (bs : List (Byte × Bool)) (h : s.Kept) :
    (s.writePieces ps bs).Kept := by
  induction ps generalizing s bs with
  | nil => exact h
  | cons p ps ih => exact ih _ (wf_memWriteEn _ _ h)

theorem kept_noteWrite {s : State} (pl : Place) (pa n : Nat) (h : s.Kept) :
    (State.noteWrite s pl pa n).Kept := h

theorem kept_noteWrites {s : State} (ps : List (Place × Nat × Nat × Leaf)) (h : s.Kept) :
    (State.noteWrites s ps).Kept := by
  unfold State.noteWrites
  repeat' (first | with_reducible assumption | with_reducible refine kept_foldl (fun _ _ _ => ?_) _ ?_ | with_reducible apply kept_noteWrite)

theorem kept_transfer {s : State} (st : Stream) (tgt : BitVec 17) (h : s.Kept) :
    (State.transfer s st tgt).Kept := by
  unfold State.transfer
  repeat' (first | with_reducible assumption | with_reducible refine kept_foldl (fun _ _ _ => ?_) _ ?_ | with_reducible apply kept_modMe)

theorem kept_ownRead {s : State} (off n : Nat) (h : s.Kept) :
    (State.ownRead s off n).Kept := by
  unfold State.ownRead
  repeat' (first | with_reducible assumption | with_reducible refine kept_foldl (fun _ _ _ => ?_) _ ?_ | with_reducible apply kept_wordTouch | with_reducible apply kept_request)

theorem kept_readOwn {s : State} (off n : Nat) (h : s.Kept) :
    (State.readOwn s off n).Kept := by
  unfold State.readOwn
  repeat' (first | with_reducible assumption | with_reducible refine kept_foldl (fun _ _ _ => ?_) _ ?_ | with_reducible apply kept_ownRead)

theorem kept_trapHandle {s : State} (cause : Cause) (hd : BitVec 4) (h : s.Kept) : (s.trapHandle cause hd).Kept := h

theorem kept_portAdd {s : State} (k : AccKind) (p : W64) (h : s.Kept) :
    (State.portAdd s k p).Kept := by
  unfold State.portAdd
  repeat' (first | with_reducible assumption | with_reducible refine kept_foldl (fun _ _ _ => ?_) _ ?_ | with_reducible apply kept_bump | with_reducible apply kept_modMe)

theorem kept_capAdd {s : State} (q : CapReq) (h : s.Kept) :
    (State.capAdd s q).Kept := by
  unfold State.capAdd
  repeat' (first | with_reducible assumption | with_reducible refine kept_foldl (fun _ _ _ => ?_) _ ?_ | with_reducible apply kept_bump | with_reducible apply kept_modMe)

theorem kept_passOn {s : State} (x : SentFlit) (h : s.Kept) : (s.passOn x).Kept := by
  unfold State.passOn
  split <;> exact h

theorem kept_sendFlit {s : State} (pkg : Nat) (kind : FlitKind) (id : BitVec 16) (world : Bool) (off : Nat) (bs : List Byte) (h : s.Kept) :
    (s.sendFlit pkg kind id world off bs).Kept := kept_passOn _ h

theorem kept_cacheSpan {s : State} (eng : Option (Fin 96)) (x : Context) (va n : Nat) (ps : List (Place × Nat × Nat × Leaf)) (h : s.Kept) :
    (State.cacheSpan s eng x va n ps).Kept := by
  unfold State.cacheSpan
  repeat' (first | with_reducible assumption | with_reducible refine kept_foldl (fun _ _ _ => ?_) _ ?_ | with_reducible apply kept_cacheLeaf)

theorem kept_readAt {s : State} (eng : Option (Fin 96)) (id : BitVec 16) (p : W64) (n : Nat) (h : s.Kept) :
    (State.readAt s eng id p n).1.Kept := by
  unfold State.readAt
  repeat' (first | with_reducible assumption | with_reducible refine kept_foldl (fun _ _ _ => ?_) _ ?_ | with_reducible apply kept_seen | with_reducible apply kept_cacheSpan | with_reducible apply kept_bump | with_reducible apply kept_sendFlit | split)

theorem kept_heal {s : State} (pl : Place) (off n : Nat) (h : s.Kept) :
    (State.heal s pl off n).Kept := h

theorem kept_writeAt {s : State} (eng : Option (Fin 96)) (id : BitVec 16) (p : W64) (bs : List (Byte × Bool)) (h : s.Kept) :
    (State.writeAt s eng id p bs).1.Kept := by
  unfold State.writeAt
  repeat' (first | with_reducible assumption | with_reducible refine kept_foldl (fun _ _ _ => ?_) _ ?_ | with_reducible apply kept_noteWrite | with_reducible apply kept_heal | with_reducible apply kept_storeOver | with_reducible apply kept_noteWrites | with_reducible apply kept_writePieces | with_reducible apply kept_cacheSpan | with_reducible apply kept_sendFlit | with_reducible apply wf_memWriteEn | split | dsimp only [State.Kept])

theorem kept_touchAt {s : State} (r : Nat) (id : BitVec 16) (p : W64) (n source : Nat) (write rel : Bool) (h : s.Kept) :
    (State.touchAt s r id p n source write rel).Kept := by
  unfold State.touchAt
  repeat' (first | with_reducible assumption | with_reducible refine kept_foldl (fun _ _ _ => ?_) _ ?_ | with_reducible apply kept_touchSpan | split)

theorem kept_portDone {s : State} (r : Fin 288) (id : Nat) (h : s.Kept) :
    (State.portDone s r id).Kept := by
  unfold State.portDone
  repeat' (first | with_reducible assumption | with_reducible refine kept_foldl (fun _ _ _ => ?_) _ ?_ | with_reducible apply kept_modCore)

theorem kept_deliver {s : State} (r : Fin 288) (id : Nat) (v : LandValue) (ready : Nat) (poison : Bool) (h : s.Kept) :
    (State.deliver s r id v ready poison).Kept := by
  unfold State.deliver
  repeat' (first | with_reducible assumption | with_reducible refine kept_foldl (fun _ _ _ => ?_) _ ?_ | with_reducible apply kept_modCore)

theorem kept_coreRecord {s : State} (r : Fin 288) (a : Access) (cause : Byte) (reason akind : Nat) (held lost : Bool) (ptr : W64) (h : s.Kept) :
    (State.coreRecord s r a cause reason akind held lost ptr).Kept := by
  unfold State.coreRecord
  repeat' (first | with_reducible assumption | with_reducible refine kept_foldl (fun _ _ _ => ?_) _ ?_ | with_reducible apply kept_record)

theorem kept_holdAccess {s : State} (r : Fin 288) (a : Access) (reason : Nat) (table : Bool) (ptr : W64) (h : s.Kept) :
    (State.holdAccess s r a reason table ptr).Kept := by
  unfold State.holdAccess
  repeat' (first | with_reducible assumption | with_reducible refine kept_foldl (fun _ _ _ => ?_) _ ?_ | with_reducible apply kept_coreRecord | with_reducible apply kept_modCore | split | dsimp only [State.Kept])

theorem kept_landSpoilt {s : State} (r : Fin 288) (a : Access) (q : W64 × Nat) (h : s.Kept) :
    (State.landSpoilt s r a q).Kept := by
  unfold State.landSpoilt
  repeat' (first | with_reducible assumption | with_reducible refine kept_foldl (fun _ _ _ => ?_) _ ?_ | with_reducible apply kept_portDone | with_reducible apply kept_bump | with_reducible apply kept_deliver)

theorem kept_landPoison {s : State} (r : Fin 288) (a : Access) (n : Nat) (cause : Byte) (reason akind : Nat) (ptr : W64) (h : s.Kept) :
    (State.landPoison s r a n cause reason akind ptr).Kept := by
  unfold State.landPoison
  repeat' (first | with_reducible assumption | with_reducible refine kept_foldl (fun _ _ _ => ?_) _ ?_ | with_reducible apply kept_portDone | with_reducible apply kept_deliver | with_reducible apply kept_coreRecord)

theorem kept_meetLost {s : State} (r : Fin 288) (a : Access) (h : s.Kept) :
    (State.meetLost s r a).Kept := by
  unfold State.meetLost
  repeat' (first | with_reducible assumption | with_reducible refine kept_foldl (fun _ _ _ => ?_) _ ?_ | with_reducible apply kept_deliver | with_reducible apply kept_modCore | split)

theorem kept_landBytes {s : State} (r : Fin 288) (a : Access) (bs : List Byte) (h : s.Kept) :
    (State.landBytes s r a bs).Kept := by
  unfold State.landBytes
  repeat' (first | with_reducible assumption | with_reducible refine kept_foldl (fun _ _ _ => ?_) _ ?_ | with_reducible apply kept_portDone | with_reducible apply kept_bump | with_reducible apply kept_deliver)

theorem kept_landRead {s : State} (r : Fin 288) (a : Access) (n dest : Nat) (k : State → List Byte → State)
    (hk : ∀ t : State, t.Kept → ∀ bs, (k t bs).Kept) (h : s.Kept) : (s.landRead r a n dest k).Kept := by
  unfold State.landRead
  split
  · exact kept_landPoison _ _ _ _ _ _ _ h
  · have hr := kept_readAt (some (mapUnit r)) a.ctxid a.ptr n h
    split <;> rename_i e <;> rw [e] at hr
    · split
      · exact kept_landSpoilt _ _ _ hr
      · exact hk _ (kept_touchAt _ _ _ _ _ _ _ hr) _
    · exact kept_holdAccess _ _ _ _ _ hr
    · exact kept_meetLost _ _ hr

theorem kept_landSegment {s : State} (r : Fin 288) (a : Access) (xf : Nat) (h : s.Kept) : (s.landSegment r a xf).Kept := by
  have bad : ∀ t : State, t.Kept → (t.landPoison r a 2048 0 7 4 a.ptr).Kept :=
    fun t ht => kept_landPoison _ _ _ _ _ _ _ ht
  unfold State.landSegment
  dsimp only
  split
  · exact bad _ h
  · refine kept_landRead _ _ _ _ _ (fun t ht bs => kept_ite (bad _ ht) ?_) h
    exact kept_landRead _ _ _ _ _
      (fun u hu cs => kept_ite (bad _ hu) (kept_ite (kept_landBytes _ _ _ hu) (kept_landBytes _ _ _ hu))) ht

theorem kept_firstHalf {s : State} (r : Fin 288) (a : Access) (bs : List Byte) (h : s.Kept) :
    (State.firstHalf s r a bs).Kept := by
  unfold State.firstHalf
  repeat' (first | with_reducible assumption | with_reducible refine kept_foldl (fun _ _ _ => ?_) _ ?_ | with_reducible apply kept_bump | with_reducible apply kept_modCore)

theorem kept_atomic {s : State} (r : Fin 288) (a : Access) (op : AtomOp) (wide : Bool) (b e : W64) (returns : Bool) (h : s.Kept) :
    (State.atomic s r a op wide b e returns).Kept := by
  unfold State.atomic
  repeat' (first | with_reducible assumption | with_reducible refine kept_foldl (fun _ _ _ => ?_) _ ?_ | with_reducible apply kept_bump | with_reducible apply kept_deliver | with_reducible apply kept_portDone | with_reducible apply kept_coreRecord | with_reducible apply kept_landSpoilt | with_reducible apply kept_writeAt | with_reducible apply kept_holdAccess | with_reducible apply kept_meetLost | with_reducible apply kept_readAt | with_reducible apply kept_firstHalf | with_reducible apply kept_touchAt | with_reducible refine kept_fst (by assumption) ?_ | split | dsimp only [State.Kept])

theorem kept_portWrite {s : State} (r : Fin 288) (a : Access) (bs : List Byte) (h : s.Kept) :
    (State.portWrite s r a bs).Kept := by
  unfold State.portWrite
  repeat' (first | with_reducible assumption | with_reducible refine kept_foldl (fun _ _ _ => ?_) _ ?_ | with_reducible apply kept_writeAt | with_reducible apply kept_holdAccess | with_reducible apply kept_meetLost | with_reducible apply kept_portDone | with_reducible apply kept_touchAt | with_reducible refine kept_fst (by assumption) ?_ | split)

theorem kept_portPerform {s : State} (r : Fin 288) (a : Access) (h : s.Kept) : (State.portPerform s r a).Kept := by
  unfold State.portPerform
  dsimp only
  split
  · split
    · exact kept_landRead _ _ _ _ _ (fun t ht bs => kept_landBytes _ _ _ ht) h
    · exact kept_landSegment _ _ _ h
  · exact kept_atomic _ _ _ _ _ _ _ h
  · exact kept_atomic _ _ _ _ _ _ _ h
  · split
    · exact kept_bump (kept_modCore _ _ (kept_modEngine _ _ h))
    · exact kept_portWrite _ _ _ h
  · exact kept_portWrite _ _ _ h
  · exact kept_portDone _ _ h
  · exact h

theorem kept_putFence {s : State} (r : Fin 288) (h : s.Kept) :
    (State.putFence s r).Kept := by
  unfold State.putFence
  repeat' (first | with_reducible assumption | with_reducible refine kept_foldl (fun _ _ _ => ?_) _ ?_ | with_reducible apply kept_bump | with_reducible apply kept_modCore | split)

theorem kept_portWait {s : State} (r : Fin 288) (id : Nat) (ask : Option Nat) (h : s.Kept) :
    (State.portWait s r id ask).Kept := by
  unfold State.portWait
  repeat' (first | with_reducible assumption | with_reducible refine kept_foldl (fun _ _ _ => ?_) _ ?_ | with_reducible apply kept_modCore)

theorem kept_portAct {s : State} (r : Fin 288) (a : Access) (v : State) (h : s.Kept) : (s.portAct r a v).Kept := by
  unfold State.portAct
  split
  · exact kept_portDone _ _ (kept_coreRecord _ _ _ _ _ _ _ _ h)
  · split
    · exact kept_portPerform _ _ h
    · exact h

theorem kept_portTry {s : State} (r : Fin 288) (a : Access) (h : s.Kept) : (s.portTry r a).Kept := by
  unfold State.portTry
  split
  · rename_i ht
    exact kept_portWait _ _ _ (kept_bankTurn ht h)
  · exact kept_ite (kept_portWait _ _ _ h) (kept_portAct _ _ _ h)

theorem kept_capEnd {s : State} (r : Fin 288) (k : Capture) (v : LandValue) (h : s.Kept) :
    (State.capEnd s r k v).Kept := by
  unfold State.capEnd
  repeat' (first | with_reducible assumption | with_reducible refine kept_foldl (fun _ _ _ => ?_) _ ?_ | with_reducible apply kept_modCore | with_reducible apply kept_deliver)

theorem kept_capAbsent {s : State} (r : Fin 288) (k : Capture) (slot : Nat) (h : s.Kept) :
    (State.capAbsent s r k slot).Kept := by
  unfold State.capAbsent
  repeat' (first | with_reducible assumption | with_reducible refine kept_foldl (fun _ _ _ => ?_) _ ?_ | with_reducible apply kept_capEnd | with_reducible apply kept_portDone | split)

theorem kept_take {s : State} (r : Fin 288) (k : Capture) (h : s.Kept) :
    (State.take s r k).Kept := h

theorem kept_capPerform {s : State} (r : Fin 288) (k : Capture) (h : s.Kept) :
    (State.capPerform s r k).Kept := by
  unfold State.capPerform
  repeat' (first | with_reducible assumption | with_reducible refine kept_foldl (fun _ _ _ => ?_) _ ?_ | with_reducible apply kept_take | with_reducible apply kept_capEnd | with_reducible apply kept_portDone | with_reducible apply kept_capAbsent | with_reducible apply kept_modCore | split | dsimp only [State.Kept])

theorem kept_latchStore {s : State} (r : Fin 288) (l : Latch) (off : Nat) (bs : List (Byte × Bool)) (h : s.Kept) :
    (State.latchStore s r l off bs).Kept := by
  unfold State.latchStore
  repeat' (first | with_reducible assumption | with_reducible refine kept_foldl (fun _ _ _ => ?_) _ ?_ | with_reducible apply kept_storeBy | with_reducible apply kept_modCore)

theorem kept_storeWrites {s : State} (r : Fin 288) (c : Nat) (h : s.Kept) :
    (State.storeWrites s r c).Kept := by
  unfold State.storeWrites
  repeat' (first | with_reducible assumption | with_reducible refine kept_foldl (fun _ _ _ => ?_) _ ?_ | with_reducible apply kept_wordTouch | with_reducible apply kept_latchStore | split)

theorem kept_lateReads {s : State} (r : Fin 288) (c : Nat) (h : s.Kept) :
    (State.lateReads s r c).Kept := by
  unfold State.lateReads
  repeat' (first | with_reducible assumption | with_reducible refine kept_foldl (fun _ _ _ => ?_) _ ?_ | with_reducible apply kept_wordTouch | with_reducible apply kept_modCore | split)

theorem kept_countMiss {s : State} (r : Fin 288) (matrix : Bool) (h : s.Kept) :
    (State.countMiss s r matrix).Kept := h

theorem kept_compares {s : State} (r : Fin 288) (c : Nat) (h : s.Kept) : (s.compares r c).1.Kept := by
  unfold State.compares
  generalize byIssue (s.core r).pipe.latches = l
  suffices H : ∀ (l : List Latch) (a : State × Option (W64 × W64)), a.1.Kept → (l.foldl (fun acc l => match State.mismatch l c with
      | none => acc
      | some i =>
        let m : Bool := match l.kind with | .compare b .. => b | _ => false
        let faux := w64 (c % 2 ^ 32 * 2 ^ 32 + (if m then 2 ^ 16 + i / 5 else i))
        (acc.1.countMiss r m,
         if (s.core r).attr.kat && acc.2.isNone then some (t0Ptr r l.pc, faux) else acc.2)) a).1.Kept from H l (s, none) h
  intro l
  induction l with
  | nil => exact fun a ha => ha
  | cons x l ih =>
    intro a ha
    refine ih _ ?_
    dsimp only
    split
    · exact ha
    · exact kept_countMiss _ _ ha

theorem kept_dropTests {s : State} (r : Fin 288) (c : Nat) (h : s.Kept) :
    (State.dropTests s r c).Kept := by
  unfold State.dropTests
  repeat' (first | with_reducible assumption | with_reducible refine kept_foldl (fun _ _ _ => ?_) _ ?_ | with_reducible apply kept_modCore)

theorem kept_unstore {s : State} (r : Fin 288) (p : StoreUndo → Bool) (h : s.Kept) : (s.unstore r p).Kept := by
  unfold State.unstore
  exact kept_modCore _ _ (wf_copies (fun _ _ hm => wf_copies (fun _ _ hn => wf_memWrite _ _ hn) _ hm) _ h)

theorem kept_storeGone {s : State} (r : Fin 288) (issue : Nat) (h : s.Kept) :
    (State.storeGone s r issue).Kept := by
  unfold State.storeGone
  repeat' (first | with_reducible assumption | with_reducible refine kept_foldl (fun _ _ _ => ?_) _ ?_ | with_reducible apply kept_portDone | split)

theorem kept_storeDone {s : State} (r : Fin 288) (u : StoreUndo) (h : s.Kept) :
    (State.storeDone s r u).Kept := by
  unfold State.storeDone
  repeat' (first | with_reducible assumption | with_reducible refine kept_foldl (fun _ _ _ => ?_) _ ?_ | with_reducible apply kept_modCore | with_reducible apply kept_portDone | split)

theorem kept_loseAll {s : State} (r : Fin 288) (c : Nat) (lost : List (Stream × Nat)) (h : s.Kept) :
    (State.loseAll s r c lost).Kept := by
  unfold State.loseAll
  repeat' (first | with_reducible assumption | with_reducible refine kept_foldl (fun _ _ _ => ?_) _ ?_ | with_reducible apply kept_unstore | with_reducible apply kept_modCore | with_reducible apply kept_storeGone | split)

theorem kept_backTo {s : State} (r : Fin 288) (strip : Bool) (h : s.Kept) :
    (State.backTo s r strip).Kept := by
  unfold State.backTo
  repeat' (first | with_reducible assumption | with_reducible refine kept_foldl (fun _ _ _ => ?_) _ ?_ | with_reducible apply kept_modCore | with_reducible apply kept_unstore | split)

theorem kept_closeCycle {s : State} (r : Fin 288) (h : s.Kept) :
    (State.closeCycle s r).Kept := by
  unfold State.closeCycle
  repeat' (first | with_reducible assumption | with_reducible refine kept_foldl (fun _ _ _ => ?_) _ ?_ | with_reducible apply kept_modCore | with_reducible apply kept_storeDone)

theorem kept_countFreeze {s : State} (i : Nat) (h : s.Kept) :
    (State.countFreeze s i).Kept := h

theorem kept_freezeCore {s : State} (r : Fin 288) (h : s.Kept) :
    (State.freezeCore s r).Kept := by
  unfold State.freezeCore
  repeat' (first | with_reducible assumption | with_reducible refine kept_foldl (fun _ _ _ => ?_) _ ?_ | with_reducible apply kept_countFreeze | with_reducible apply kept_modCore | with_reducible apply kept_bump | split | dsimp only [State.Kept])

theorem kept_dropHeld {s : State} (r : Fin 288) (h : s.Kept) :
    (State.dropHeld s r).Kept := by
  unfold State.dropHeld
  repeat' (first | with_reducible assumption | with_reducible refine kept_foldl (fun _ _ _ => ?_) _ ?_ | with_reducible apply kept_modCore)

theorem kept_countLate {s : State} (since : Nat) (ls : List Landing) (h : s.Kept) : (State.countLate s since ls).Kept := by
  unfold State.countLate
  refine kept_foldl (fun t l ht => ?_) _ h
  dsimp only
  split <;> exact ht

theorem kept_lateStop {s : State} (r : Fin 288) (since : Nat) (h : s.Kept) :
    (State.lateStop s r since).Kept := by
  unfold State.lateStop
  repeat' (first | with_reducible assumption | with_reducible refine kept_foldl (fun _ _ _ => ?_) _ ?_ | with_reducible apply kept_modCore | with_reducible apply kept_countLate)

theorem kept_haltCore {s : State} (r : Fin 288) (cause : Cause) (kind : FrameKind) (boundary : Nat) (faddr faux : W64) (resumable : Bool) (h : s.Kept) :
    (State.haltCore s r cause kind boundary faddr faux resumable).Kept := by
  unfold State.haltCore
  repeat' (first | with_reducible assumption | with_reducible refine kept_foldl (fun _ _ _ => ?_) _ ?_ | with_reducible apply kept_lateStop | with_reducible apply kept_modCore | with_reducible apply kept_dropHeld | with_reducible apply kept_backTo | split)

theorem kept_stopCore {s : State} (r : Fin 288) (cause : Cause) (kind : FrameKind) (boundary : Nat) (faddr faux : W64) (resumable : Bool) (h : s.Kept) :
    (State.stopCore s r cause kind boundary faddr faux resumable).Kept := by
  unfold State.stopCore
  repeat' (first | with_reducible assumption | with_reducible refine kept_foldl (fun _ _ _ => ?_) _ ?_ | with_reducible apply kept_haltCore | with_reducible apply kept_bump | split | dsimp only [State.Kept])

theorem kept_setSpan {s : State} (id d : Nat) (h : s.Kept) :
    (State.setSpan s id d).Kept := h

theorem kept_releaseHeld {s : State} (r : Fin 288) (h : s.Kept) :
    (State.releaseHeld s r).Kept := by
  unfold State.releaseHeld
  repeat' (first | with_reducible assumption | with_reducible refine kept_foldl (fun _ _ _ => ?_) _ ?_ | with_reducible apply kept_modCore)

theorem kept_land {s : State} (r : Fin 288) (l : Landing) (ks : List LatchKind) (h : s.Kept) :
    (State.land s r l ks).Kept := by
  unfold State.land
  repeat' (first | with_reducible assumption | with_reducible refine kept_foldl (fun _ _ _ => ?_) _ ?_ | with_reducible apply kept_modCore)

theorem kept_takeLanding {s : State} (r : Fin 288) (l : Landing) (h : s.Kept) :
    (State.takeLanding s r l).Kept := by
  unfold State.takeLanding
  repeat' (first | with_reducible assumption | with_reducible refine kept_foldl (fun _ _ _ => ?_) _ ?_ | with_reducible apply kept_modCore | with_reducible apply kept_land | split)

theorem kept_faultArrives {s : State} (r : Fin 288) (l : Landing) (h : s.Kept) :
    (State.faultArrives s r l).Kept := by
  unfold State.faultArrives
  repeat' (first | with_reducible assumption | with_reducible refine kept_foldl (fun _ _ _ => ?_) _ ?_ | with_reducible apply kept_stopCore | with_reducible apply kept_modCore)

theorem kept_clearPend {s : State} (id : BitVec 16) (r : Nat) (h : s.Kept) :
    (State.clearPend s id r).Kept := by
  unfold State.clearPend
  repeat' (first | with_reducible assumption | with_reducible refine kept_foldl (fun _ _ _ => ?_) _ ?_ | with_reducible apply kept_putWord | split | dsimp only [State.Kept])

theorem kept_takeOwed {s : State} (r : Fin 288) (h : s.Kept) :
    (State.takeOwed s r).Kept := by
  unfold State.takeOwed
  repeat' (first | with_reducible assumption | with_reducible refine kept_foldl (fun _ _ _ => ?_) _ ?_ | with_reducible apply kept_stopCore | with_reducible apply kept_clearPend | with_reducible apply kept_modCore | split)

theorem kept_writeFrame {s : State} (r : Fin 288) (st : StopRec) (gen : BitVec 32) (reruns at_ : Nat) (h : s.Kept) :
    (State.writeFrame s r st gen reruns at_).Kept := by
  unfold State.writeFrame
  repeat' (first | with_reducible assumption | with_reducible refine kept_foldl (fun _ _ _ => ?_) _ ?_ | with_reducible apply kept_putBytes | with_reducible apply kept_bump | with_reducible apply wf_memClear)

theorem kept_leaveResumes {s : State} (id : BitVec 16) (r : Nat) (gangs : List (BitVec 16)) (h : s.Kept) :
    (State.leaveResumes s id r gangs).Kept := by
  unfold State.leaveResumes
  repeat' (first | with_reducible assumption | with_reducible refine kept_foldl (fun _ _ _ => ?_) _ ?_ | with_reducible apply kept_modCore? | split | dsimp only [State.Kept])

theorem kept_recover {s : State} (r : Fin 288) (h : s.Kept) :
    (State.recover s r).Kept := by
  unfold State.recover
  repeat' (first | with_reducible assumption | with_reducible refine kept_foldl (fun _ _ _ => ?_) _ ?_ | with_reducible apply kept_putFence | with_reducible apply kept_modCore | with_reducible apply kept_leaveResumes | split)

theorem kept_finishStop {s : State} (r : Fin 288) (h : s.Kept) :
    (State.finishStop s r).Kept := by
  unfold State.finishStop
  repeat' (first | with_reducible assumption | with_reducible refine kept_foldl (fun _ _ _ => ?_) _ ?_ | with_reducible apply kept_writeFrame | with_reducible apply kept_record | with_reducible apply kept_modCore | with_reducible apply kept_recover | with_reducible apply kept_countLate | split | dsimp only [State.Kept])

theorem kept_loadFrame {s : State} (r : Fin 288) (slot : Fin 32) (at_ : Nat) (h : s.Kept) :
    (State.loadFrame s r slot at_).Kept := by
  unfold State.loadFrame
  repeat' (first | with_reducible assumption | with_reducible refine kept_foldl (fun _ _ _ => ?_) _ ?_ | with_reducible apply kept_modCore)

theorem kept_modSlot {s : State} (r : Fin 288) (n : Nat) (f : TaskSlot → TaskSlot) (h : s.Kept) :
    (State.modSlot s r n f).Kept := by
  unfold State.modSlot
  repeat' (first | with_reducible assumption | with_reducible refine kept_foldl (fun _ _ _ => ?_) _ ?_ | with_reducible apply kept_modCore)

theorem kept_emptySlot {s : State} (r : Fin 288) (n : Nat) (h : s.Kept) :
    (State.emptySlot s r n).Kept := by
  unfold State.emptySlot
  repeat' (first | with_reducible assumption | with_reducible refine kept_foldl (fun _ _ _ => ?_) _ ?_ | with_reducible apply kept_modSlot)

theorem kept_taskqTest {s : State} (own : Fin 288) (issue : Nat) (target : W64) (desc : List W64) (preempted : Bool) (h : s.Kept) :
    (State.taskqTest s own issue target desc preempted).1.Kept := by
  unfold State.taskqTest
  repeat' (first | with_reducible assumption | with_reducible refine kept_foldl (fun _ _ _ => ?_) _ ?_ | with_reducible apply kept_modCore | with_reducible apply kept_modSlot | with_reducible apply kept_bump | split | dsimp only [State.Kept])

theorem kept_enterWaiting {s : State} (r : Fin 288) (n : Fin 32) (desc : List W64) (chunk : Option ChunkRef) (h : s.Kept) :
    (State.enterWaiting s r n desc chunk).Kept := by
  unfold State.enterWaiting
  repeat' (first | with_reducible assumption | with_reducible refine kept_foldl (fun _ _ _ => ?_) _ ?_ | with_reducible apply kept_putBytes | with_reducible apply kept_modSlot)

theorem kept_reportMiss {s1 : State} (r : Fin 288) (n : Fin 32) (chunk : Option ChunkRef) (hs1 : s1.Kept) :
    (State.reportMiss s1 r n chunk).Kept := by
  unfold State.reportMiss
  repeat' (first | with_reducible assumption | with_reducible refine kept_foldl (fun _ _ _ => ?_) _ ?_ | with_reducible apply kept_modJob | with_reducible apply kept_record | split)

theorem kept_missStart {s : State} (r : Fin 288) (n : Fin 32) (h : s.Kept) :
    (State.missStart s r n).Kept := by
  unfold State.missStart
  repeat' (first | with_reducible assumption | with_reducible refine kept_foldl (fun _ _ _ => ?_) _ ?_ | with_reducible apply kept_reportMiss | with_reducible apply kept_modSlot)

theorem kept_lateMember {s : State} (r : Fin 288) (n : Fin 32) (h : s.Kept) :
    (State.lateMember s r n).Kept := by
  unfold State.lateMember
  repeat' (first | with_reducible assumption | with_reducible refine kept_foldl (fun _ _ _ => ?_) _ ?_ | with_reducible apply kept_reportMiss | with_reducible apply kept_emptySlot)

theorem kept_withdrawGang {s : State} (job : Nat) (h : s.Kept) :
    (State.withdrawGang s job).Kept := by
  unfold State.withdrawGang
  repeat' (first | with_reducible assumption | with_reducible refine kept_foldl (fun _ _ _ => ?_) _ ?_ | with_reducible apply kept_modJob)

theorem kept_writeWait {s : State} (r : Fin 288) (n : Fin 32) (ask : Nat) (h : s.Kept) :
    (State.writeWait s r n ask).Kept := by
  unfold State.writeWait
  repeat' (first | with_reducible assumption | with_reducible refine kept_foldl (fun _ _ _ => ?_) _ ?_ | with_reducible apply kept_modCore)

theorem kept_tickSlots {s : State} (r : Fin 288) (h : s.Kept) :
    (State.tickSlots s r).Kept := by
  unfold State.tickSlots
  repeat' (first | with_reducible assumption | with_reducible refine kept_foldl (fun _ _ _ => ?_) _ ?_ | with_reducible apply kept_modSlot | split | dsimp only [State.Kept])

theorem kept_fetchFirst {s : State} (r : Fin 288) (h : s.Kept) :
    (State.fetchFirst s r).Kept := by
  unfold State.fetchFirst
  repeat' (first | with_reducible assumption | with_reducible refine kept_foldl (fun _ _ _ => ?_) _ ?_ | with_reducible apply kept_modCore)

theorem kept_subtract {s : State} (r : Fin 288) (d : Nat → W64) (h : s.Kept) :
    (State.subtract s r d).Kept := by
  unfold State.subtract
  repeat' (first | with_reducible assumption | with_reducible refine kept_foldl (fun _ _ _ => ?_) _ ?_ | with_reducible apply kept_modCore | split | dsimp only [State.Kept])

theorem kept_startTask {s : State} (r : Fin 288) (n : Fin 32) (h : s.Kept) :
    (State.startTask s r n).Kept := by
  unfold State.startTask
  repeat' (first | with_reducible assumption | with_reducible refine kept_foldl (fun _ _ _ => ?_) _ ?_ | with_reducible apply kept_modCore | with_reducible apply kept_subtract | with_reducible apply kept_loadFrame | with_reducible apply kept_fetchFirst | with_reducible apply kept_bump | with_reducible apply kept_modSlot | with_reducible apply kept_modJob | split | dsimp only [State.Kept])

theorem kept_uncommit {s : State} (r : Fin 288) (h : s.Kept) :
    (State.uncommit s r).Kept := by
  unfold State.uncommit
  repeat' (first | with_reducible assumption | with_reducible refine kept_foldl (fun _ _ _ => ?_) _ ?_ | with_reducible apply kept_modSlot | with_reducible apply kept_modCore | with_reducible apply kept_modJob | with_reducible apply kept_missStart | split | dsimp only [State.Kept])

theorem kept_chunkEnded {s : State} (r : Fin 288) (ch : Option ChunkRef) (failed : Option Byte) (h : s.Kept) :
    (State.chunkEnded s r ch failed).Kept := by
  unfold State.chunkEnded
  repeat' (first | with_reducible assumption | with_reducible refine kept_foldl (fun _ _ _ => ?_) _ ?_ | with_reducible apply kept_modJob | split)

theorem kept_endTask {s : State} (r : Fin 288) (run : Running) (h : s.Kept) :
    (State.endTask s r run).Kept := by
  unfold State.endTask
  repeat' (first | with_reducible assumption | with_reducible refine kept_foldl (fun _ _ _ => ?_) _ ?_ | with_reducible apply kept_chunkEnded | with_reducible apply kept_emptySlot | with_reducible apply kept_modCore | with_reducible apply kept_recover | with_reducible apply kept_loadFrame | with_reducible apply kept_putBytes | with_reducible apply kept_modSlot | split | dsimp only [State.Kept])

theorem kept_modWalk {s : State} (e : Fin 96) (f : Walk → Walk) (h : s.Kept) :
    (State.modWalk s e f).Kept := by
  unfold State.modWalk
  repeat' (first | with_reducible assumption | with_reducible refine kept_foldl (fun _ _ _ => ?_) _ ?_ | with_reducible apply kept_modEngine)

theorem kept_chainRecord {s : State} (e : Fin 96) (ch : Chain) (w : Walk) (pc : Nat) (cause : Byte) (reason akind : Nat) (held lost : Bool) (addr : W64) (remain : Nat) (h : s.Kept) :
    (State.chainRecord s e ch w pc cause reason akind held lost addr remain).Kept := by
  unfold State.chainRecord
  repeat' (first | with_reducible assumption | with_reducible refine kept_foldl (fun _ _ _ => ?_) _ ?_ | with_reducible apply kept_record)

theorem kept_chainTouchBy {s : State} (gs : List (Nat × BitVec 256)) (e : Fin 96) (ch : Chain) (p : W64) (n : Nat) (write : Bool) (h : s.Kept) :
    (State.chainTouchBy s gs e ch p n write).Kept := by
  unfold State.chainTouchBy
  repeat' (first | with_reducible assumption | with_reducible refine kept_foldl (fun _ _ _ => ?_) _ ?_ | with_reducible apply kept_modCore | with_reducible apply kept_modWalk | split)

theorem kept_chainTouch {s : State} (e : Fin 96) (ch : Chain) (p : W64) (n : Nat) (write : Bool) (h : s.Kept) :
    (State.chainTouch s e ch p n write).Kept := by
  unfold State.chainTouch
  repeat' (first | with_reducible assumption | with_reducible refine kept_foldl (fun _ _ _ => ?_) _ ?_ | with_reducible apply kept_chainTouchBy)

theorem kept_engineWait {s : State} (e : Fin 96) (t : Nat) (h : s.Kept) :
    (State.engineWait s e t).Kept := by
  unfold State.engineWait
  repeat' (first | with_reducible assumption | with_reducible refine kept_foldl (fun _ _ _ => ?_) _ ?_ | with_reducible apply kept_modWalk)

theorem kept_withBanks {s : State} (e : Fin 96) (w : Walk) (need : List (Nat × Nat)) (f : State → State)
    (hf : ∀ t : State, t.Kept → (f t).Kept) (h : s.Kept) : (s.withBanks e w need f).Kept := by
  unfold State.withBanks
  split
  · rename_i ht
    exact kept_engineWait _ _ (kept_bankTurn ht h)
  · exact hf s h

theorem kept_readBanks {s : State} (e : Fin 96) (w : Walk) (need : List (Nat × Nat)) (f : State → State) (h : s.Kept) :
    (s.readBanks e w need f).Kept := by
  unfold State.readBanks
  split
  · rename_i ht
    exact kept_engineWait _ _ (kept_bankTurn ht h)
  · exact h

theorem kept_goOn {s : State} (e : Fin 96) (nxt : Nat) (run : Run) (h : s.Kept) :
    (State.goOn s e nxt run).Kept := by
  unfold State.goOn
  repeat' (first | with_reducible assumption | with_reducible refine kept_foldl (fun _ _ _ => ?_) _ ?_ | with_reducible apply kept_bump | with_reducible apply kept_modWalk)

theorem kept_faultyEntry {s : State} (e : Fin 96) (ch : Chain) (w : Walk) (f : EntryFault) (count nxt : Nat) (run : Run) (h : s.Kept) :
    (State.faultyEntry s e ch w f count nxt run).Kept := by
  unfold State.faultyEntry
  repeat' (first | with_reducible assumption | with_reducible refine kept_foldl (fun _ _ _ => ?_) _ ?_ | with_reducible apply kept_goOn | with_reducible apply kept_modWalk | with_reducible apply kept_chainRecord)

theorem kept_holdEntry {s : State} (e : Fin 96) (ch : Chain) (w : Walk) (p : W64) (reason akind : Nat) (table write : Bool) (remain : Nat) (h : s.Kept) :
    (State.holdEntry s e ch w p reason akind table write remain).Kept := by
  unfold State.holdEntry
  repeat' (first | with_reducible assumption | with_reducible refine kept_foldl (fun _ _ _ => ?_) _ ?_ | with_reducible apply kept_chainRecord | with_reducible apply kept_bump | with_reducible apply kept_modWalk)

theorem kept_pieceRead {s : State} (e : Fin 96) (ch : Chain) (p : Piece) (h : s.Kept) :
    (State.pieceRead s e ch p).1.Kept := by
  unfold State.pieceRead
  repeat' (first | with_reducible assumption | with_reducible refine kept_foldl (fun _ _ _ => ?_) _ ?_ | with_reducible apply kept_readAt | with_reducible apply kept_chainTouch | with_reducible refine kept_fst (by assumption) ?_ | split)

theorem kept_partWrite {s : State} (e : Fin 96) (ch : Chain) (gs : List (Nat × BitVec 256)) (d : CopyPart) (h : s.Kept) :
    (State.partWrite s e ch gs d).Kept := by
  unfold State.partWrite
  repeat' (first | with_reducible assumption | with_reducible refine kept_foldl (fun _ _ _ => ?_) _ ?_ | with_reducible apply kept_writeAt | with_reducible apply kept_heal | with_reducible apply kept_storeOver | with_reducible apply kept_chainTouchBy | with_reducible refine kept_fst (by assumption) ?_ | split)

theorem kept_copyDone {s : State} (e : Fin 96) (left : Nat) (h : s.Kept) :
    (State.copyDone s e left).Kept := by
  unfold State.copyDone
  repeat' (first | with_reducible assumption | with_reducible refine kept_foldl (fun _ _ _ => ?_) _ ?_ | with_reducible apply kept_goOn | with_reducible apply kept_modWalk)

theorem kept_copyLoss {s : State} (e : Fin 96) (ch : Chain) (w : Walk) (p : W64) (akind remain : Nat) (h : s.Kept) :
    (State.copyLoss s e ch w p akind remain).Kept := by
  unfold State.copyLoss
  repeat' (first | with_reducible assumption | with_reducible refine kept_foldl (fun _ _ _ => ?_) _ ?_ | with_reducible apply kept_modWalk | with_reducible apply kept_chainRecord)

theorem kept_copyBegin {s : State} (e : Fin 96) (ch : Chain) (w : Walk) (todo : List CopyPart) (count : Nat) (lost : Option W64) (h : s.Kept) :
    (State.copyBegin s e ch w todo count lost).Kept := by
  unfold State.copyBegin
  repeat' (first | with_reducible assumption | with_reducible refine kept_foldl (fun _ _ _ => ?_) _ ?_ | with_reducible apply kept_copyLoss | with_reducible apply kept_copyDone | with_reducible apply kept_bump | with_reducible apply kept_modWalk | split)

theorem kept_copyLoses {s : State} (e : Fin 96) (h : s.Kept) :
    (State.copyLoses s e).Kept := by
  unfold State.copyLoses
  repeat' (first | with_reducible assumption | with_reducible refine kept_foldl (fun _ _ _ => ?_) _ ?_ | with_reducible apply kept_copyLoss | with_reducible apply kept_modWalk | split | dsimp only [State.Kept])

theorem kept_touchRecord {s : State} (e : Fin 96) (ch : Chain) (q : State.RecordAt) (h : s.Kept) :
    (State.touchRecord s e ch q).Kept := by
  unfold State.touchRecord
  repeat' (first | with_reducible assumption | with_reducible refine kept_foldl (fun _ _ _ => ?_) _ ?_ | with_reducible apply kept_chainTouch)

theorem kept_readSources {s : State} (e : Fin 96) (ch : Chain) (ps : List Piece) (h : s.Kept) :
    (s.readSources e ch ps).1.Kept := by
  have hr : ∀ (l : List Piece) (a : State × List (List Byte)), a.1.Kept →
      (l.foldl (fun a p => ((a.1.pieceRead e ch p).1, (a.1.pieceRead e ch p).2 :: a.2)) a).1.Kept := by
    intro l
    induction l with
    | nil => exact fun a ha => ha
    | cons p l ih => exact fun a ha => ih _ (kept_pieceRead e ch p ha)
  exact hr ps (s, []) h

theorem kept_copyEntry {s : State} (e : Fin 96) (ch : Chain) (w : Walk) (q : State.RecordAt) (ps : List Piece) (count : Nat)
    (h : s.Kept) : (s.copyEntry e ch w q ps count).Kept := by
  unfold State.copyEntry
  split
  · exact kept_faultyEntry _ _ _ _ _ _ _ (kept_touchRecord _ _ _ h)
  · split
    · exact kept_holdEntry _ _ _ _ _ _ _ _ _ (kept_touchRecord _ _ _ h)
    · exact kept_readBanks _ _ _ _ h

theorem kept_copyStep {s : State} (e : Fin 96) (ch : Chain) (w : Walk) (m : CopyRun) (h : s.Kept) :
    (s.copyStep e ch w m).Kept := by
  unfold State.copyStep
  split
  · exact kept_copyDone _ _ h
  · dsimp only
    split
    · exact kept_faultyEntry _ _ _ _ _ _ _ (kept_modWalk _ _ h)
    · split
      · exact kept_holdEntry _ _ _ _ _ _ _ _ _ h
      · refine kept_withBanks _ _ _ _ (fun t ht => ?_) h
        have h1 : ∀ l : List CopyPart, ∀ u : State, u.Kept → (l.foldl (fun s x => s.partWrite e ch m.guards x) u).Kept :=
          fun l u hu => kept_foldl (fun _ _ hv => kept_partWrite _ _ _ _ hv) l hu
        split
        · exact kept_copyDone _ _ (h1 _ _ (by split; exacts [kept_copyLoss _ _ _ _ _ _ ht, kept_modWalk e id ht]))
        · exact kept_modWalk e id (h1 _ _ (by split; exacts [kept_copyLoss _ _ _ _ _ _ ht, kept_modWalk e id ht]))

theorem kept_retry {s : State} (e : Fin 96) (h : s.Kept) :
    (State.retry s e).Kept := by
  unfold State.retry
  repeat' (first | with_reducible assumption | with_reducible refine kept_foldl (fun _ _ _ => ?_) _ ?_ | with_reducible apply kept_modWalk)

theorem kept_chainTry {s : State} (e : Fin 96) (ch : Chain) {t : State} (h : s.Kept) (ht : t.Kept) :
    (State.chainTry s e ch t).Kept := by
  unfold State.chainTry
  repeat' (first | with_reducible assumption | with_reducible refine kept_foldl (fun _ _ _ => ?_) _ ?_ | with_reducible apply kept_retry | split)

theorem kept_readEntry {s : State} (e : Fin 96) (h : s.Kept) : (s.readEntry e).Kept := by
  unfold State.readEntry
  split
  · exact h
  · split
    · exact h
    · split
      · rename_i ht
        exact kept_modWalk _ _ (kept_bankTurn ht h)
      · exact kept_modWalk _ _ (kept_chainTouch _ _ _ _ _ h)

theorem kept_payRecord {s : State} (e : Fin 96) (ch : Chain) (w : Walk) (m : CopyRun) (p : W64) (h : s.Kept) :
    (State.payRecord s e ch w m p).Kept := by
  unfold State.payRecord
  repeat' (first | with_reducible assumption | with_reducible refine kept_foldl (fun _ _ _ => ?_) _ ?_ | with_reducible apply kept_modWalk | with_reducible apply kept_copyLoss)

theorem kept_finishChain {s : State} (e : Fin 96) (h : s.Kept) :
    (State.finishChain s e).Kept := by
  unfold State.finishChain
  repeat' (first | with_reducible assumption | with_reducible refine kept_foldl (fun _ _ _ => ?_) _ ?_ | with_reducible apply kept_modEngine)

theorem kept_condPass {s : State} (e : Fin 96) (ch : Chain) (w : Walk) (x : Nat → W64) (h : s.Kept) :
    (State.condPass s e ch w x).Kept := by
  unfold State.condPass
  repeat' (first | with_reducible assumption | with_reducible refine kept_foldl (fun _ _ _ => ?_) _ ?_ | with_reducible apply kept_subBarrier | with_reducible apply kept_goOn | split)

theorem kept_condRead {s : State} (e : Fin 96) (w : Walk) (x : Nat → W64) (f : State → State)
    (hf : ∀ t : State, t.Kept → (f t).Kept) (h : s.Kept) : (s.condRead e w x f).Kept :=
  kept_ite (hf s h) (kept_readBanks _ _ _ _ h)

theorem kept_dropRemote {s : State} (e : Fin 96) (x : RemoteStamp) (h : s.Kept) :
    (State.dropRemote s e x).Kept := by
  unfold State.dropRemote
  repeat' (first | with_reducible assumption | with_reducible refine kept_foldl (fun _ _ _ => ?_) _ ?_ | with_reducible apply kept_modEngine)

theorem kept_remoteDone {s : State} (x : RemoteStamp) (h : s.Kept) :
    (State.remoteDone s x).Kept := by
  unfold State.remoteDone
  repeat' (first | with_reducible assumption | with_reducible refine kept_foldl (fun _ _ _ => ?_) _ ?_ | with_reducible apply kept_portDone | split)

theorem kept_remoteWrite {s : State} (e : Fin 96) (x : RemoteStamp) (h : s.Kept) :
    (State.remoteWrite s e x).1.Kept := by
  unfold State.remoteWrite
  split
  · exact h
  · exact kept_writeAt _ _ _ _ h

theorem kept_writeRemote {s : State} (e : Fin 96) (x : RemoteStamp) (h : s.Kept) :
    (State.writeRemote s e x).Kept := by
  unfold State.writeRemote
  repeat' (first | with_reducible assumption | with_reducible refine kept_foldl (fun _ _ _ => ?_) _ ?_ | with_reducible apply kept_dropRemote | with_reducible apply kept_record | with_reducible apply kept_modEngine | with_reducible apply kept_remoteDone | with_reducible apply kept_remoteWrite | with_reducible apply kept_bump | with_reducible apply kept_holdAccess | with_reducible refine kept_fst (by assumption) ?_ | split)

theorem kept_remoteTry {s : State} (e : Fin 96) (x : RemoteStamp) (h : s.Kept) :
    (State.remoteTry s e x).Kept := by
  unfold State.remoteTry
  repeat' (first | with_reducible assumption | with_reducible refine kept_foldl (fun _ _ _ => ?_) _ ?_ | with_reducible apply kept_writeRemote | with_reducible apply kept_modEngine | split | dsimp only [State.Kept])

theorem kept_copyTest {s : State} (r : Fin 288) (issue : Nat) (eng : W64) (off : Nat) (h : s.Kept) :
    (State.copyTest s r issue eng off).1.Kept := by
  unfold State.copyTest
  repeat' (first | with_reducible assumption | with_reducible refine kept_foldl (fun _ _ _ => ?_) _ ?_ | with_reducible apply kept_bump | with_reducible apply kept_modEngine | split | dsimp only [State.Kept])

theorem kept_openChains {s : State} (e : Fin 96) (p : Chain → Bool) (h : s.Kept) :
    (State.openChains s e p).Kept := by
  unfold State.openChains
  repeat' (first | with_reducible assumption | with_reducible refine kept_foldl (fun _ _ _ => ?_) _ ?_ | with_reducible apply kept_modEngine)

theorem kept_openAll {s : State} (r : Fin 288) (h : s.Kept) :
    (State.openAll s r).Kept := by
  unfold State.openAll
  repeat' (first | with_reducible assumption | with_reducible refine kept_foldl (fun _ _ _ => ?_) _ ?_ | with_reducible apply kept_openChains)

theorem kept_putRingImage {s : State} (v : Saved) (h : s.Kept) :
    (State.putRingImage s v).Kept := by
  unfold State.putRingImage
  repeat' (first | with_reducible assumption | with_reducible refine kept_foldl (fun _ _ _ => ?_) _ ?_ | with_reducible apply wf_memPut | split)

theorem kept_putEngineImage {s : State} (v : Saved) (h : s.Kept) :
    (State.putEngineImage s v).Kept := by
  unfold State.putEngineImage
  repeat' (first | with_reducible assumption | with_reducible refine kept_foldl (fun _ _ _ => ?_) _ ?_ | with_reducible apply wf_memPut | split)

theorem kept_modSavedRing {s : State} (f : Saved → Saved) (h : s.Kept) :
    (State.modSavedRing s f).Kept := by
  unfold State.modSavedRing
  repeat' (first | with_reducible assumption | with_reducible refine kept_foldl (fun _ _ _ => ?_) _ ?_ | with_reducible apply kept_putRingImage | split)

theorem kept_modSavedEngines {s : State} (f : Saved → Saved) (h : s.Kept) :
    (State.modSavedEngines s f).Kept := by
  unfold State.modSavedEngines
  repeat' (first | with_reducible assumption | with_reducible refine kept_foldl (fun _ _ _ => ?_) _ ?_ | with_reducible apply kept_putEngineImage | split)

theorem kept_bell {s : State} (v : W64) (h : s.Kept) :
    (State.bell s v).Kept := by
  unfold State.bell
  repeat' (first | with_reducible assumption | with_reducible refine kept_foldl (fun _ _ _ => ?_) _ ?_ | with_reducible apply kept_raise | split | dsimp only [State.Kept])

theorem kept_badBell {s : State} (bit off : Nat) (h : s.Kept) :
    (State.badBell s bit off).Kept := by
  unfold State.badBell
  repeat' (first | with_reducible assumption | with_reducible refine kept_foldl (fun _ _ _ => ?_) _ ?_ | with_reducible apply kept_raise | split | dsimp only [State.Kept])

theorem kept_result {s : State} (r : Nat) (h : s.Kept) :
    (State.result s r).Kept := h

theorem kept_eachRing {s : State} (f : Ring → Ring) (h : s.Kept) :
    (State.eachRing s f).Kept := by
  unfold State.eachRing
  repeat' (first | with_reducible assumption | with_reducible refine kept_foldl (fun _ _ _ => ?_) _ ?_ | with_reducible apply kept_modSavedRing)

theorem kept_worldApply {s : State} (e : WorldEntry) (h : s.Kept) : (State.worldApply s e).Kept := by
  unfold State.worldApply
  split <;> exact h

theorem kept_startEvict {s : State} (e : Eviction) (h : s.Kept) :
    (State.startEvict s e).Kept := h

theorem kept_showStores {s : State} (r : Nat) (h : s.Kept) :
    (State.showStores s r).Kept := by
  unfold State.showStores
  repeat' (first | with_reducible assumption | with_reducible refine kept_foldl (fun _ _ _ => ?_) _ ?_ | with_reducible apply kept_portDone | split)

theorem kept_saveCore {s : State} (x : Context) (r : Nat) (h : s.Kept) :
    (State.saveCore s x r).Kept := by
  unfold State.saveCore
  repeat' (first | with_reducible assumption | with_reducible refine kept_foldl (fun _ _ _ => ?_) _ ?_ | with_reducible apply kept_showStores | with_reducible apply kept_putBytes | with_reducible apply kept_modCore? | with_reducible apply wf_memCopy | split)

theorem kept_dropCaptures {s : State} (id : BitVec 16) (h : s.Kept) :
    (State.dropCaptures s id).Kept := by
  unfold State.dropCaptures
  repeat' (first | with_reducible assumption | with_reducible refine kept_foldl (fun _ _ _ => ?_) _ ?_ | with_reducible apply kept_portDone | with_reducible apply kept_modCore | split)

theorem kept_removeCtx {s : State} (id : BitVec 16) (h : s.Kept) :
    (State.removeCtx s id).Kept := by
  unfold State.removeCtx
  repeat' (first | with_reducible assumption | with_reducible refine kept_foldl (fun _ _ _ => ?_) _ ?_ | with_reducible apply kept_eachRing | with_reducible apply kept_dropCaptures)

theorem kept_finishEvict {s : State} (e : Eviction) (h : s.Kept) : (s.finishEvict e).Kept := by
  unfold State.finishEvict
  split
  · exact h
  · rename_i x _
    generalize idxWhere 288 (fun r => (s.core? r).any fun c => c.ctx == some e.ctxid) = mine
    have h1 : (mine.foldl (fun s r => s.saveCore x r) s).Kept := kept_foldl (fun _ _ ht => kept_saveCore _ _ ht) _ h
    dsimp only
    split
    · exact kept_removeCtx _ (kept_modCtx e.ctxid id h1)
    · exact kept_modCtx e.ctxid id h1

theorem kept_evictCommand {s : State} (destroy : Bool) (h : s.Kept) :
    (State.evictCommand s destroy).Kept := by
  unfold State.evictCommand
  repeat' (first | with_reducible assumption | with_reducible refine kept_foldl (fun _ _ _ => ?_) _ ?_ | with_reducible apply kept_result | with_reducible apply kept_finishEvict | with_reducible apply kept_bump | with_reducible apply kept_startEvict | with_reducible apply kept_removeCtx | split | dsimp only [State.Kept])

theorem kept_restoreCore {s : State} (x : Context) (slot : BitVec 6) (r : Nat) (h : s.Kept) :
    (State.restoreCore s x slot r).Kept := by
  unfold State.restoreCore
  repeat' (first | with_reducible assumption | with_reducible refine kept_foldl (fun _ _ _ => ?_) _ ?_ | with_reducible apply kept_modCore? | with_reducible apply wf_memCopy)

theorem kept_formResumes {s : State} (ranks : List Nat) (h : s.Kept) :
    (State.formResumes s ranks).Kept := by
  unfold State.formResumes
  repeat' (first | with_reducible assumption | with_reducible refine kept_foldl (fun _ _ _ => ?_) _ ?_ | with_reducible apply kept_modCore?)

theorem kept_saveTerraces {s : State} (h : s.Kept) : s.saveTerraces.Kept := by
  unfold State.saveTerraces
  split
  · exact h
  · rename_i a _
    have h1 := wf_copies (f := fun m e => memCopy m ((Place.layer e).key 0) (Place.lpddr.key (State.imageOf a e)) (wholeSize e))
      (fun _ _ hm => wf_memCopy _ _ _ hm) (List.range 16) h
    dsimp only
    split
    · exact h1
    · exact kept_putEngineImage _ (kept_putRingImage _ h1)

theorem kept_restoreTerraces {s : State} (v : Saved) (h : s.Kept) : (s.restoreTerraces v).Kept := by
  unfold State.restoreTerraces
  refine wf_copies (fun _ _ hm => ?_) _ h
  split
  · exact hm
  · exact wf_memCopy _ _ _ hm

theorem kept_restorePackage {s : State} (h : s.Kept) :
    (State.restorePackage s).Kept := by
  unfold State.restorePackage
  repeat' (first | with_reducible assumption | with_reducible refine kept_foldl (fun _ _ _ => ?_) _ ?_ | with_reducible apply kept_restoreTerraces | split)

theorem kept_modTask {s : State} (x : Context) (r n : Nat) (f : TaskSlot → TaskSlot) (h : s.Kept) :
    (State.modTask s x r n f).Kept := by
  unfold State.modTask
  repeat' (first | with_reducible assumption | with_reducible refine kept_foldl (fun _ _ _ => ?_) _ ?_ | with_reducible apply kept_modCore? | with_reducible apply kept_modCtx | split)

theorem kept_forgetFrame {s : State} (x : Context) (r n : Nat) (h : s.Kept) :
    (State.forgetFrame s x r n).Kept := by
  unfold State.forgetFrame
  repeat' (first | with_reducible assumption | with_reducible refine kept_foldl (fun _ _ _ => ?_) _ ?_ | with_reducible apply kept_modCore | with_reducible apply kept_portDone | split)

theorem kept_disposeOf {s : State} (x : Context) (f : Nat × Nat × Nat) (d : Disposal) (h : s.Kept) :
    (State.disposeOf s x f d).Kept := by
  unfold State.disposeOf
  repeat' (first | with_reducible assumption | with_reducible refine kept_foldl (fun _ _ _ => ?_) _ ?_ | with_reducible apply kept_modTask | with_reducible apply kept_forgetFrame | with_reducible apply kept_chunkEnded | split)

theorem kept_walkAgain {s : State} (id : BitVec 16) (h : s.Kept) :
    (State.walkAgain s id).Kept := by
  unfold State.walkAgain
  repeat' (first | with_reducible assumption | with_reducible refine kept_foldl (fun _ _ _ => ?_) _ ?_ | with_reducible apply kept_modCtx | with_reducible apply kept_modSavedEngines)

theorem kept_acknowledge {s : State} (id : BitVec 16) (v : BitVec 32) (h : s.Kept) :
    (State.acknowledge s id v).Kept := by
  unfold State.acknowledge
  repeat' (first | with_reducible assumption | with_reducible refine kept_foldl (fun _ _ _ => ?_) _ ?_ | with_reducible apply kept_modCtx)

theorem kept_preemptFreeze {s : State} (h : s.Kept) :
    (State.preemptFreeze s).Kept := by
  unfold State.preemptFreeze
  repeat' (first | with_reducible assumption | with_reducible refine kept_foldl (fun _ _ _ => ?_) _ ?_ | with_reducible apply kept_startEvict | split)

theorem kept_preemptStep {s : State} (done : State → State) (hd : ∀ t, t.Kept → (done t).Kept) (h : s.Kept) :
    (s.preemptStep done).Kept := by
  unfold State.preemptStep
  repeat' split
  · exact h
  · exact h
  · exact kept_preemptFreeze h
  · exact kept_finishEvict _ h
  · exact hd _ (kept_saveTerraces h)
  · exact h

theorem kept_cardRecord {s : State} (j : Job) (cause : Byte) (reason akind : Nat) (held : Bool) (addr : W64) (h : s.Kept) :
    (State.cardRecord s j cause reason akind held addr).Kept := by
  unfold State.cardRecord
  repeat' (first | with_reducible assumption | with_reducible refine kept_foldl (fun _ _ _ => ?_) _ ?_ | with_reducible apply kept_record)

theorem kept_readCard {s : State} (x : Context) (q : Fin 4) (h : s.Kept) : (s.readCard x q).Kept := by
  unfold State.readCard
  extract_lets
  split
  · exact kept_modCtx _ _ (kept_cardRecord _ _ _ _ _ _ h)
  · exact kept_bump (kept_modCtx _ _ h)

theorem kept_noteFree {s : State} (h : s.Kept) :
    (State.noteFree s).Kept := h

theorem kept_releaseQueue {s : State} (j : Job) (h : s.Kept) :
    (State.releaseQueue s j).Kept := by
  unfold State.releaseQueue
  repeat' (first | with_reducible assumption | with_reducible refine kept_foldl (fun _ _ _ => ?_) _ ?_ | with_reducible apply kept_modCtx)

theorem kept_complete {s : State} (j : Job) (h : s.Kept) : (s.complete j).Kept := by
  unfold State.complete
  dsimp only
  repeat' split
  all_goals first
    | exact h
    | exact kept_releaseQueue _ h
    | exact kept_cardRecord _ _ _ _ _ _ (kept_releaseQueue _ h)
    | exact kept_raise _ (kept_noteWrites _ (kept_writePieces _ _ (kept_writePieces _ _ (kept_releaseQueue _ h))))
    | exact kept_noteWrites _ (kept_writePieces _ _ (kept_writePieces _ _ (kept_releaseQueue _ h)))

theorem kept_keepHistory {s : State} (e : HistEntry) (h : s.Kept) :
    (State.keepHistory s e).Kept := h

theorem kept_publish {s : State} (cls res index reason : Nat) (change : Cairn → Cairn) (h : s.Kept) :
    (State.publish s cls res index reason change).Kept := by
  unfold State.publish
  repeat' (first | with_reducible assumption | with_reducible refine kept_foldl (fun _ _ _ => ?_) _ ?_ | with_reducible apply kept_keepHistory | with_reducible apply kept_raise | split)

theorem kept_owesCairn {s : State} (p : Nat → Core → Bool) (h : s.Kept) :
    (State.owesCairn s p).Kept := h

theorem kept_loseLandings {s : State} (e : Nat) (r : Fin 288) (h : s.Kept) :
    (State.loseLandings s e r).Kept := by
  unfold State.loseLandings
  repeat' (first | with_reducible assumption | with_reducible refine kept_foldl (fun _ _ _ => ?_) _ ?_ | with_reducible apply kept_bump | with_reducible apply kept_modCore | with_reducible apply kept_meetLost)

theorem kept_savedLoses {s : State} (h : s.Kept) :
    (State.savedLoses s).Kept := by
  unfold State.savedLoses
  repeat' (first | with_reducible assumption | with_reducible refine kept_foldl (fun _ _ _ => ?_) _ ?_ | with_reducible apply kept_copyLoses | with_reducible apply kept_modSavedEngines | split)

theorem kept_loseLayer {s : State} (e : Fin 16) (group : Option (Fin 64)) (h : s.Kept) :
    (State.loseLayer s e group).Kept := by
  unfold State.loseLayer
  repeat' (first | with_reducible assumption | with_reducible refine kept_foldl (fun _ _ _ => ?_) _ ?_ | with_reducible apply kept_publish | with_reducible apply kept_loseLandings | with_reducible apply kept_savedLoses | with_reducible apply kept_copyLoses | with_reducible apply kept_owesCairn | with_reducible apply wf_memClear | split | dsimp only [State.Kept])

theorem kept_retireBank {s : State} (entry : Fin 16) (group bank : Fin 64) (why : HistReason) (h : s.Kept) :
    (State.retireBank s entry group bank why).Kept := by
  unfold State.retireBank
  repeat' (first | with_reducible assumption | with_reducible refine kept_foldl (fun _ _ _ => ?_) _ ?_ | with_reducible apply kept_loseLayer | with_reducible apply kept_publish | split | dsimp only [State.Kept])

theorem kept_retireNumber {s : State} (entry : Fin 16) (bank : Nat) (why : HistReason) (h : s.Kept) :
    (State.retireNumber s entry bank why).Kept := by
  unfold State.retireNumber
  repeat' (first | with_reducible assumption | with_reducible refine kept_foldl (fun _ _ _ => ?_) _ ?_ | with_reducible apply kept_retireBank)

theorem kept_spareLane {s : State} (entry : Fin 16) (group : Fin 512) (why : HistReason) (h : s.Kept) :
    (State.spareLane s entry group why).Kept := by
  unfold State.spareLane
  repeat' (first | with_reducible assumption | with_reducible refine kept_foldl (fun _ _ _ => ?_) _ ?_ | with_reducible apply kept_loseLayer | with_reducible apply kept_publish | split | dsimp only [State.Kept])

theorem kept_dropWaits {s : State} (r : Fin 288) (h : s.Kept) :
    (State.dropWaits s r).Kept := h

theorem kept_loseHeld {s : State} (r : Fin 288) (id : BitVec 16) (held : List (Option ChunkRef)) (h : s.Kept) :
    (State.loseHeld s r id held).Kept := by
  unfold State.loseHeld
  repeat' (first | with_reducible assumption | with_reducible refine kept_foldl (fun _ _ _ => ?_) _ ?_ | with_reducible apply kept_modJob | with_reducible apply kept_chunkEnded | with_reducible apply kept_record | split | dsimp only [State.Kept])

theorem kept_loseTasks {s : State} (r : Fin 288) (h : s.Kept) :
    (State.loseTasks s r).Kept := by
  unfold State.loseTasks
  repeat' (first | with_reducible assumption | with_reducible refine kept_foldl (fun _ _ _ => ?_) _ ?_ | with_reducible apply kept_loseHeld)

theorem kept_loseParked {s : State} (r : Fin 288) (h : s.Kept) :
    (State.loseParked s r).Kept := by
  unfold State.loseParked
  repeat' (first | with_reducible assumption | with_reducible refine kept_foldl (fun _ _ _ => ?_) _ ?_ | with_reducible apply kept_modCtx | with_reducible apply kept_loseHeld)

theorem kept_loseCore {s : State} (r : Fin 288) (why : HistReason) (h : s.Kept) :
    (State.loseCore s r why).Kept := by
  unfold State.loseCore
  repeat' (first | with_reducible assumption | with_reducible refine kept_foldl (fun _ _ _ => ?_) _ ?_ | with_reducible apply kept_publish | with_reducible apply kept_openAll | with_reducible apply kept_dropWaits | with_reducible apply kept_loseParked | with_reducible apply kept_loseTasks | with_reducible apply kept_modCore | with_reducible apply kept_owesCairn | split | dsimp only [State.Kept])

theorem kept_loseStation {s : State} (r : Fin 288) (why : HistReason) (h : s.Kept) :
    (State.loseStation s r why).Kept := by
  unfold State.loseStation
  repeat' (first | with_reducible assumption | with_reducible refine kept_foldl (fun _ _ _ => ?_) _ ?_ | with_reducible apply kept_publish | with_reducible apply kept_capEnd | with_reducible apply kept_portDone | with_reducible apply kept_owesCairn | split | dsimp only [State.Kept])

theorem kept_loseChannel {s : State} (ch : Fin 48) (why : HistReason) (h : s.Kept) :
    (State.loseChannel s ch why).Kept := by
  unfold State.loseChannel
  repeat' (first | with_reducible assumption | with_reducible refine kept_foldl (fun _ _ _ => ?_) _ ?_ | with_reducible apply kept_publish | with_reducible apply kept_modCtx | with_reducible apply kept_startEvict | split | dsimp only [State.Kept])

theorem kept_losePort {s : State} (p : Fin 16) (why : HistReason) (h : s.Kept) :
    (State.losePort s p why).Kept := by
  unfold State.losePort
  repeat' (first | with_reducible assumption | with_reducible refine kept_foldl (fun _ _ _ => ?_) _ ?_ | with_reducible apply kept_publish | with_reducible apply kept_passOn | split | dsimp only [State.Kept])

theorem kept_countUncorr {s : State} (r : Fin 288) (unit : ErrUnit) (line : W64) (h : s.Kept) :
    (State.countUncorr s r unit line).Kept := by
  unfold State.countUncorr
  repeat' split
  all_goals exact h

theorem kept_spoilLine {s : State} (unit : ErrUnit) (line : W64) (h : s.Kept) :
    (State.spoilLine s unit line).Kept := by
  unfold State.spoilLine
  repeat' (first | with_reducible assumption | with_reducible refine kept_foldl (fun _ _ _ => ?_) _ ?_ | with_reducible apply kept_retireNumber | split | dsimp only [State.Kept])

theorem kept_testNow {s : State} (r : Fin 288) (h : s.Kept) :
    (State.testNow s r).Kept := by
  unfold State.testNow
  repeat' (first | with_reducible assumption | with_reducible refine kept_foldl (fun _ _ _ => ?_) _ ?_ | with_reducible apply kept_openAll | with_reducible apply kept_taskqTest | with_reducible apply kept_copyTest | with_reducible refine kept_fst (by assumption) ?_ | split)

theorem kept_rerun {s : State} (r : Fin 288) (run : Running) (h : s.Kept) :
    (State.rerun s r run).Kept := by
  unfold State.rerun
  repeat' (first | with_reducible assumption | with_reducible refine kept_foldl (fun _ _ _ => ?_) _ ?_ | with_reducible apply kept_testNow | with_reducible apply kept_backTo | with_reducible apply kept_portDone | with_reducible apply kept_modCore | with_reducible apply kept_fetchFirst | with_reducible apply kept_modSlot)

theorem kept_rerunTry {s : State} (r : Fin 288) (run : Running) (h : s.Kept) :
    (State.rerunTry s r run).Kept := by
  unfold State.rerunTry
  repeat' (first | with_reducible assumption | with_reducible refine kept_foldl (fun _ _ _ => ?_) _ ?_ | with_reducible apply kept_lateStop | with_reducible apply kept_record | with_reducible apply kept_modCore | with_reducible apply kept_rerun | split | dsimp only [State.Kept])

theorem kept_rerunHeld {s : State} (r : Fin 288) (h : s.Kept) :
    (State.rerunHeld s r).Kept := by
  unfold State.rerunHeld
  repeat' (first | with_reducible assumption | with_reducible refine kept_foldl (fun _ _ _ => ?_) _ ?_ | with_reducible apply kept_rerunTry | split)

theorem kept_corrected {s : State} (c : Corrected) (h : s.Kept) :
    (State.corrected s c).Kept := by
  unfold State.corrected
  repeat' (first | with_reducible assumption | with_reducible refine kept_foldl (fun _ _ _ => ?_) _ ?_ | with_reducible apply kept_retireNumber | split | dsimp only [State.Kept])

theorem kept_missParked {s : State} (x : Context) (h : s.Kept) :
    (State.missParked s x).Kept := by
  unfold State.missParked
  repeat' (first | with_reducible assumption | with_reducible refine kept_foldl (fun _ _ _ => ?_) _ ?_ | with_reducible apply kept_modTask | with_reducible apply kept_modJob | with_reducible apply kept_record | split)

theorem kept_retireLane {s : State} (port : Fin 16) (h : s.Kept) :
    (State.retireLane s port).Kept := by
  unfold State.retireLane
  repeat' (first | with_reducible assumption | with_reducible refine kept_foldl (fun _ _ _ => ?_) _ ?_ | with_reducible apply kept_losePort | split | dsimp only [State.Kept])

theorem kept_judgeLinks {s : State} (h : s.Kept) : s.judgeLinks.Kept := by
  unfold State.judgeLinks
  split
  · exact h
  · generalize List.finRange 16 = l
    refine kept_foldl (fun _ _ ht => kept_retireLane _ ht) _ ?_
    dsimp only [State.Kept]
    exact h

theorem kept_reply {s : State} (d : Datagram) (status : Nat) (body : List Byte) (h : s.Kept) :
    (State.reply s d status body).Kept := h

theorem kept_countReplays {s : State} (port : Fin 16) (n : Nat) (h : s.Kept) :
    (State.countReplays s port n).Kept := h

theorem kept_countFlit {s : State} (port : Fin 16) (flits : Nat) (crcOk : Bool) (h : s.Kept) :
    (State.countFlit s port flits crcOk).Kept := by
  unfold State.countFlit
  repeat' (first | with_reducible assumption | with_reducible refine kept_foldl (fun _ _ _ => ?_) _ ?_ | with_reducible apply kept_countReplays | split)

theorem kept_linkAck {s : State} (port : Fin 16) (n : Nat) (h : s.Kept) :
    (State.linkAck s port n).Kept := h

theorem kept_linkNak {s : State} (port : Fin 16) (h : s.Kept) :
    (State.linkNak s port).Kept := by
  unfold State.linkNak
  repeat' (first | with_reducible assumption | with_reducible refine kept_foldl (fun _ _ _ => ?_) _ ?_ | with_reducible apply kept_countReplays | split)

theorem kept_answerFlit {s : State} (x : Flit) (kind : FlitKind) (bs : List Byte) (h : s.Kept) :
    (State.answerFlit s x kind bs).Kept := by
  unfold State.answerFlit
  repeat' (first | with_reducible assumption | with_reducible refine kept_foldl (fun _ _ _ => ?_) _ ?_ | with_reducible apply kept_sendFlit)

theorem kept_serveFlit {s : State} (x : Flit) (h : s.Kept) :
    (State.serveFlit s x).Kept := by
  unfold State.serveFlit
  repeat' (first | with_reducible assumption | with_reducible refine kept_foldl (fun _ _ _ => ?_) _ ?_ | with_reducible apply kept_answerFlit | with_reducible apply kept_noteWrites | with_reducible apply kept_writePieces | split | dsimp only [State.Kept])

theorem kept_dark {s : State} (h : s.Kept) :
    (State.dark s).Kept := by
  unfold State.dark
  repeat' (first | with_reducible assumption | with_reducible refine kept_foldl (fun _ _ _ => ?_) _ ?_ | with_reducible apply wf_memClear)

theorem kept_bootFault {s : State} (x : Nat × Nat) (h : s.Kept) :
    (State.bootFault s x).Kept := by
  unfold State.bootFault
  repeat' (first | with_reducible assumption | with_reducible refine kept_foldl (fun _ _ _ => ?_) _ ?_ | with_reducible apply kept_retireBank | with_reducible apply kept_spareLane | with_reducible apply kept_loseCore | with_reducible apply kept_loseStation | with_reducible apply kept_loseChannel | with_reducible apply kept_losePort | split)

theorem kept_bootStage {s : State} (found : List (Nat × Nat)) (stage : Nat → Bool) (h : s.Kept) :
    (State.bootStage s found stage).Kept := by
  unfold State.bootStage
  repeat' (first | with_reducible assumption | with_reducible refine kept_foldl (fun _ _ _ => ?_) _ ?_ | with_reducible apply kept_bootFault)

theorem kept_latchTests {s : State} (r : Fin 288) (c : Nat) (h : s.Kept) :
    (State.latchTests s r c).Kept := by
  unfold State.latchTests
  repeat' (first | with_reducible assumption | with_reducible refine kept_foldl (fun _ _ _ => ?_) _ ?_ | with_reducible apply kept_modCore | with_reducible apply kept_taskqTest | with_reducible apply kept_copyTest | with_reducible apply kept_openChains | with_reducible refine kept_fst (by assumption) ?_ | split | dsimp only [State.Kept])

theorem kept_stoppedTests {s : State} (r : Fin 288) (h : s.Kept) :
    (State.stoppedTests s r).Kept := by
  unfold State.stoppedTests
  repeat' (first | with_reducible assumption | with_reducible refine kept_foldl (fun _ _ _ => ?_) _ ?_ | with_reducible apply kept_modCore | with_reducible apply kept_latchTests | split)

theorem kept_beginCore {s : State} (r : Fin 288) (h : s.Kept) :
    (State.beginCore s r).Kept := by
  unfold State.beginCore
  repeat' (first | with_reducible assumption | with_reducible refine kept_foldl (fun _ _ _ => ?_) _ ?_ | with_reducible apply kept_modCore | with_reducible apply kept_compares | with_reducible apply kept_latchTests | with_reducible apply kept_stopCore | with_reducible apply kept_dropTests | with_reducible apply kept_lateReads | with_reducible apply kept_storeWrites | with_reducible refine kept_fst (by assumption) ?_ | split | dsimp only [State.Kept])

theorem kept_beginRank {s : State} (r : Fin 288) (h : s.Kept) :
    (State.beginRank s r).Kept := by
  unfold State.beginRank
  repeat' (first | with_reducible assumption | with_reducible refine kept_foldl (fun _ _ _ => ?_) _ ?_ | with_reducible apply kept_rerunHeld | with_reducible apply kept_freezeCore | with_reducible apply kept_beginCore | with_reducible apply kept_stoppedTests | split | dsimp only [State.Kept])

theorem kept_toWords {s : State} (h : s.Kept) :
    (State.toWords s).Kept := h

theorem kept_beginCycle {s : State} (h : s.Kept) :
    (State.beginCycle s).Kept := by
  unfold State.beginCycle
  repeat' (first | with_reducible assumption | with_reducible refine kept_foldl (fun _ _ _ => ?_) _ ?_ | with_reducible apply kept_toWords | with_reducible apply kept_beginRank)

theorem kept_takeLost {s : State} (r : Fin 288) (a : Access) (h : s.Kept) :
    (State.takeLost s r a).Kept := by
  unfold State.takeLost
  repeat' (first | with_reducible assumption | with_reducible refine kept_foldl (fun _ _ _ => ?_) _ ?_ | with_reducible apply kept_meetLost | with_reducible apply kept_modCore | with_reducible apply kept_takeLanding | split | dsimp only [State.Kept])

theorem kept_holdWord {s : State} (r : Fin 288) (h : s.Kept) :
    (State.holdWord s r).Kept := by
  unfold State.holdWord
  repeat' (first | with_reducible assumption | with_reducible refine kept_foldl (fun _ _ _ => ?_) _ ?_ | with_reducible apply kept_freezeCore | with_reducible apply kept_bump | with_reducible apply kept_modCore | with_reducible apply kept_takeLost | split)

theorem kept_focusOn {s : State} (r : Fin 288) (st : Stream) (h : s.Kept) :
    (State.focusOn s r st).Kept := by
  unfold State.focusOn
  repeat' (first | with_reducible assumption | with_reducible refine kept_foldl (fun _ _ _ => ?_) _ ?_ | with_reducible apply kept_modCore)

theorem kept_settleCore {s : State} (r : Fin 288) (h : s.Kept) :
    (State.settleCore s r).Kept := by
  unfold State.settleCore
  repeat' (first | with_reducible assumption | with_reducible refine kept_foldl (fun _ _ _ => ?_) _ ?_ | with_reducible apply kept_loseAll | with_reducible apply kept_modCore | with_reducible apply kept_closeCycle | with_reducible apply kept_backTo | with_reducible apply kept_stopCore | split | dsimp only [State.Kept])

theorem kept_endWords {s : State} (h : s.Kept) :
    (State.endWords s).Kept := by
  unfold State.endWords
  repeat' (first | with_reducible assumption | with_reducible refine kept_foldl (fun _ _ _ => ?_) _ ?_ | with_reducible apply kept_settleCore | split)

theorem kept_takeAcks {s : State} (h : s.Kept) :
    (State.takeAcks s).Kept := by
  unfold State.takeAcks
  repeat' (first | with_reducible assumption | with_reducible refine kept_foldl (fun _ _ _ => ?_) _ ?_ | with_reducible apply kept_acknowledge)

theorem kept_hurry {s : State} (r : Fin 288) (h : s.Kept) :
    (State.hurry s r).Kept := by
  unfold State.hurry
  repeat' (first | with_reducible assumption | with_reducible refine kept_foldl (fun _ _ _ => ?_) _ ?_ | with_reducible apply kept_modCore | split | dsimp only [State.Kept])

theorem kept_advance {s : State} (h : s.Kept) :
    (State.advance s).Kept := by
  unfold State.advance
  repeat' (first | with_reducible assumption | with_reducible refine kept_foldl (fun _ _ _ => ?_) _ ?_ | with_reducible apply kept_tickSlots | with_reducible apply kept_takeAcks | with_reducible apply kept_noteFree | with_reducible apply kept_hurry | with_reducible apply kept_serveBanks | with_reducible apply kept_readEntry | split)

theorem kept_fixSpan (run : State → Out) (id : Nat) {s : State} (h : s.Kept) :
    (State.fixSpan run id s).Kept := by
  unfold State.fixSpan
  repeat' (first | with_reducible assumption | with_reducible refine kept_foldl (fun _ _ _ => ?_) _ ?_ | with_reducible apply kept_setSpan)

theorem kept_withFetchWord {s : State} (_nbits w : Nat) (h : s.Kept) :
    (State.withFetchWord s _nbits w).Kept := by
  unfold State.withFetchWord
  repeat' (first | with_reducible assumption | with_reducible refine kept_foldl (fun _ _ _ => ?_) _ ?_ | with_reducible apply kept_putWord | with_reducible apply kept_modCore)

end Sys2Proof.Machine
end

