-- ==== Sys2Proof/Laws/PerInstr.lean ====
section
/-! SUPPORT. Statements made of each instruction as syntax, one lemma a constructor. WordHeader: where an instruction has a
word, the word's IDLE field holds its idle count and its STRM field names its stream (R136); an event has no word. -/

namespace Sys2Proof.Laws

/-- A word that mkWord builds carries its idle count and its stream. -/
theorem header_of_mkWord (idl : BitVec 10) (st : Stream) (opc : BitVec 6) (body : BitVec 46) :
    wordIdle (mkWord idl st opc body) = idl.toNat ∧ Stream.ofCode (fld (mkWord idl st opc body) 52 2) = st := by
  have h1 : (mkWord idl st opc body).extractLsb' 54 10 = idl := by
    ext i hi
    simp only [mkWord, BitVec.getElem_extractLsb', BitVec.getLsbD_append]
    have : ¬ 54 + i < 46 := by omega
    have : ¬ 54 + i - 46 < 6 := by omega
    have : ¬ 54 + i - 46 - 6 < 2 := by omega
    have h : 54 + i - 46 - 6 - 2 = i := by omega
    simp [*, BitVec.getLsbD_eq_getElem]
  have h2 : (mkWord idl st opc body).extractLsb' 52 2 = st.code := by
    ext i hi
    simp only [mkWord, BitVec.getElem_extractLsb', BitVec.getLsbD_append]
    have : ¬ 52 + i < 46 := by omega
    have : ¬ 52 + i - 46 < 6 := by omega
    have : 52 + i - 46 - 6 < 2 := by omega
    have h : 52 + i - 46 - 6 = i := by omega
    simp [*, BitVec.getLsbD_eq_getElem]
  refine ⟨by rw [wordIdle, h1], ?_⟩
  rw [fld, h2]
  cases st <;> rfl

/-- What WordHeader says of an instruction. -/
def WordHeader.Statement (i : Instr) : Prop :=
  ∀ idl w, encode idl i = some w → wordIdle w = idl.toNat ∧ some (Stream.ofCode (fld w 52 2)) = i.stream?

/-- It holds of every instruction. -/
theorem header_of_encode (i : Instr) : WordHeader.Statement i := by
  intro idl w h
  unfold encode at h
  split at h
  · rename_i st opc body hs hb
    obtain rfl := Option.some.inj h
    rw [hs]
    exact ⟨(header_of_mkWord idl st opc body).1, congrArg some (header_of_mkWord idl st opc body).2⟩
  · exact absurd h (by simp)

theorem WordHeader.idle (st : Stream) (count : BitVec 32) : WordHeader.Statement (.idle st count) := header_of_encode (.idle st count)
theorem WordHeader.loop (st : Stream) (lc : BitVec 2) (count : LoopCount) (tgt : BitVec 17) : WordHeader.Statement (.loop st lc count tgt) := header_of_encode (.loop st lc count tgt)
theorem WordHeader.add (sd sa sb : BitVec 6) : WordHeader.Statement (.add sd sa sb) := header_of_encode (.add sd sa sb)
theorem WordHeader.sub (sd sa sb : BitVec 6) : WordHeader.Statement (.sub sd sa sb) := header_of_encode (.sub sd sa sb)
theorem WordHeader.mul (sd sa sb : BitVec 6) : WordHeader.Statement (.mul sd sa sb) := header_of_encode (.mul sd sa sb)
theorem WordHeader.mulh (sd sa sb : BitVec 6) : WordHeader.Statement (.mulh sd sa sb) := header_of_encode (.mulh sd sa sb)
theorem WordHeader.mulhn (sd sa sb : BitVec 6) : WordHeader.Statement (.mulhn sd sa sb) := header_of_encode (.mulhn sd sa sb)
theorem WordHeader.div (sd sa sb : BitVec 6) : WordHeader.Statement (.div sd sa sb) := header_of_encode (.div sd sa sb)
theorem WordHeader.divn (sd sa sb : BitVec 6) : WordHeader.Statement (.divn sd sa sb) := header_of_encode (.divn sd sa sb)
theorem WordHeader.rem (sd sa sb : BitVec 6) : WordHeader.Statement (.rem sd sa sb) := header_of_encode (.rem sd sa sb)
theorem WordHeader.remn (sd sa sb : BitVec 6) : WordHeader.Statement (.remn sd sa sb) := header_of_encode (.remn sd sa sb)
theorem WordHeader.and (sd sa sb : BitVec 6) : WordHeader.Statement (.and sd sa sb) := header_of_encode (.and sd sa sb)
theorem WordHeader.or (sd sa sb : BitVec 6) : WordHeader.Statement (.or sd sa sb) := header_of_encode (.or sd sa sb)
theorem WordHeader.xor (sd sa sb : BitVec 6) : WordHeader.Statement (.xor sd sa sb) := header_of_encode (.xor sd sa sb)
theorem WordHeader.andn (sd sa sb : BitVec 6) : WordHeader.Statement (.andn sd sa sb) := header_of_encode (.andn sd sa sb)
theorem WordHeader.shl (sd sa sb : BitVec 6) : WordHeader.Statement (.shl sd sa sb) := header_of_encode (.shl sd sa sb)
theorem WordHeader.shr (sd sa sb : BitVec 6) : WordHeader.Statement (.shr sd sa sb) := header_of_encode (.shr sd sa sb)
theorem WordHeader.sra (sd sa sb : BitVec 6) : WordHeader.Statement (.sra sd sa sb) := header_of_encode (.sra sd sa sb)
theorem WordHeader.rol (sd sa sb : BitVec 6) : WordHeader.Statement (.rol sd sa sb) := header_of_encode (.rol sd sa sb)
theorem WordHeader.min (sd sa sb : BitVec 6) : WordHeader.Statement (.min sd sa sb) := header_of_encode (.min sd sa sb)
theorem WordHeader.max (sd sa sb : BitVec 6) : WordHeader.Statement (.max sd sa sb) := header_of_encode (.max sd sa sb)
theorem WordHeader.minn (sd sa sb : BitVec 6) : WordHeader.Statement (.minn sd sa sb) := header_of_encode (.minn sd sa sb)
theorem WordHeader.maxn (sd sa sb : BitVec 6) : WordHeader.Statement (.maxn sd sa sb) := header_of_encode (.maxn sd sa sb)
theorem WordHeader.seq (sd sa sb : BitVec 6) : WordHeader.Statement (.seq sd sa sb) := header_of_encode (.seq sd sa sb)
theorem WordHeader.sne (sd sa sb : BitVec 6) : WordHeader.Statement (.sne sd sa sb) := header_of_encode (.sne sd sa sb)
theorem WordHeader.slt (sd sa sb : BitVec 6) : WordHeader.Statement (.slt sd sa sb) := header_of_encode (.slt sd sa sb)
theorem WordHeader.sltn (sd sa sb : BitVec 6) : WordHeader.Statement (.sltn sd sa sb) := header_of_encode (.sltn sd sa sb)
theorem WordHeader.sel (sd sa sb sc : BitVec 6) : WordHeader.Statement (.sel sd sa sb sc) := header_of_encode (.sel sd sa sb sc)
theorem WordHeader.addi (sd sa : BitVec 6) (imm : BitVec 34) : WordHeader.Statement (.addi sd sa imm) := header_of_encode (.addi sd sa imm)
theorem WordHeader.andi (sd sa : BitVec 6) (imm : BitVec 34) : WordHeader.Statement (.andi sd sa imm) := header_of_encode (.andi sd sa imm)
theorem WordHeader.ori (sd sa : BitVec 6) (imm : BitVec 34) : WordHeader.Statement (.ori sd sa imm) := header_of_encode (.ori sd sa imm)
theorem WordHeader.xori (sd sa : BitVec 6) (imm : BitVec 34) : WordHeader.Statement (.xori sd sa imm) := header_of_encode (.xori sd sa imm)
theorem WordHeader.slti (sd sa : BitVec 6) (imm : BitVec 34) : WordHeader.Statement (.slti sd sa imm) := header_of_encode (.slti sd sa imm)
theorem WordHeader.shli (sd sa : BitVec 6) (imm : BitVec 34) : WordHeader.Statement (.shli sd sa imm) := header_of_encode (.shli sd sa imm)
theorem WordHeader.shri (sd sa : BitVec 6) (imm : BitVec 34) : WordHeader.Statement (.shri sd sa imm) := header_of_encode (.shri sd sa imm)
theorem WordHeader.srai (sd sa : BitVec 6) (imm : BitVec 34) : WordHeader.Statement (.srai sd sa imm) := header_of_encode (.srai sd sa imm)
theorem WordHeader.li (sd : BitVec 6) (imm : BitVec 34) : WordHeader.Statement (.li sd imm) := header_of_encode (.li sd imm)
theorem WordHeader.lih (sd sa : BitVec 6) (imm : BitVec 34) : WordHeader.Statement (.lih sd sa imm) := header_of_encode (.lih sd sa imm)
theorem WordHeader.clz (sd sa : BitVec 6) : WordHeader.Statement (.clz sd sa) := header_of_encode (.clz sd sa)
theorem WordHeader.ctz (sd sa : BitVec 6) : WordHeader.Statement (.ctz sd sa) := header_of_encode (.ctz sd sa)
theorem WordHeader.popc (sd sa : BitVec 6) : WordHeader.Statement (.popc sd sa) := header_of_encode (.popc sd sa)
theorem WordHeader.bext (sd sa : BitVec 6) (pos : BitVec 6) (len : BitVec 7) : WordHeader.Statement (.bext sd sa pos len) := header_of_encode (.bext sd sa pos len)
theorem WordHeader.bins (sd sa sb : BitVec 6) (pos : BitVec 6) (len : BitVec 7) : WordHeader.Statement (.bins sd sa sb pos len) := header_of_encode (.bins sd sa sb pos len)
theorem WordHeader.amk (ad : BitVec 5) (sa sb : BitVec 6) (spc : BitVec 5) : WordHeader.Statement (.amk ad sa sb spc) := header_of_encode (.amk ad sa sb spc)
theorem WordHeader.aadd (ad aa : BitVec 5) (sa : BitVec 6) : WordHeader.Statement (.aadd ad aa sa) := header_of_encode (.aadd ad aa sa)
theorem WordHeader.aaddi (ad aa : BitVec 5) (imm : BitVec 34) : WordHeader.Statement (.aaddi ad aa imm) := header_of_encode (.aaddi ad aa imm)
theorem WordHeader.amovAddr (ad aa : BitVec 5) : WordHeader.Statement (.amovAddr ad aa) := header_of_encode (.amovAddr ad aa)
theorem WordHeader.amovFromScalar (ad : BitVec 5) (sa : BitVec 6) : WordHeader.Statement (.amovFromScalar ad sa) := header_of_encode (.amovFromScalar ad sa)
theorem WordHeader.amovToScalar (sd : BitVec 6) (aa : BitVec 5) : WordHeader.Statement (.amovToScalar sd aa) := header_of_encode (.amovToScalar sd aa)
theorem WordHeader.afldSpace (sd : BitVec 6) (aa : BitVec 5) : WordHeader.Statement (.afldSpace sd aa) := header_of_encode (.afldSpace sd aa)
theorem WordHeader.afldRank (sd : BitVec 6) (aa : BitVec 5) : WordHeader.Statement (.afldRank sd aa) := header_of_encode (.afldRank sd aa)
theorem WordHeader.afldOffset (sd : BitVec 6) (aa : BitVec 5) : WordHeader.Statement (.afldOffset sd aa) := header_of_encode (.afldOffset sd aa)
theorem WordHeader.br (cond : Cond) (sa sb : BitVec 6) (tgt : BitVec 17) : WordHeader.Statement (.br cond sa sb tgt) := header_of_encode (.br cond sa sb tgt)
theorem WordHeader.xbr (cond : Cond) (sa sb : BitVec 6) (soff : BitVec 24) : WordHeader.Statement (.xbr cond sa sb soff) := header_of_encode (.xbr cond sa sb soff)
theorem WordHeader.trap (code : BitVec 32) : WordHeader.Statement (.trap code) := header_of_encode (.trap code)
theorem WordHeader.taskq (sd : BitVec 6) (aa : BitVec 5) (sb : BitVec 6) : WordHeader.Statement (.taskq sd aa sb) := header_of_encode (.taskq sd aa sb)
theorem WordHeader.bpost (aa : BitVec 5) (sb : BitVec 6) : WordHeader.Statement (.bpost aa sb) := header_of_encode (.bpost aa sb)
theorem WordHeader.bread (sd : BitVec 6) (bar : BitVec 8) : WordHeader.Statement (.bread sd bar) := header_of_encode (.bread sd bar)
theorem WordHeader.fmt (sa : BitVec 6) : WordHeader.Statement (.fmt sa) := header_of_encode (.fmt sa)
theorem WordHeader.srd (sd : BitVec 6) (spr : BitVec 6) : WordHeader.Statement (.srd sd spr) := header_of_encode (.srd sd spr)
theorem WordHeader.swr (sa : BitVec 6) (spr : BitVec 6) : WordHeader.Statement (.swr sa spr) := header_of_encode (.swr sa spr)
theorem WordHeader.vadd (x : VBin) : WordHeader.Statement (.vadd x) := header_of_encode (.vadd x)
theorem WordHeader.vsub (x : VBin) : WordHeader.Statement (.vsub x) := header_of_encode (.vsub x)
theorem WordHeader.vmul (x : VBin) : WordHeader.Statement (.vmul x) := header_of_encode (.vmul x)
theorem WordHeader.vmulh (x : VBin) : WordHeader.Statement (.vmulh x) := header_of_encode (.vmulh x)
theorem WordHeader.vmin (x : VBin) : WordHeader.Statement (.vmin x) := header_of_encode (.vmin x)
theorem WordHeader.vmax (x : VBin) : WordHeader.Statement (.vmax x) := header_of_encode (.vmax x)
theorem WordHeader.vabs (x : VUn) : WordHeader.Statement (.vabs x) := header_of_encode (.vabs x)
theorem WordHeader.vneg (x : VUn) : WordHeader.Statement (.vneg x) := header_of_encode (.vneg x)
theorem WordHeader.vand (x : VBin) : WordHeader.Statement (.vand x) := header_of_encode (.vand x)
theorem WordHeader.vor (x : VBin) : WordHeader.Statement (.vor x) := header_of_encode (.vor x)
theorem WordHeader.vxor (x : VBin) : WordHeader.Statement (.vxor x) := header_of_encode (.vxor x)
theorem WordHeader.vandn (x : VBin) : WordHeader.Statement (.vandn x) := header_of_encode (.vandn x)
theorem WordHeader.vshl (x : VBin) : WordHeader.Statement (.vshl x) := header_of_encode (.vshl x)
theorem WordHeader.vshr (x : VBin) : WordHeader.Statement (.vshr x) := header_of_encode (.vshr x)
theorem WordHeader.vsra (x : VBin) : WordHeader.Statement (.vsra x) := header_of_encode (.vsra x)
theorem WordHeader.vrol (x : VBin) : WordHeader.Statement (.vrol x) := header_of_encode (.vrol x)
theorem WordHeader.vclz (x : VUn) : WordHeader.Statement (.vclz x) := header_of_encode (.vclz x)
theorem WordHeader.vpopc (x : VUn) : WordHeader.Statement (.vpopc x) := header_of_encode (.vpopc x)
theorem WordHeader.vdiv (x : VBin) : WordHeader.Statement (.vdiv x) := header_of_encode (.vdiv x)
theorem WordHeader.vsqrt (x : VUn) : WordHeader.Statement (.vsqrt x) := header_of_encode (.vsqrt x)
theorem WordHeader.vrcp (x : VUn) : WordHeader.Statement (.vrcp x) := header_of_encode (.vrcp x)
theorem WordHeader.vrsq (x : VUn) : WordHeader.Statement (.vrsq x) := header_of_encode (.vrsq x)
theorem WordHeader.vexp2 (x : VUn) : WordHeader.Statement (.vexp2 x) := header_of_encode (.vexp2 x)
theorem WordHeader.vlog2 (x : VUn) : WordHeader.Statement (.vlog2 x) := header_of_encode (.vlog2 x)
theorem WordHeader.vrnd (x : VUn) : WordHeader.Statement (.vrnd x) := header_of_encode (.vrnd x)
theorem WordHeader.vfma (x : VTri) : WordHeader.Statement (.vfma x) := header_of_encode (.vfma x)
theorem WordHeader.vfms (x : VTri) : WordHeader.Statement (.vfms x) := header_of_encode (.vfms x)
theorem WordHeader.vfnma (x : VTri) : WordHeader.Statement (.vfnma x) := header_of_encode (.vfnma x)
theorem WordHeader.vfshl (x : VTri) : WordHeader.Statement (.vfshl x) := header_of_encode (.vfshl x)
theorem WordHeader.vfshr (x : VTri) : WordHeader.Statement (.vfshr x) := header_of_encode (.vfshr x)
theorem WordHeader.vcmp (kd : BitVec 4) (va : BitVec 9) (src : VSrc) (k : BitVec 4) (ty : EType) (cond : VCond) : WordHeader.Statement (.vcmp kd va src k ty cond) := header_of_encode (.vcmp kd va src k ty cond)
theorem WordHeader.vsel (x : VDuo) : WordHeader.Statement (.vsel x) := header_of_encode (.vsel x)
theorem WordHeader.vcvt (vd va : BitVec 9) (k : BitVec 4) (src : EType) (rm : RMode) (dst : EType) (sat : Bool) : WordHeader.Statement (.vcvt vd va k src rm dst sat) := header_of_encode (.vcvt vd va k src rm dst sat)
theorem WordHeader.vqmx (vd vb va : BitVec 9) (k : BitVec 4) (rm : RMode) (fmt : MxFmt) : WordHeader.Statement (.vqmx vd vb va k rm fmt) := header_of_encode (.vqmx vd vb va k rm fmt)
theorem WordHeader.vdqmx (vd va vb : BitVec 9) (k : BitVec 4) (ty : EType) (rm : RMode) (fmt : MxFmt) : WordHeader.Statement (.vdqmx vd va vb k ty rm fmt) := header_of_encode (.vdqmx vd va vb k ty rm fmt)
theorem WordHeader.vli (vd : BitVec 9) (val : BitVec 18) (k : BitVec 4) (ty : EType) : WordHeader.Statement (.vli vd val k ty) := header_of_encode (.vli vd val k ty)
theorem WordHeader.vbcast (vd : BitVec 9) (src : VsVal) (k : BitVec 4) (ty : EType) : WordHeader.Statement (.vbcast vd src k ty) := header_of_encode (.vbcast vd src k ty)
theorem WordHeader.vmov (vd va : BitVec 9) (k : BitVec 4) : WordHeader.Statement (.vmov vd va k) := header_of_encode (.vmov vd va k)
theorem WordHeader.vext (sd : BitVec 6) (va : BitVec 9) (idx : VsVal) (ty : EType) : WordHeader.Statement (.vext sd va idx ty) := header_of_encode (.vext sd va idx ty)
theorem WordHeader.vins (vd : BitVec 9) (sa : BitVec 6) (idx : VsVal) (ty : EType) : WordHeader.Statement (.vins vd sa idx ty) := header_of_encode (.vins vd sa idx ty)
theorem WordHeader.vidx (vd : BitVec 9) (start : VsVal) (k : BitVec 4) (ty : EType) : WordHeader.Statement (.vidx vd start k ty) := header_of_encode (.vidx vd start k ty)
theorem WordHeader.vperm (x : VTri) : WordHeader.Statement (.vperm x) := header_of_encode (.vperm x)
theorem WordHeader.vrot (vd va : BitVec 9) (cnt : VsVal) (k : BitVec 4) (ty : EType) : WordHeader.Statement (.vrot vd va cnt k ty) := header_of_encode (.vrot vd va cnt k ty)
theorem WordHeader.vshup (vd va : BitVec 9) (cnt : VsVal) (k : BitVec 4) (ty : EType) : WordHeader.Statement (.vshup vd va cnt k ty) := header_of_encode (.vshup vd va cnt k ty)
theorem WordHeader.vzip (x : VDuo) : WordHeader.Statement (.vzip x) := header_of_encode (.vzip x)
theorem WordHeader.vunzip (x : VDuo) : WordHeader.Statement (.vunzip x) := header_of_encode (.vunzip x)
theorem WordHeader.vtrn (x : VDuo) : WordHeader.Statement (.vtrn x) := header_of_encode (.vtrn x)
theorem WordHeader.vcomp (vd va : BitVec 9) (k : BitVec 4) (ty : EType) : WordHeader.Statement (.vcomp vd va k ty) := header_of_encode (.vcomp vd va k ty)
theorem WordHeader.vexpd (vd va : BitVec 9) (k : BitVec 4) (ty : EType) : WordHeader.Statement (.vexpd vd va k ty) := header_of_encode (.vexpd vd va k ty)
theorem WordHeader.vred (vd va : BitVec 9) (k : BitVec 4) (ty : EType) (rm : RMode) (op : RedOp) (grp : BitVec 4) : WordHeader.Statement (.vred vd va k ty rm op grp) := header_of_encode (.vred vd va k ty rm op grp)
theorem WordHeader.vscan (vd va : BitVec 9) (k : BitVec 4) (ty : EType) (rm : RMode) (op : RedOp) (grp : BitVec 4) : WordHeader.Statement (.vscan vd va k ty rm op grp) := header_of_encode (.vscan vd va k ty rm op grp)
theorem WordHeader.vcmul (x : VDuo) : WordHeader.Statement (.vcmul x) := header_of_encode (.vcmul x)
theorem WordHeader.vcmac (x : VTri) : WordHeader.Statement (.vcmac x) := header_of_encode (.vcmac x)
theorem WordHeader.kand (kd ka kb : BitVec 4) : WordHeader.Statement (.kand kd ka kb) := header_of_encode (.kand kd ka kb)
theorem WordHeader.kor (kd ka kb : BitVec 4) : WordHeader.Statement (.kor kd ka kb) := header_of_encode (.kor kd ka kb)
theorem WordHeader.kxor (kd ka kb : BitVec 4) : WordHeader.Statement (.kxor kd ka kb) := header_of_encode (.kxor kd ka kb)
theorem WordHeader.knot (kd ka : BitVec 4) : WordHeader.Statement (.knot kd ka) := header_of_encode (.knot kd ka)
theorem WordHeader.kmov (kd ka : BitVec 4) : WordHeader.Statement (.kmov kd ka) := header_of_encode (.kmov kd ka)
theorem WordHeader.kpopc (sd : BitVec 6) (ka : BitVec 4) : WordHeader.Statement (.kpopc sd ka) := header_of_encode (.kpopc sd ka)
theorem WordHeader.kfirst (sd : BitVec 6) (ka : BitVec 4) : WordHeader.Statement (.kfirst sd ka) := header_of_encode (.kfirst sd ka)
theorem WordHeader.kfroms (kd : BitVec 4) (sa : BitVec 6) : WordHeader.Statement (.kfroms kd sa) := header_of_encode (.kfroms kd sa)
theorem WordHeader.kbytes (kd : BitVec 4) (sa sb : BitVec 6) : WordHeader.Statement (.kbytes kd sa sb) := header_of_encode (.kbytes kd sa sb)
theorem WordHeader.vkat (va : BitVec 9) (val : BitVec 18) : WordHeader.Statement (.vkat va val) := header_of_encode (.vkat va val)
theorem WordHeader.mma (hd : BitVec 4) (a : ASrc) (ab : BitVec 5) (acc : Bool) : WordHeader.Statement (.mma hd a ab acc) := header_of_encode (.mma hd a ab acc)
theorem WordHeader.mmac (hd : BitVec 4) (a : ASrc) (ab : BitVec 5) (acc : Bool) : WordHeader.Statement (.mmac hd a ab acc) := header_of_encode (.mmac hd a ab acc)
theorem WordHeader.acz (hd : BitVec 4) : WordHeader.Statement (.acz hd) := header_of_encode (.acz hd)
theorem WordHeader.acld (hd : BitVec 4) (aa : BitVec 5) : WordHeader.Statement (.acld hd aa) := header_of_encode (.acld hd aa)
theorem WordHeader.acst (hd : BitVec 4) (aa : BitVec 5) (rel : Bool) : WordHeader.Statement (.acst hd aa rel) := header_of_encode (.acst hd aa rel)
theorem WordHeader.acrel (hd : BitVec 4) : WordHeader.Statement (.acrel hd) := header_of_encode (.acrel hd)
theorem WordHeader.acadd (hd hs : BitVec 4) : WordHeader.Statement (.acadd hd hs) := header_of_encode (.acadd hd hs)
theorem WordHeader.accpy (hd hs : BitVec 4) : WordHeader.Statement (.accpy hd hs) := header_of_encode (.accpy hd hs)
theorem WordHeader.acrd (hd : BitVec 4) (vd : BitVec 9) (row : BitVec 6) : WordHeader.Statement (.acrd hd vd row) := header_of_encode (.acrd hd vd row)
theorem WordHeader.acsum (hd : BitVec 4) (vd : BitVec 9) (col : Bool) : WordHeader.Statement (.acsum hd vd col) := header_of_encode (.acsum hd vd col)
theorem WordHeader.acset (hd : BitVec 4) (vs : BitVec 9) (row col : BitVec 6) : WordHeader.Statement (.acset hd vs row col) := header_of_encode (.acset hd vs row col)
theorem WordHeader.acflip (hd : BitVec 4) (row col bit : BitVec 6) : WordHeader.Statement (.acflip hd row col bit) := header_of_encode (.acflip hd row col bit)
theorem WordHeader.xkat (hd : BitVec 4) (aa : BitVec 5) : WordHeader.Statement (.xkat hd aa) := header_of_encode (.xkat hd aa)
theorem WordHeader.tld (vd : BitVec 9) (aa : BitVec 5) (off : BitVec 28) : WordHeader.Statement (.tld vd aa off) := header_of_encode (.tld vd aa off)
theorem WordHeader.tlds (sd : BitVec 6) (aa : BitVec 5) (off : BitVec 28) : WordHeader.Statement (.tlds sd aa off) := header_of_encode (.tlds sd aa off)
theorem WordHeader.tldk (kd : BitVec 4) (aa : BitVec 5) (off : BitVec 28) : WordHeader.Statement (.tldk kd aa off) := header_of_encode (.tldk kd aa off)
theorem WordHeader.tst (vs : BitVec 9) (aa : BitVec 5) (k : BitVec 4) (off : BitVec 28) : WordHeader.Statement (.tst vs aa k off) := header_of_encode (.tst vs aa k off)
theorem WordHeader.tsts (ss : BitVec 6) (aa : BitVec 5) (off : BitVec 28) : WordHeader.Statement (.tsts ss aa off) := header_of_encode (.tsts ss aa off)
theorem WordHeader.land (vd : BitVec 9) (aa : BitVec 5) (off : BitVec 18) (arr : BitVec 10) (xf : BitVec 2) : WordHeader.Statement (.land vd aa off arr xf) := header_of_encode (.land vd aa off arr xf)
theorem WordHeader.lands (sd : BitVec 6) (aa : BitVec 5) (off : BitVec 18) (arr : BitVec 10) : WordHeader.Statement (.lands sd aa off arr) := header_of_encode (.lands sd aa off arr)
theorem WordHeader.copy (sd : BitVec 6) (aa : BitVec 5) (eng : EngSrc) : WordHeader.Statement (.copy sd aa eng) := header_of_encode (.copy sd aa eng)
theorem WordHeader.cstat (sd : BitVec 6) (aa : BitVec 5) (eng : EngSrc) : WordHeader.Statement (.cstat sd aa eng) := header_of_encode (.cstat sd aa eng)
theorem WordHeader.atom (sd : BitVec 6) (aa : BitVec 5) (sb sc : BitVec 6) (op : AtomOp) (wide : Bool) (arr : BitVec 10) : WordHeader.Statement (.atom sd aa sb sc op wide arr) := header_of_encode (.atom sd aa sb sc op wide arr)
theorem WordHeader.red (aa : BitVec 5) (sb : BitVec 6) (op : AtomOp) (wide : Bool) : WordHeader.Statement (.red aa sb op wide) := header_of_encode (.red aa sb op wide)
theorem WordHeader.stamp (aa : BitVec 5) (sb : BitVec 6) : WordHeader.Statement (.stamp aa sb) := header_of_encode (.stamp aa sb)
theorem WordHeader.fence (scope : Scope) (kind : FenceKind) : WordHeader.Statement (.fence scope kind) := header_of_encode (.fence scope kind)
theorem WordHeader.qrd (x : QArgs) : WordHeader.Statement (.qrd x) := header_of_encode (.qrd x)
theorem WordHeader.qwr (x : QArgs) : WordHeader.Statement (.qwr x) := header_of_encode (.qwr x)
theorem WordHeader.qadd (x : QArgs) : WordHeader.Statement (.qadd x) := header_of_encode (.qadd x)
theorem WordHeader.qmin (x : QArgs) : WordHeader.Statement (.qmin x) := header_of_encode (.qmin x)
theorem WordHeader.qmax (x : QArgs) : WordHeader.Statement (.qmax x) := header_of_encode (.qmax x)
theorem WordHeader.qor (x : QArgs) : WordHeader.Statement (.qor x) := header_of_encode (.qor x)
theorem WordHeader.qxchg (x : QArgs) : WordHeader.Statement (.qxchg x) := header_of_encode (.qxchg x)
theorem WordHeader.qcas (x : QArgs) : WordHeader.Statement (.qcas x) := header_of_encode (.qcas x)
theorem WordHeader.qbrd (sd : BitVec 6) (trk : BitVec 3) (sa sb : BitVec 6) (wd : BitVec 3) (arr : BitVec 11) : WordHeader.Statement (.qbrd sd trk sa sb wd arr) := header_of_encode (.qbrd sd trk sa sb wd arr)
theorem WordHeader.qalt (sd : BitVec 6) (trk : BitVec 3) (name : SlotName) (aa : BitVec 5) (arr : BitVec 11) : WordHeader.Statement (.qalt sd trk name aa arr) := header_of_encode (.qalt sd trk name aa arr)
theorem WordHeader.taskStart (r : Fin 288) : WordHeader.Statement (.taskStart r) := header_of_encode (.taskStart r)
theorem WordHeader.alignedStart (r : Fin 288) : WordHeader.Statement (.alignedStart r) := header_of_encode (.alignedStart r)
theorem WordHeader.effectiveClassRise (r : Fin 288) (n : Fin 32) : WordHeader.Statement (.effectiveClassRise r n) := header_of_encode (.effectiveClassRise r n)
theorem WordHeader.gangStartTick (r : Fin 288) (n : Fin 32) : WordHeader.Statement (.gangStartTick r n) := header_of_encode (.gangStartTick r n)
theorem WordHeader.gangPlace (job : Nat) : WordHeader.Statement (.gangPlace job) := header_of_encode (.gangPlace job)
theorem WordHeader.taskEnd (r : Fin 288) : WordHeader.Statement (.taskEnd r) := header_of_encode (.taskEnd r)
theorem WordHeader.taskqSlotWrite (r : Fin 288) (n : Fin 32) : WordHeader.Statement (.taskqSlotWrite r n) := header_of_encode (.taskqSlotWrite r n)
theorem WordHeader.landingArrival (r : Fin 288) (id : Nat) : WordHeader.Statement (.landingArrival r id) := header_of_encode (.landingArrival r id)
theorem WordHeader.freezeEnd (r : Fin 288) : WordHeader.Statement (.freezeEnd r) := header_of_encode (.freezeEnd r)
theorem WordHeader.gangFreeze (r : Fin 288) : WordHeader.Statement (.gangFreeze r) := header_of_encode (.gangFreeze r)
theorem WordHeader.budgetExpiry (r : Fin 288) : WordHeader.Statement (.budgetExpiry r) := header_of_encode (.budgetExpiry r)
theorem WordHeader.timer (r : Fin 288) : WordHeader.Statement (.timer r) := header_of_encode (.timer r)
theorem WordHeader.taskStop (r : Fin 288) : WordHeader.Statement (.taskStop r) := header_of_encode (.taskStop r)
theorem WordHeader.uncorr (r : Fin 288) (unit : ErrUnit) (line : W64) (index : BitVec 16) : WordHeader.Statement (.uncorr r unit line index) := header_of_encode (.uncorr r unit line index)
theorem WordHeader.barrierAddition (id : Nat) : WordHeader.Statement (.barrierAddition id) := header_of_encode (.barrierAddition id)
theorem WordHeader.globalStampRead (r : Fin 288) (n : Fin 32) (i : Fin 4) : WordHeader.Statement (.globalStampRead r n i) := header_of_encode (.globalStampRead r n i)
theorem WordHeader.translationWalk (r : Fin 288) (id : Nat) : WordHeader.Statement (.translationWalk r id) := header_of_encode (.translationWalk r id)
theorem WordHeader.faultRecordWrite (ctxid : BitVec 16) : WordHeader.Statement (.faultRecordWrite ctxid) := header_of_encode (.faultRecordWrite ctxid)
theorem WordHeader.chainStart (e : Fin 96) : WordHeader.Statement (.chainStart e) := header_of_encode (.chainStart e)
theorem WordHeader.move (e : Fin 96) : WordHeader.Statement (.move e) := header_of_encode (.move e)
theorem WordHeader.segmentMove (e : Fin 96) : WordHeader.Statement (.segmentMove e) := header_of_encode (.segmentMove e)
theorem WordHeader.window (e : Fin 96) : WordHeader.Statement (.window e) := header_of_encode (.window e)
theorem WordHeader.loopEntry (e : Fin 96) : WordHeader.Statement (.loopEntry e) := header_of_encode (.loopEntry e)
theorem WordHeader.cond (e : Fin 96) : WordHeader.Statement (.cond e) := header_of_encode (.cond e)
theorem WordHeader.condHolds (e : Fin 96) : WordHeader.Statement (.condHolds e) := header_of_encode (.condHolds e)
theorem WordHeader.signal (e : Fin 96) : WordHeader.Statement (.signal e) := header_of_encode (.signal e)
theorem WordHeader.expand (e : Fin 96) : WordHeader.Statement (.expand e) := header_of_encode (.expand e)
theorem WordHeader.jump (e : Fin 96) : WordHeader.Statement (.jump e) := header_of_encode (.jump e)
theorem WordHeader.endChain (e : Fin 96) : WordHeader.Statement (.endChain e) := header_of_encode (.endChain e)
theorem WordHeader.chainLimit (e : Fin 96) : WordHeader.Statement (.chainLimit e) := header_of_encode (.chainLimit e)
theorem WordHeader.remoteStamp (e : Fin 96) : WordHeader.Statement (.remoteStamp e) := header_of_encode (.remoteStamp e)
theorem WordHeader.capturePerform (r : Fin 288) (id : Nat) : WordHeader.Statement (.capturePerform r id) := header_of_encode (.capturePerform r id)
theorem WordHeader.captureAbsent (r : Fin 288) (id : Nat) : WordHeader.Statement (.captureAbsent r id) := header_of_encode (.captureAbsent r id)
theorem WordHeader.captureResult (r : Fin 288) (id : Nat) : WordHeader.Statement (.captureResult r id) := header_of_encode (.captureResult r id)
theorem WordHeader.slotError (track : Fin 8) (slot : Fin 1024) : WordHeader.Statement (.slotError track slot) := header_of_encode (.slotError track slot)
theorem WordHeader.cmd (value : W64) : WordHeader.Statement (.cmd value) := header_of_encode (.cmd value)
theorem WordHeader.doorbell (offset : Nat) (value : W64) : WordHeader.Statement (.doorbell offset value) := header_of_encode (.doorbell offset value)
theorem WordHeader.registerWrite (offset : Nat) (value : W64) : WordHeader.Statement (.registerWrite offset value) := header_of_encode (.registerWrite offset value)
theorem WordHeader.cardRead (ctxid : BitVec 16) (q : Fin 4) : WordHeader.Statement (.cardRead ctxid q) := header_of_encode (.cardRead ctxid q)
theorem WordHeader.chunkDeal (job : Nat) : WordHeader.Statement (.chunkDeal job) := header_of_encode (.chunkDeal job)
theorem WordHeader.completionRecord (job : Nat) : WordHeader.Statement (.completionRecord job) := header_of_encode (.completionRecord job)
theorem WordHeader.gangResumeTick (r : Fin 288) (n : Fin 32) : WordHeader.Statement (.gangResumeTick r n) := header_of_encode (.gangResumeTick r n)
theorem WordHeader.bankRetire (entry : Fin 16) (group : Fin 64) (bank : Fin 64) (why : HistReason) : WordHeader.Statement (.bankRetire entry group bank why) := header_of_encode (.bankRetire entry group bank why)
theorem WordHeader.laneSpare (entry : Fin 16) (group : Fin 512) (why : HistReason) : WordHeader.Statement (.laneSpare entry group why) := header_of_encode (.laneSpare entry group why)
theorem WordHeader.layerLost (entry : Fin 16) (group : Option (Fin 64)) : WordHeader.Statement (.layerLost entry group) := header_of_encode (.layerLost entry group)
theorem WordHeader.coreLost (r : Fin 288) (why : HistReason) : WordHeader.Statement (.coreLost r why) := header_of_encode (.coreLost r why)
theorem WordHeader.stationLost (r : Fin 288) (why : HistReason) : WordHeader.Statement (.stationLost r why) := header_of_encode (.stationLost r why)
theorem WordHeader.ringReform (pos : Vector (BitVec 10) 288) (why : HistReason) : WordHeader.Statement (.ringReform pos why) := header_of_encode (.ringReform pos why)
theorem WordHeader.channelLost (ch : Fin 48) (why : HistReason) : WordHeader.Statement (.channelLost ch why) := header_of_encode (.channelLost ch why)
theorem WordHeader.portLost (p : Fin 16) (why : HistReason) : WordHeader.Statement (.portLost p why) := header_of_encode (.portLost p why)
theorem WordHeader.recoveryPoint (r : Fin 288) : WordHeader.Statement (.recoveryPoint r) := header_of_encode (.recoveryPoint r)
theorem WordHeader.mapDeadline (ctxid : BitVec 16) : WordHeader.Statement (.mapDeadline ctxid) := header_of_encode (.mapDeadline ctxid)
theorem WordHeader.ptpSync (offsetNs : Int) (taiNs : Nat) : WordHeader.Statement (.ptpSync offsetNs taiNs) := header_of_encode (.ptpSync offsetNs taiNs)
theorem WordHeader.getnum (d : Datagram) : WordHeader.Statement (.getnum d) := header_of_encode (.getnum d)
theorem WordHeader.getroute (d : Datagram) : WordHeader.Statement (.getroute d) := header_of_encode (.getroute d)
theorem WordHeader.stagenum (d : Datagram) : WordHeader.Statement (.stagenum d) := header_of_encode (.stagenum d)
theorem WordHeader.stageroute (d : Datagram) : WordHeader.Statement (.stageroute d) := header_of_encode (.stageroute d)
theorem WordHeader.commit (d : Datagram) : WordHeader.Statement (.commit d) := header_of_encode (.commit d)
theorem WordHeader.discard (d : Datagram) : WordHeader.Statement (.discard d) := header_of_encode (.discard d)
theorem WordHeader.flitReceive (port : Fin 16) (crcOk : Bool) (x : Flit) : WordHeader.Statement (.flitReceive port crcOk x) := header_of_encode (.flitReceive port crcOk x)
theorem WordHeader.thermalSample (centi : Int) : WordHeader.Statement (.thermalSample centi) := header_of_encode (.thermalSample centi)
theorem WordHeader.voltageSample (centiPercent : Int) : WordHeader.Statement (.voltageSample centiPercent) := header_of_encode (.voltageSample centiPercent)
theorem WordHeader.colCrossing (slot : Fin 1024) : WordHeader.Statement (.colCrossing slot) := header_of_encode (.colCrossing slot)
theorem WordHeader.unassignedOpcode (why : DecodeFail) : WordHeader.Statement (.unassignedOpcode why) := header_of_encode (.unassignedOpcode why)
theorem WordHeader.misalignedBarAccess (access : BarAccess) : WordHeader.Statement (.misalignedBarAccess access) := header_of_encode (.misalignedBarAccess access)
theorem WordHeader.badOp (d : Datagram) : WordHeader.Statement (.badOp d) := header_of_encode (.badOp d)
theorem WordHeader.dhcpOffer (addr : BitVec 32) : WordHeader.Statement (.dhcpOffer addr) := header_of_encode (.dhcpOffer addr)
theorem WordHeader.linkLaneRetire (port : Fin 16) : WordHeader.Statement (.linkLaneRetire port) := header_of_encode (.linkLaneRetire port)
theorem WordHeader.tend : WordHeader.Statement .tend := header_of_encode .tend
theorem WordHeader.rft : WordHeader.Statement .rft := header_of_encode .rft
theorem WordHeader.mapack : WordHeader.Statement .mapack := header_of_encode .mapack
theorem WordHeader.qfence : WordHeader.Statement .qfence := header_of_encode .qfence
theorem WordHeader.create : WordHeader.Statement .create := header_of_encode .create
theorem WordHeader.destroy : WordHeader.Statement .destroy := header_of_encode .destroy
theorem WordHeader.reside : WordHeader.Statement .reside := header_of_encode .reside
theorem WordHeader.evict : WordHeader.Statement .evict := header_of_encode .evict
theorem WordHeader.setattr : WordHeader.Statement .setattr := header_of_encode .setattr
theorem WordHeader.guard : WordHeader.Statement .guard := header_of_encode .guard
theorem WordHeader.freeslot : WordHeader.Statement .freeslot := header_of_encode .freeslot
theorem WordHeader.resolve : WordHeader.Statement .resolve := header_of_encode .resolve
theorem WordHeader.ackmap : WordHeader.Statement .ackmap := header_of_encode .ackmap
theorem WordHeader.worldset : WordHeader.Statement .worldset := header_of_encode .worldset
theorem WordHeader.attest : WordHeader.Statement .attest := header_of_encode .attest
theorem WordHeader.preempt : WordHeader.Statement .preempt := header_of_encode .preempt
theorem WordHeader.dbgreq : WordHeader.Statement .dbgreq := header_of_encode .dbgreq
theorem WordHeader.ownerkey : WordHeader.Statement .ownerkey := header_of_encode .ownerkey
theorem WordHeader.unknownCommand : WordHeader.Statement .unknownCommand := header_of_encode .unknownCommand
theorem WordHeader.commandComplete : WordHeader.Statement .commandComplete := header_of_encode .commandComplete
theorem WordHeader.bellerrRead : WordHeader.Statement .bellerrRead := header_of_encode .bellerrRead
theorem WordHeader.tick : WordHeader.Statement .tick := header_of_encode .tick
theorem WordHeader.screeSave : WordHeader.Statement .screeSave := header_of_encode .screeSave
theorem WordHeader.thermalPreempt : WordHeader.Statement .thermalPreempt := header_of_encode .thermalPreempt
theorem WordHeader.thermalShutdown : WordHeader.Statement .thermalShutdown := header_of_encode .thermalShutdown
theorem WordHeader.powerOnReset : WordHeader.Statement .powerOnReset := header_of_encode .powerOnReset
theorem WordHeader.orderlyShutdown : WordHeader.Statement .orderlyShutdown := header_of_encode .orderlyShutdown
theorem WordHeader.powerLoss : WordHeader.Statement .powerLoss := header_of_encode .powerLoss
theorem WordHeader.thermalClear : WordHeader.Statement .thermalClear := header_of_encode .thermalClear

end Sys2Proof.Laws
end

