-- ==== Sys2Proof/Tests/Slice0.lean ====
section
/-! SUPPORT. Tests: words of the spec and what they decode to, ill-formed terms that the check refuses, single steps, and for
every statement with hypotheses a state and operands that meet them. Expected results come from the spec's encodings and
worked examples. -/

namespace Sys2Proof.Tests

set_option Elab.async false

open Sys2Proof Sys2Proof.Machine Sys2Proof.Claims

/-! ## Small states -/

/-- The focus on a word of rank 0 at the start of its section. -/
def focus0 (st : Stream) : Focus := { State.reset.focus with rank := 0, strm := st }

/-- Reset, with a word of rank 0 in focus and core 0 as given. -/
def one (st : Stream) (f : Core → Core) : State :=
  { State.reset with focus := focus0 st, cores := State.reset.cores.set 0 (f (State.reset.core 0)) }

/-- Core 0 with scalar registers 1, 2 and 3. -/
def withS (x y z : W64) (c : Core) : Core := ((c.putS 1 x).putS 2 y).putS 3 z

/-- Core 0 with address register 1. -/
def withA (p : W64) (c : Core) : Core := c.putA 1 p

/-- What the word in focus has left in flight at the end of the latch list, and when it is due. -/
def lastLatch (o : Out) : Option (Nat × LatchKind) :=
  match o with
  | .next t => t.me.pipe.latches.getLast?.map fun l => (l.base, l.kind)
  | _ => none

/-- The last trap of the word in focus. -/
def lastTrap (o : Out) : Option (Cause × W64 × W64) :=
  match o with
  | .next t => t.me.pipe.traps.getLast?.map fun t => (t.cause, t.faddr, t.faux)
  | _ => none

/-! ## Worked results of the C stream (chapter 12) -/

/-- R158: -7 / 2 is -3 and the remainder -1; unsigned, 2^64 - 7 over 2. -/
theorem test_div_truncates : lastLatch (exec (.div 4 1 2) (one .c (withS (-7) 2 0))) = some (12, .scal 4 (-3)) := by
  decide +kernel
theorem test_rem_sign_of_dividend : lastLatch (exec (.rem 4 1 2) (one .c (withS (-7) 2 0))) = some (12, .scal 4 (-1)) := by
  decide +kernel
theorem test_div_by_zero : lastLatch (exec (.div 4 1 2) (one .c (withS 9 0 0))) = some (12, .scal 4 (-1)) := by
  decide +kernel
theorem test_mul_high_signed :
    lastLatch (exec (.mulh 4 1 2) (one .c (withS (-1) 1 0))) = some (3, .scal 4 (-1)) := by decide +kernel
theorem test_mul_high_unsigned :
    lastLatch (exec (.mulhn 4 1 2) (one .c (withS (-1) 2 0))) = some (3, .scal 4 1) := by decide +kernel
theorem test_sub_order : lastLatch (exec (.sub 4 1 2) (one .c (withS 5 7 0))) = some (1, .scal 4 (-2)) := by decide +kernel
theorem test_andn_complements_second :
    lastLatch (exec (.andn 4 1 2) (one .c (withS 15 9 0))) = some (1, .scal 4 6) := by decide +kernel
theorem test_sra_keeps_sign :
    lastLatch (exec (.sra 4 1 2) (one .c (withS (-16) 66 0))) = some (1, .scal 4 (-4)) := by decide +kernel
theorem test_sel_zero_takes_second :
    lastLatch (exec (.sel 4 1 2 3) (one .c (withS 5 7 0))) = some (1, .scal 4 7) := by decide +kernel
/-- R160: LIH puts IMM34 above the low 30 bits. -/
theorem test_lih_builds_a_constant :
    lastLatch (exec (.lih 4 1 0xA9600000) (one .c (withS 0x01234560 0 0))) = some (1, .scal 4 0x2A58000001234560) := by
  decide +kernel
/-- R164: the sum wraps within the offset. -/
theorem test_aadd_wraps_in_the_offset :
    lastLatch (exec (.aaddi 2 1 0x20) (one .c (withA 0x0803FFFFFFFFFFF0))) = some (1, .addr 2 0x0800000000000010) := by
  decide +kernel
theorem test_bext_takes_len_bits :
    lastLatch (exec (.bext 4 1 4 8) (one .c (withS 0xABCD 0 0))) = some (1, .scal 4 0xBC) := by decide +kernel
theorem test_write_to_s0_is_discarded : (State.reset.core 0).putS 0 7 = State.reset.core 0 := by rfl
theorem test_fmt_to_a_full_queue :
    lastTrap (exec (.fmt 1) (one .c fun c => { c with regs := { c.regs with fq := List.replicate 16 0 } }))
      = some (.fmtunder, 0, 1) := by decide +kernel
theorem test_srd_of_rank : lastLatch (exec (.srd 4 2) (one .c fun c => c)) = some (1, .scal 4 0) := by decide +kernel
theorem test_swr_out_of_range :
    (lastTrap (exec (.swr 1 12) (one .c fun c => c))).map (·.1) = some .illreg := by decide +kernel

/-! ## States for the statements' hypotheses -/

/-- Sixty-four-bit words at LPDDR addresses, in an otherwise empty memory. -/
def lpddrWords (ws : List (Nat × W64)) : List Host.Cell :=
  ws.foldl (fun m w => memWriteN m (Place.lpddr.key w.1) (leBytes 8 w.2.toNat)) []

/-- The record of context 5: page tables at 0x1_0000, frames at 0x1000_0000, a fault buffer, rank 0 in its core set. -/
def record5 : Vector W64 16 :=
  Vector.ofFn fun i => match i.val with
    | 0 => 5 * 2 ^ 48 | 1 => 0x10000 | 2 => 2 ^ 59 + 0x20000 | 4 => 0x10000000 | 5 => 16 | 11 => 1 | _ => 0

/-- Context 5. -/
def ctx5 : Context :=
  { id := 5, record := record5, resident := some 0, gen := 0, prod := 0, waiting := [], ackv := 0, clocks := [],
    stale := false, preempted := false, queues := Vector.replicate 4 JobQueue.init, parked := [] }

/-- Page tables of context 5: GLOBAL addresses 0 to 2^30 - 1 are LPDDR addresses 0 to 2^30 - 1. -/
def tables5 : List (Nat × W64) := [(0x10000, 2 ^ 63 + 0x12000), (0x12000, 2 ^ 63 + 2 ^ 62 + 2 ^ 61)]

/-- A descriptor with the given first two words. -/
def desc2 (w0 w1 : W64) : Vector W64 8 := Vector.ofFn fun i => match i.val with | 0 => w0 | 1 => w1 | _ => 0

/-- Core 0 running a task of slot 0 with a descriptor. -/
def running (d : Vector W64 8) (c : Core) : Core :=
  { c with ctx := some 5, tasks := { c.tasks with
      run := some { slot := 0, desc := d, aligned := false, mode := .fresh, chunk := none }
      slots := c.tasks.slots.set 0 { c.tasks.slots[(0 : Fin 32)] with st := .running } } }

/-- A state with context 5 resident. -/
def with5 (ws : List (Nat × W64)) (s : State) : State := { s with contexts := [ctx5], mem := lpddrWords (tables5 ++ ws) }

/-! ## C stream -/

theorem test_hyp_immediate_shift : (63 : BitVec 34).toNat ≤ 63 := by decide
theorem test_hyp_bit_field : 1 ≤ (64 : BitVec 7).toNat ∧ (0 : BitVec 6).toNat + (64 : BitVec 7).toNat ≤ 64 ∧
    1 ≤ (1 : BitVec 7).toNat ∧ (63 : BitVec 6).toNat + (1 : BitVec 7).toNat ≤ 64 := by decide
theorem test_hyp_pointer_add : (0 : Int) = (S (one .c id) 0).toInt ∧ (-1 : Int) = (BitVec.allOnes 34).toInt := by decide +kernel
theorem test_hyp_branch : condition .lt (S (one .c (withS (-1) 0 0)) 1) (S (one .c (withS (-1) 0 0)) 2) ∧
    ¬ condition .ltn (S (one .c (withS (-1) 0 0)) 1) (S (one .c (withS (-1) 0 0)) 2) := by
  simp only [condition]
  decide +kernel
theorem test_hyp_idle_counts : (0xFFFFFFFE : BitVec 32).toNat ≠ 0xFFFFFFFF ∧ (0xFFFFFFFF : BitVec 32).toNat = 0xFFFFFFFF := by decide
theorem test_hyp_loop : (one .c id).me.readL .c 0 = 0 ∧ loopCount (one .c id) (.imm 1) ≤ 1 ∧ 1 < loopCount (one .c id) (.imm 2) ∧
    (one .c fun c => c.putL .c 0 1).me.readL .c 0 = 1 ∧ 1 < ((one .c fun c => c.putL .c 0 2).me.readL .c 0).toNat := by
  decide +kernel
theorem test_hyp_xbr : let s := one .c id
    s.me.fe.xbr = none ∧ s.me.code + 0x17F7F0 + 16 ≤ 0x17F800 ∧ s.prot.secureSpan (.t0 0) 0x17F7F0 16 = false ∧
      s.prot.guards = [] ∧ (∀ i, saddle s 0x17F7F0 i % 8 = 0 ∧ saddle s 0x17F7F0 i < 522240) := by decide +kernel

/-- Core 0 with its terrace's first 64 KiB secure, or its C section at CODE. -/
def secure0 (s : State) : State := { s with prot := { s.prot with t0Secure := [0] } }

theorem test_hyp_xbr_traps :
    ((one .c fun c => { c with fe := { c.fe with xbr := some { at_ := 0, tgt := Vector.replicate 4 0 } } }).me.fe.xbr.isSome = true) ∧
    (let s := one .c id
     s.me.fe.xbr = none ∧ 0x17F800 < s.me.code + 0x17F7F1 + 16) ∧
    (let s := secure0 (one .c id)
     s.me.fe.xbr = none ∧ s.me.code + 0 + 16 ≤ 0x17F800 ∧ s.me.secure = false ∧ s.prot.secureSpan (.t0 s.focus.rank) 0 16 = true) ∧
    (let s := { one .c id with mem := [(12, 1)] }
     s.me.fe.xbr = none ∧ s.me.code + 0 + 16 ≤ 0x17F800 ∧ s.prot.secureSpan (.t0 s.focus.rank) 0 16 = false ∧
      ∃ i, saddle s 0 i % 8 ≠ 0 ∨ 522240 ≤ saddle s 0 i) ∧
    (let s := { one .c id with mem := [(13, 0xF8), (14, 7)] }
     ∃ i, saddle s 0 i % 8 = 0 ∧ 522240 ≤ saddle s 0 i) := by decide +kernel

theorem test_hyp_trap_word : (one .c id).focus.strm = .c := by decide +kernel

/-- A frame of slot 0 of context 5 on rank 0, named by a0. -/
def framed5 : State :=
  with5 [(0x10200000, 5 * 2 ^ 48 + 33)] (one .c fun c =>
    { running (desc2 0 0) (c.putA 0 (2 ^ 59 + 0x10200000)) with
      tasks := { c.tasks with slots := c.tasks.slots.set 0 { c.tasks.slots[(0 : Fin 32)] with st := .suspended } } })

theorem test_hyp_rft : framed5.rftSlot = some 0 ∧ (one .c id).rftSlot = none := by decide +kernel
theorem test_hyp_rft_frame :
    framed5.me.ctx = some 5 ∧ framed5.ctx? 5 = some ctx5 ∧ (A framed5 0).toNat / 2 ^ 50 = 2 ^ 9 ∧
    framed5.translate (some (mapUnit framed5.focus.rank)) ctx5 ((A framed5 0).toNat % 2 ^ 50) false =
      .ok (.lpddr, 0x10200000, ⟨2 ^ 63 + 2 ^ 62 + 2 ^ 61, 2⟩) ∧
    0x10200000 = ctx5.frameOf framed5.focus.rank.val 0 ∧ (framed5.rawWord .lpddr 0x10200000).getLsbD 0 = true ∧
    (framed5.rawWord .lpddr 0x10200000).toNat / 2 ^ 48 = (5 : BitVec 16).toNat ∧
    (framed5.rawWord .lpddr 0x10200000).getLsbD 5 = true ∧ (framed5.rawWord .lpddr 0x10200000).toNat / 64 % 4 = 0 ∧
    (framed5.rawWord .lpddr (0x10200000 + 128)).getLsbD 8 = false ∧
    (framed5.me.tasks.slots[(0 : Fin 32)]).st = .suspended := by decide +kernel

/-- The T0 pointer of rank 0 to an offset. -/
def own (off : W64) : W64 := 2 ^ 60 + off

theorem test_hyp_taskq : let s := one .c (withA (own 0x17F7C0))
    (A s 1).toNat / 2 ^ 50 = 2 * 2 ^ 9 + s.focus.rank.val ∧ (A s 1).toNat % 2 ^ 50 % 64 = 0 ∧
    (A s 1).toNat % 2 ^ 50 + 64 ≤ 0x17F800 ∧
    s.prot.secureSpan (.t0 s.focus.rank) ((A s 1).toNat % 2 ^ 50) 64 = false ∧ s.prot.guards = [] := by decide +kernel
theorem test_hyp_taskq_traps :
    (A (one .c (withA 0)) 1).toNat / 2 ^ 50 ≠ 2 * 2 ^ 9 ∧ (A (one .c (withA (own 32))) 1).toNat % 2 ^ 50 % 64 ≠ 0 ∧
    0x17F800 < (A (one .c (withA (own 0x17F800))) 1).toNat % 2 ^ 50 + 64 := by decide +kernel

/-- A descriptor for context 5 that R7 accepts, its gang form for a start tick, and one of a class that does not exist. -/
def list5 : List W64 := [5 * 2 ^ 48, 0, 0, 0, 0, 0, 0, 0]
def gang5 (tick : W64) : List W64 := [5 * 2 ^ 48 + 256, 0, 0, 0, 0, 0, 0, tick]

theorem test_hyp_taskq_status :
    (288 : Nat) ≤ (288 : W64).toNat ∧
    (let s := one .c (running (desc2 0 0))
     s.descOk 0 (s.core 0) (State.listDesc [0, 0, 0, 0, 0, 0, 0, 0]) = false ∧
     s.descOk 0 (s.core 0) (State.listDesc (gang5 0)) = true ∧ descGang (State.listDesc (gang5 0)) = true ∧
     s.tickLate (descTick (State.listDesc (gang5 0))) = true ∧ s.tickLate (descTick (State.listDesc (gang5 1))) = false ∧
     s.descOk 0 (s.core 0) (State.listDesc list5) = true ∧ descGang (State.listDesc list5) = false ∧ s.preemptAt = none ∧
     (s.core 0).live = true ∧ (s.core 0).tasks.reserved = none ∧ ((s.core 0).tasks.slots[(1 : Fin 32)]).st = .empty ∧
     (∀ m : Fin 32, m < 1 → ((s.core 0).tasks.slots[m]).st ≠ .empty)) ∧
    (let s := one .c fun c => { running (desc2 0 0) c with
        tasks := { c.tasks with slots := c.tasks.slots.map fun t => { t with st := .waiting } } }
     s.descOk 0 (s.core 0) (State.listDesc list5) = true ∧
     ∀ n : Fin 32, ((s.core 0).tasks.slots[n]).st ≠ .empty) := by decide +kernel

/-- The pointer to barrier b of a rank. -/
def barAt (r b : W64) : W64 := 8 * 2 ^ 59 + r * 2 ^ 50 + 8 * b

theorem test_hyp_bpost : let s := one .c (withA (barAt 287 255))
    (A s 1).toNat / 2 ^ 59 = 8 ∧ (A s 1).toNat % 2 ^ 50 % 8 = 0 ∧ (A s 1).toNat % 2 ^ 50 < 2048 ∧
    (A s 1).toNat / 2 ^ 50 % 2 ^ 9 = (287 : Fin 288).val ∧ (s.core 287).world = false ∧ s.me.secure = false := by
  decide +kernel
theorem test_hyp_bpost_world :
    let s := (one .c (withA (barAt 1 0))).setCore 1 { State.reset.core 1 with world := true }
    (A s 1).toNat / 2 ^ 50 % 2 ^ 9 = (1 : Fin 288).val ∧ s.me.secure = false ∧ (s.core 1).world = true := by decide +kernel
theorem test_hyp_bpost_traps :
    (A (one .c (withA 0)) 1).toNat / 2 ^ 59 ≠ 8 ∧ (A (one .c (withA (barAt 0 0 + 4))) 1).toNat % 2 ^ 50 % 8 ≠ 0 ∧
    2048 ≤ (A (one .c (withA (barAt 0 256))) 1).toNat % 2 ^ 50 ∧ 288 ≤ (A (one .c (withA (barAt 288 0))) 1).toNat / 2 ^ 50 % 2 ^ 9 := by
  decide +kernel
theorem test_hyp_fmt : (one .c fun c => { c with regs := { c.regs with fq := List.replicate 15 0 } }).me.regs.fq.length < 16 ∧
    16 ≤ (one .c fun c => { c with regs := { c.regs with fq := List.replicate 16 0 } }).me.regs.fq.length := by decide +kernel
theorem test_hyp_special_numbers : (11 : BitVec 6).toNat < 12 ∧ 12 ≤ (12 : BitVec 6).toNat ∧ (7 : BitVec 6).toNat = 7 ∧
    (6 : BitVec 6).toNat < 12 ∧ (6 : BitVec 6).toNat ≠ 7 ∧ (6 : BitVec 6).toNat ≠ 11 := by decide

/-! ## V stream -/

/-- VADD v3, v2, v2 and VDIV v383, v0, v1, and one that names v384. -/
def vadd3 : Instr := .vadd ⟨3, 2, .vec 2, 0, .i32, .rn, false⟩
def vdiv383 : Instr := .vdiv ⟨383, 0, .vec 1, 0, .f32, .rn, false⟩
def vadd384 : Instr := .vadd ⟨384, 2, .vec 2, 0, .i32, .rn, false⟩
/-- Rows of v383 and a type. -/
def bin383 (t : EType) : VBin := ⟨383, 1, .vec 2, 3, t, .rn, false⟩
def un383 (t : EType) : VUn := ⟨383, 1, 3, t, .rn, false⟩

theorem test_hyp_vector_words :
    (∃ w, vecRow vadd3 = some w ∧ w.inFile ∧ w.unit = false) ∧
    (∃ w, vecRow vdiv383 = some w ∧ w.inFile ∧ w.unit = true ∧ (one .v id).me.pipe.divFree ≤ (one .v id).me.sp.cyc) ∧
    (∃ w, vecRow vdiv383 = some w ∧ w.unit = true ∧
      (one .v fun c => { c with pipe := { c.pipe with divFree := 1 } }).me.sp.cyc <
      (one .v fun c => { c with pipe := { c.pipe with divFree := 1 } }).me.pipe.divFree) ∧
    (∃ w, vecRow vadd384 = some w ∧ ¬ w.inFile ∧ w.unit = false) := by
  have file (l : List (BitVec 9)) : (∀ r ∈ l, r.toNat < 384) ↔ l.all (fun r => decide (r.toNat < 384)) = true := by simp
  refine ⟨⟨_, rfl, (file _).2 ?_, rfl⟩, ⟨_, rfl, (file _).2 ?_, rfl, ?_⟩, ⟨_, rfl, rfl, ?_⟩, _, rfl, fun h => ?_, rfl⟩
  · rfl
  · rfl
  · decide +kernel
  · decide +kernel
  · exact absurd ((file _).1 h) (by decide)

/-- The element-wise rows of a type: each is one of the integer, the pattern or the floating-point rows. -/
theorem test_hyp_element_rows :
    (∀ i ∈ [vadd3, .vmulh (bin383 .n8), .vabs (un383 .i64)], ∃ vd t sc f, elemRow i = some (vd, t, sc) ∧ intRow t i = some f ∧
      t.isI = true ∧ vd.toNat < 384 ∧ 0 < t.count) ∧
    (∀ i ∈ [.vrol (bin383 .n8), .vclz (un383 .i64)], ∃ vd t sc f, elemRow i = some (vd, t, sc) ∧ patRow t.width i = some f ∧
      t.isI = true ∧ vd.toNat < 384) ∧
    (∀ i ∈ [vdiv383, .vrnd (un383 .bf16)], ∃ vd t sc r, elemRow i = some (vd, t, sc) ∧
      fltRow (EType.fmt t) (rowMode i) i 0 0 0 = some r ∧ t.isF = true ∧ vd.toNat < 384) ∧
    chosen .f32 MReg.ones 511 = true ∧ chosen .f32 (Vector.replicate 2048 false) 511 = false := by
  simp only [List.forall_mem_cons, List.not_mem_nil, false_imp_iff, implies_true, and_true]
  refine ⟨⟨⟨_, _, _, _, rfl, rfl, ?_⟩, ⟨_, _, _, _, rfl, rfl, ?_⟩, _, _, _, _, rfl, rfl, ?_⟩,
    ⟨⟨_, _, _, _, rfl, rfl, ?_⟩, _, _, _, _, rfl, rfl, ?_⟩, ⟨⟨_, _, _, _, rfl, rfl, ?_⟩, _, _, _, _, rfl, rfl, ?_⟩, ?_⟩ <;>
  decide +kernel
/-- The widest group of a reduction, its inputs, and the pairs, blocks and conversions. -/
theorem test_hyp_other_vector_rows :
    2 ^ (9 : BitVec 4).toNat ≤ EType.count .f32 ∧ EType.isF .f32 = true ∧ 2 ^ (8 : BitVec 4).toNat ≤ EType.count .i64 ∧
    EType.isI .i64 = true ∧ (382 : BitVec 9).toNat < 384 ∧ (383 : BitVec 9) ≠ 382 ∧ (1 : Int) ≠ 0 := by decide
theorem test_hyp_vext : (383 : BitVec 9).toNat < 384 ∧ (384 : BitVec 9).toNat ≥ 384 ∧ EType.isI .i32 = true ∧ EType.isF .f32 = true := by
  decide
theorem test_hyp_vkat : let s := one .v id
    s.me.code + 64 * (24512 : BitVec 18).toNat + 2048 ≤ 0x17F800 ∧
    s.prot.secureSpan (.t0 s.focus.rank) (s.me.code + 64 * (24512 : BitVec 18).toNat) 2048 = false ∧ s.prot.guards = [] ∧
    0x17F800 < s.me.code + 64 * (24513 : BitVec 18).toNat + 2048 := by decide +kernel

/-! ## X stream -/

/-- Core 0 with a format word queued: FP32 by FP32, and with the handles, free list and A pointer given. -/
def withTile (bound : Bool) (free : Bool) (c : Core) : Core :=
  { c.putA 1 (own 0x174800) with
    regs := { (c.putA 1 (own 0x174800)).regs with fq := [0] }
    acc := { c.acc with
      h := if bound then c.acc.h.set 2 (some 5) else c.acc.h
      free := Vector.replicate 32 free } }

/-- The format word 0: FP32 times FP32. -/
def f32Word : FormatWord :=
  { a := .f32, b := .f32, rm := .rn, asc := false, bsc := false, ascl := 0, bscl := 0, dsat := false }

theorem test_format_word_zero : parseFormat 0 false false = some f32Word := by decide +kernel
/-- R218: unequal widths, and LOG6 in MMAC. -/
theorem test_format_words_refused :
    parseFormat (2 ^ 60) false false = none ∧ parseFormat (8 * 2 ^ 60 + 8 * 2 ^ 56) false true = none ∧
    (parseFormat (8 * 2 ^ 60 + 8 * 2 ^ 56) false false).isSome = true := by decide +kernel

theorem test_hyp_products : let s := one .x (withTile false true)
    s.me.pipe.mmaFree ≤ s.me.sp.cyc ∧ s.me.regs.fq = [0] ∧ Bindable s 2 ∧ aOk s (.t0 1) ∧ ownOk s (A s 1) 12288 ∧
    scalesOk s f32Word false ∧ s.prot.guards = [] := by
  refine ⟨by decide +kernel, by decide +kernel, .inr ⟨0, by decide +kernel⟩, ?_, ?_, ⟨nofun, nofun⟩, by decide +kernel⟩ <;>
    (simp only [aOk, ownOk]; decide +kernel)
theorem test_hyp_products_bound : let s := one .x (withTile true true)
    (∃ u, slotAt s 2 = some u) ∧ Bindable s 2 ∧ aOk s (.slot 2) ∧ aOk s (.vec 378) :=
  ⟨⟨5, by decide +kernel⟩, .inl ⟨5, by decide +kernel⟩, ⟨5, by decide +kernel⟩, by simp only [aOk]; decide⟩

theorem test_hyp_product_traps :
    (let s := one .x fun c => { c with pipe := { c.pipe with mmaFree := 1 } }
     s.me.sp.cyc < s.me.pipe.mmaFree) ∧
    (let s := one .x id
     s.me.pipe.mmaFree ≤ s.me.sp.cyc ∧ s.me.regs.fq = [] ∧ slotAt s 2 = none) ∧
    (let s := one .x fun c => { withTile false false c with regs := { c.regs with fq := [2 ^ 60] } }
     s.me.regs.fq = [2 ^ 60] ∧ parseFormat (2 ^ 60) false false = none) ∧
    ¬ (379 : BitVec 9).toNat ≤ 378 := by decide +kernel
theorem test_hyp_product_no_slot : let s := one .x (withTile false false)
    ¬ Bindable s 2 ∧ slotAt s 2 = none ∧ aOk s (.t0 1) ∧ ownOk s (A s 1) 12288 ∧ s.me.regs.fq = [0] ∧
    scalesOk s f32Word false := by
  refine ⟨?_, by decide +kernel, ?_, ?_, by decide +kernel, nofun, nofun⟩
  · rintro (⟨u, h⟩ | h)
    · exact absurd (h.symm.trans (by decide +kernel : slotAt (one .x (withTile false false)) 2 = none)) nofun
    · exact absurd h (by decide +kernel)
  all_goals simp only [aOk, ownOk]
  all_goals decide +kernel

theorem test_hyp_tile_words : let s := one .x fun c => (withTile true true c).putA 1 (own 0x17A800)
    Bindable s 2 ∧ slotAt s 2 = some 5 ∧ ownOk s (A s 1) 20480 ∧ s.prot.guards = [] := by
  refine ⟨.inl ⟨5, by decide +kernel⟩, by decide +kernel, ?_, by decide +kernel⟩
  simp only [ownOk]
  decide +kernel
theorem test_hyp_tile_registers : (383 : BitVec 9).toNat < 384 ∧ (382 : BitVec 9).toNat < 383 ∧ (56 : BitVec 6).toNat ≤ 56 := by
  decide
theorem test_hyp_debug :
    (one .x fun c => { c with attr := { c.attr with debug := true } }).me.attr.debug = true ∧
    (one .x id).me.attr.debug = false := by decide +kernel

/-! ## M stream -/

/-- Core 0 with n landing-buffer entries. -/
def withLandings (n : Nat) (c : Core) : Core :=
  { c with mem := { c.mem with landings := (List.range n).map fun i =>
      ({ id := i, kind := .lands 0, source := 0, issue := 0, arrive := 0, value := none, ready := 0, poison := false,
         faulted := false, faux := 0, counted := false, late := none, word := 0, opnds := (0, 0) } : Landing) } }

/-- An access in core 0's memory port. -/
def someAccess : Access :=
  { id := 3, kind := .stamp 0, ptr := 0, issue := 0, slot := 0, ctxid := 5, world := false, due := 0, held := none,
    reason := 0, addr := 0, order := 0, freezes := false, handed := false, ended := false, framed := false, first := none,
    under := [], ask := none, hurried := false, owes := false }

theorem test_hyp_terrace_loads : let s := one .m (withA (own 0x17F000))
    ownSpanOk s (A s 1) 0 2048 ∧ ownSpanOk s (A s 1) 0x7F8 8 ∧ ownSpanOk s (A s 1) 0x700 256 ∧
    ownSpanOk s (A s 1) (-0x17F000) 2048 ∧ s.prot.guards = [] := by
  simp only [ownSpanOk]
  decide +kernel
theorem test_hyp_terrace_load_traps : let s := one .m (withA (own 0x17F000))
    effOff (A s 1) (-0x17F001) < 0 ∧ 0x17F800 < effOff (A s 1) 0x7F9 + 8 ∧
    (A (one .m (withA 0)) 1).toNat / 2 ^ 50 ≠ 2 * 2 ^ 9 + s.focus.rank.val := by decide +kernel

/-- A GLOBAL pointer, and rank 1's terrace 0. -/
theorem test_hyp_landings : let s := one .m fun c => withA (2 ^ 59) (withLandings 63 c)
    (0 ≤ effOff (A s 1) 0 ∧ effOff (A s 1) 0 < 2 ^ 50) ∧ (∃ x, s.access .land (effective (A s 1) 0) 2048 = .ok x) ∧
    (∃ x, s.access .land (effective (A s 1) 0) 8 = .ok x) ∧
    (∃ x, s.access .land (effective (A s 1) 0) (s.landSpan s.me.ctxid (effective (A s 1) 0) (.global 0)) = .ok x) ∧ accessOk s .atom (A s 1) 8 ∧ accessOk s .atom (A s 1) 4 ∧
    accessOk s .stamp (A s 1) 8 ∧ s.me.mem.landings.length < 64 := by
  refine ⟨by decide +kernel, ⟨.global 0, by decide +kernel⟩, ⟨.global 0, by decide +kernel⟩, ⟨.global 0, by decide +kernel⟩,
    ⟨⟨.global 0, by decide +kernel⟩, ?_⟩,
    ⟨⟨.global 0, by decide +kernel⟩, ?_⟩, ⟨⟨.global 0, by decide +kernel⟩, ?_⟩, by decide +kernel⟩ <;> decide +kernel
theorem test_hyp_landings_full : 64 ≤ (one .m (withLandings 64)).me.mem.landings.length := by decide +kernel
theorem test_hyp_port :
    (one .m id).me.mem.port = [] ∧
    (one .m fun c => { c with mem := { c.mem with port := [someAccess] } }).me.mem.port ≠ [] := by decide +kernel
theorem test_hyp_copy : let s := one .m (withA (own 0x17F7E0))
    (A s 1).toNat / 2 ^ 50 = 2 * 2 ^ 9 + s.focus.rank.val ∧ (A s 1).toNat % 2 ^ 50 % 32 = 0 ∧
    (A s 1).toNat % 2 ^ 50 + 32 ≤ 0x17F800 ∧
    s.prot.secureSpan (.t0 s.focus.rank) ((A s 1).toNat % 2 ^ 50) 32 = false ∧
    (A (one .m (withA (own 16))) 1).toNat % 2 ^ 50 % 32 ≠ 0 ∧
    0x17F800 < (A (one .m (withA (own 0x17F800))) 1).toNat % 2 ^ 50 + 32 := by decide +kernel

/-- QRD s4 of slot 1,023 of a track. -/
def qrd4 (trk : BitVec 3) : Instr := .qrd ⟨4, trk, .index 1023, 7, 1, 2, 100⟩

theorem test_hyp_captures : let s := one .m fun c => withA (2 ^ 59) (withLandings 63 c)
    (∃ x op kind, payloadCapture (qrd4 7) = some (x, op, kind) ∧ captureOk s x.trk) ∧ accessOk s .qalt (A s 1) 64 := by
  refine ⟨⟨_, _, _, rfl, ?_⟩, ⟨.global 0, by decide +kernel⟩, by decide +kernel⟩
  simp only [captureOk]
  decide +kernel
theorem test_hyp_capture_traps :
    (let s := { one .m id with ring := { State.reset.ring with secure := Vector.replicate 8 true } }
     s.ring.secure[(7 : BitVec 3).toNat]? = some true ∧ s.me.secure = false) ∧
    (let s := one .m (withLandings 64)
     s.ring.secure[(7 : BitVec 3).toNat]? = some false ∧ s.me.view.stationLost = false ∧
     s.cairn.stationLost[s.focus.rank] = false ∧ 64 ≤ s.me.mem.landings.length) := by decide +kernel

/-! ## Tasks, freezes and stops -/

/-- The words of task slot n of rank 0. -/
def slotMem (n : Nat) (d : List W64) : List Host.Cell :=
  memWriteN [] ((Place.t0 0).key (0x17F800 + 64 * n)) (d.flatMap fun w => leBytes 8 w.toNat)

/-- Core 0 of context 5 with slot n as given. -/
def withTask (n : Fin 32) (f : TaskSlot → TaskSlot) (c : Core) : Core :=
  { c with ctx := some 5, tasks := { c.tasks with slots := c.tasks.slots.set n (f c.tasks.slots[n]) } }

/-- Slots 3 and 4 RUNNABLE in one class, slot 4 for longer. -/
def twoRunnable : State :=
  one .c fun c => withTask 4 (fun t => { t with st := .runnable, runFor := 9 }) (withTask 3 (fun t => { t with st := .runnable }) c)

theorem test_longest_runnable_is_chosen : twoRunnable.chosen 0 = some 4 := by decide +kernel
theorem test_hyp_chosen : (twoRunnable.slotOf 0 3).st = .runnable ∧ twoRunnable.ticked 0 3 = false ∧
    (one .c id).chosen 0 = none := by decide +kernel
theorem test_hyp_start : twoRunnable.canStart 0 = true ∧ twoRunnable.awaitsMember 0 = false ∧ twoRunnable.chosen 0 = some 4 ∧
    (twoRunnable.slotOf 0 4).mode ≠ .resume := by decide +kernel

/-- The running task of slot 0, waiting for its aligned start. -/
def waiting0 : Running := { slot := 0, desc := desc2 0 0, aligned := true, mode := .fresh, chunk := none }

theorem test_hyp_aligned_start :
    let s := one .c fun c => { c with ctx := some 5, tasks := { c.tasks with run := some waiting0 } }
    (s.core 0).tasks.run = some waiting0 ∧ waiting0.aligned = true ∧ (s.core 0).stop = none ∧ (s.core 0).tasks.lastEnd = none ∧
    (s.core 0).alignq = false ∧ (s.core 0).recoverBy = none ∧
    ((s.modCore 0 fun c => { c with recoverBy := some 7 }).core 0).recoverBy ≠ none := by decide +kernel
theorem test_hyp_class_rise :
    let s := one .c (withTask 31 fun t => { t with st := .runnable, age := 2 ^ 20 })
    (s.slotOf 0 31).st = .runnable ∧ 2 ^ 20 ≤ (s.slotOf 0 31).age := by decide +kernel

/-- An accepted descriptor on its way into slot 2. -/
def slotWrite2 (d : List W64) : SlotWrite := { slot := 2, desc := d, due := 0, chunk := none, from_ := none, after := [], ask := some 9 }

/-- Lines of terrace 0s have been served under ticket 9, as memory stands. -/
def serving (ls : List (Nat × Nat)) (s : State) : State :=
  { s with bankq := ls.map fun l =>
      { id := 9, rank := l.1, line := l.2, data := some (memReadN s.mem ((Place.t0 l.1).key (64 * l.2)) 64) } }

/-- The line of slot 2. -/
def line2 : List (Nat × Nat) := [((0 : Fin 288).val, 0x17F800 / 64 + (2 : Fin 32).val)]

theorem test_hyp_slot_write :
    (let s := serving line2 (one .c fun c => { c with tasks := { c.tasks with writes := [slotWrite2 list5] } })
     s.nextWrite 0 = some (slotWrite2 list5) ∧ Served s (slotWrite2 list5).ask line2 ∧
     ¬ Served (serving [] s) (slotWrite2 list5).ask line2 ∧ (slotWrite2 list5).slot = 2 ∧
     (slotWrite2 list5).due ≤ s.now ∧ list5.length = 8 ∧ descGang (State.listDesc list5) = false ∧
     Memory.wf s.mem = true) ∧
    (let s := serving line2
        { (one .c fun c => { c with ctx := some 5, tasks := { c.tasks with writes := [slotWrite2 (gang5 0)] } }) with
          contexts := [ctx5] }
     s.nextWrite 0 = some (slotWrite2 (gang5 0)) ∧ Served s (slotWrite2 (gang5 0)).ask line2 ∧
     descGang (State.listDesc (gang5 0)) = true ∧ s.tickLate (descTick (State.listDesc (gang5 0))) = true ∧
     s.ctx? (s.core 0).ctxid = some ctx5) := by
  simp only [Served]
  decide +kernel

/-- A gang member in slot 2 whose start tick, 0, is now. -/
def gangMember : State :=
  { one .c (withTask 2 fun t => { t with st := .waiting }) with
    mem := slotMem 2 [5 * 2 ^ 48 + 2 ^ 16 + 256, 0, 0, 0, 0, 0, 0, 0], contexts := [ctx5] }

theorem test_hyp_gang_start :
    gangMember.gangDue 0 2 = true ∧ (∀ k : Fin 32, k < 2 → gangMember.gangDue 0 k = false) ∧ gangMember.canStart 0 = true ∧
    gangMember.runnable 0 2 = true := by decide +kernel
theorem test_hyp_gang_start_missed :
    let s := gangMember.modCore 0 fun c => { c with tasks := { c.tasks with run := some waiting0 } }
    s.gangDue 0 2 = true ∧ s.canStart 0 = false ∧ (s.slotOf 0 2).chunk = none ∧ s.ctx? (s.core 0).ctxid = some ctx5 := by
  decide +kernel

/-- A stopped gang of rank 0 whose member in slot 2 waits for its common tick. -/
def gangStopped (tick : W64) : State :=
  { one .c (withTask 2 fun t => { t with st := .waiting, mode := .restart, resumeTick := some tick }) with
    mem := slotMem 2 (gang5 0), contexts := [ctx5], resumes := [{ gangid := 0, ranks := [0], tick := none }] }

theorem test_hyp_gang_resume :
    (gangStopped unfixedTick).resumeOf 0 2 = some { gangid := 0, ranks := [0], tick := none } ∧
    ((gangStopped unfixedTick).slotOf 0 2).resumeTick = some unfixedTick ∧
    (gangStopped unfixedTick).resumeIdle { gangid := 0, ranks := [0], tick := none } = true ∧
    descGangid ((gangStopped unfixedTick).slotDesc 0 2) = 0 ∧
    ((gangStopped 0).slotOf 0 2).resumeTick = some 0 ∧ (0 : W64) ≠ unfixedTick ∧
    (0 : W64).toNat ≤ (gangStopped 0).tick.toNat ∧ (gangStopped 0).canStart 0 = true ∧
    ((gangStopped 0).resumeOf 0 2).isSome = true := by decide +kernel

/-- Core 0 with the task of slot 0 ended, and RFT's slot as given. -/
def ended (rft : Option (Fin 32)) (c : Core) : Core :=
  { running (desc2 0 0) c with fe := { c.fe with tended := some 0, rft := rft } }

/-- The task that `running` runs. -/
def run0 : Running := { slot := 0, desc := desc2 0 0, aligned := false, mode := .fresh, chunk := none }

theorem test_hyp_task_end :
    let s := one .c (ended none)
    (s.core 0).tasks.run = some run0 ∧ (s.core 0).active = true ∧ (s.core 0).fe.tended.isSome = true ∧
    (s.core 0).mem.landings = [] ∧ (s.core 0).pipe.latches = [] ∧ (s.core 0).guard = none ∧ (s.core 0).fe.rft = none := by
  decide +kernel
theorem test_hyp_task_end_rft :
    let s := with5 [] (one .c (ended (some 31)))
    (s.core 0).tasks.run = some run0 ∧ (s.core 0).active = true ∧ (s.core 0).guard = none ∧ (s.core 0).fe.rft = some 31 ∧ (31 : Fin 32) ≠ run0.slot ∧
    (s.core 0).ctx = some 5 ∧ s.ctx? 5 = some ctx5 ∧ Memory.wf s.mem = true := by decide +kernel

/-- One guard touch. -/
def touched : GuardTouch :=
  { ctxid := (State.reset.core 0).ctxid, faddr := 0, source := 255, write := false, bank := 0, extra := 0, lostRel := false, due := false }

theorem test_hyp_task_end_guard :
    let s := one .c fun c => { ended none c with ctx := none, mem := { c.mem with guards := [touched] } }
    (s.core 0).active = true ∧ (s.core 0).guard = some touched := by decide +kernel

/-- A landing-buffer entry due at cycle 0. -/
def landing0 (k : LandKind) (v : Option LandValue) (ready : Nat) (faulted : Bool) : Landing :=
  { id := 7, kind := k, source := 2 ^ 59, issue := 0, arrive := 0, value := v, ready := ready, poison := false,
    faulted := faulted, faux := 0, counted := false, late := none, word := 0, opnds := (0, 0) }

/-- Core 0 running with one landing. -/
def landing (l : Landing) : State :=
  one .m fun c => { running (desc2 0 0) c with mem := { c.mem with landings := [l] } }

theorem test_hyp_arrivals :
    (∀ v ∈ [LandValue.bytes [1], .pair 1 2, .ringFault 0 0 1],
      ∀ k ∈ [LandKind.land 3 0, .lands 4, .atom 4, .capture 4 true false, .capture 4 false true, .capture 0 false false],
      let l := landing0 k (some v) 0 false
      (landing l).dueLanding 0 7 = some l ∧ l.faulted = false ∧ l.value.isSome = true ∧ l.ready ≤ (landing l).now ∧
        ((landing l).core 0).pipe.before = none) := by
  decide +kernel
theorem test_hyp_arrivals_late :
    (let l := landing0 (.land 3 0) none 0 false
     (landing l).dueLanding 0 7 = some l ∧ l.value = none ∧ l.faulted = false) ∧
    (let l := landing0 (.land 3 0) (some (.bytes [])) 1 false
     (landing l).dueLanding 0 7 = some l ∧ (landing l).now < l.ready) ∧
    (let l := landing0 (.land 3 0) none 0 true
     (landing l).dueLanding 0 7 = some l ∧ l.faulted = true) := by decide +kernel

/-- The access of a landing, or of an atomic, at layer T1 of die 0, whose layer is lost, or is there. -/
def lostAccess0 (k : AccKind) (state : Nat) : State :=
  let s := (landing (landing0 (.land 3 0) none 0 false)).modCore 0 fun c =>
    { c with mem := { c.mem with port := [{ someAccess with id := 7, kind := k, ptr := 3 * 2 ^ 59 }] } }
  { s with cairn := { s.cairn with layers := s.cairn.layers.set 0 { s.cairn.layers[(0 : Fin 16)] with state := state } } }

theorem test_hyp_arrivals_lost : let l := landing0 (.land 3 0) none 0 false
    (∀ k ∈ [AccKind.read 0 2048, .atom .cas true 1 2],
      (lostAccess0 k 2).dueLanding 0 7 = some l ∧ l.faulted = false ∧ l.value = none ∧
        ((lostAccess0 k 2).lostAccess 0 l).map (·.kind) = some k) ∧
    (lostAccess0 (.read 0 2048) 0).lostAccess 0 l = none := by decide +kernel

/-- Core 0 frozen since package cycle 0, at package cycle n. -/
def frozen0 (n : Nat) (g : Option Nat) (ls : List Landing) : State :=
  { one .m (fun c => { running (desc2 0 0) c with
      mem := { c.mem with landings := ls }, freeze := some { since := 0, cyc := 0, causeTo := 0, gang := g } }) with now := n }

theorem test_hyp_thaw :
    (frozen0 1 none []).frozenBy 0 = false ∧ (frozen0 1 none []).expires 0 = false ∧ ((frozen0 1 none []).core 0).alignq = false ∧
    (frozen0 1 none []).thaws 0 = true := by
  decide +kernel

/-- Core 0 frozen with its gang for a span of three cycles, at package cycle n. -/
def gangFrozen (n : Nat) : State :=
  { ((frozen0 n (some 1) []).modCore 0 fun c => { c with attr := { c.attr with budget := 65536 } }) with
    gangs := [{ id := 1, gangid := 0, cyc := 0, span := some 3, toTake := [], served := [], stop := none }] }

theorem test_hyp_gang_thaw : ∀ n ∈ [2, 3],
    ((gangFrozen n).gangs.find? fun (x : GangFreeze) => x.id == 1).map (·.span) = some (some 3) ∧
    (∀ g ∈ (gangFrozen n).gangs, g.had (0 : Fin 288).val = none) ∧ 0 < (gangFrozen n).now ∧ (gangFrozen n).frozenBy 0 = false ∧
    (gangFrozen n).expires 0 = false ∧ ((gangFrozen n).core 0).alignq = false ∧
    ((gangFrozen n).thaws 0 = true ↔ 3 ≤ (gangFrozen n).now) := by decide +kernel

/-- A gang freeze, or stop, that takes core 0 at cycle 64. -/
def gangTakes0 (stop : Option (StopRec × Nat)) : State :=
  { one .m (fun c => { running (Vector.ofFn fun i => if i.val = 0 then 256 else 0) c with sp := { c.sp with cyc := 64 } }) with
    gangs := [{ id := 1, gangid := 0, cyc := 0, span := none, toTake := [0], served := [], stop := stop }] }

/-- A stop. -/
def stop0 : StopRec :=
  { cause := .swtrap, kind := .trap, faddr := 0, faux := 0, boundary := 0, since := 0, cyc := 0, record := true, resumable := true,
    lostRel := false, bars := Barriers.init }

theorem test_hyp_gang_takes :
    ((gangTakes0 none).gangTakes 0).map (·.stop) = some none ∧
    ((gangTakes0 (some (stop0, 1))).gangTakes 0).map (·.stop) = some (some (stop0, 1)) := by decide +kernel

/-- A landing that has not come, in a core frozen for its whole budget of 65,536 cycles, with or without a held access. -/
def expired (port : List Access) : State :=
  (frozen0 65536 none [landing0 (.land 3 0) none 0 false]).modCore 0 fun c =>
    { c with attr := { c.attr with budget := 65536 }, mem := { c.mem with port := port } }

theorem test_hyp_budget : (expired []).expires 0 = true ∧ ((expired []).core 0).pipe.before = none ∧ (expired []).heldFor 0 = [] ∧
    (expired [{ someAccess with held := some 1, freezes := true }]).expires 0 = true ∧
    (expired [{ someAccess with held := some 1, freezes := true }]).heldFor 0 ≠ [] := by decide +kernel
theorem test_hyp_timer :
    let s := one .c fun c => { running (desc2 0 0) c with sp := { c.sp with cyc := 9, tmcmp := 9 } }
    (s.core 0).active = true ∧ (s.core 0).sp.tmcmp ≠ 0 ∧ (s.core 0).sp.tmcmp.toNat = (s.core 0).sp.cyc := by decide +kernel
theorem test_hyp_owed :
    (one .c fun c => { running (desc2 0 0) c with pending := { c.pending with cairn := some (58, 0) } }).owes 0
      = some (.cairn, .interrupt, 0, 58) ∧
    (one .c fun c => { running (desc2 0 0) c with pending := { c.pending with evict := true } }).owes 0
      = some (.preempt, .eviction, 0, 0) ∧
    (let s := { (one .c fun c => { running (desc2 0 0) c with bars := { c.bars with pend := c.bars.pend.set 7 true } }) with
        contexts := [ctx5] }
     s.owes 0 = some (.barrier, .trap, 0, 7) ∧ (s.core 0).pipe.before = none ∧ Memory.wf s.mem = true ∧
     s.ctx? (s.core 0).ctxid = some ctx5) := by decide +kernel
theorem test_hyp_uncorrectable :
    ((one .c id).core 0).tasks.run = none ∧
    (let s := { one .c (running (desc2 0 0)) with contexts := [ctx5] }
     (s.core 0).tasks.run = some run0 ∧ (s.core 0).stop = none ∧ run0.aligned = false ∧ (run0.desc[0]).getLsbD 10 = false) ∧
    (let s := { one .c (running (desc2 1024 0)) with contexts := [ctx5] }
     (s.core 0).tasks.run = some { run0 with desc := desc2 1024 0 } ∧ ((desc2 1024 0)[0]).getLsbD 10 = true ∧
     (s.slotOf 0 0).reruns < 2 ∧ s.ctx? (s.core 0).ctxid = some ctx5 ∧ (s.core 0).pipe.latches = [] ∧
     (s.core 0).pipe.before = none) := by decide +kernel

/-- A stopped task with an XBR pending, a queued format word and two tiles. -/
def stoppedTask : State :=
  with5 [] (one .c fun c =>
    { running (desc2 0 0) c with
      stop := some { stop0 with boundary := 12 }
      regs := { c.regs with fq := [1, 2] }
      acc := { c.acc with h := (c.acc.h.set 0 (some 5)).set 15 (some 9) }
      fe := { c.fe with streams := c.fe.streams.set 0 { off := 8, base := 12, fixed := false, parked := false }
                        xbr := some { at_ := 13, tgt := Vector.replicate 4 64 } } })

theorem test_hyp_frame : let s := stoppedTask
    Memory.wf s.mem = true ∧ (s.core 0).stop = some { stop0 with boundary := 12 } ∧ (s.core 0).tasks.run = some run0 ∧
    (s.core 0).ctx = some 5 ∧ s.ctx? 5 = some ctx5 ∧ (s.core 0).mem.landings = [] ∧ (s.core 0).pipe.latches = [] ∧
    (s.core 0).regs.fq.length ≤ 16 ∧ (s.core 0).mem.port = [] ∧ ctx5.full = false ∧ 12 < 2 ^ 64 ∧ (s.core 0).sp.frz < 2 ^ 64 ∧
    s.nextIssue 0 .c = some 12 ∧ ((s.core 0).stream .c).off < 2 ^ 32 ∧ (s.core 0).acc.h[(15 : Fin 16)] = some 9 := by
  decide +kernel
theorem test_hyp_frame_writes : ∀ j, stoppedTask.writeComing 0 j = false := fun j => by
  have h : (stoppedTask.core 0).mem.port = [] := by decide +kernel
  simp [State.writeComing, h]

/-! ## Memory ports and the ring -/

/-- Words at offsets of rank 150's terrace 0. -/
def t0Words (ws : List (Nat × W64)) : List Host.Cell :=
  ws.foldl (fun m w => memWriteN m ((Place.t0 150).key w.1) (leBytes 8 w.2.toNat)) []

/-- The first byte of layer T1 of die 0, as a pointer. -/
def layer0 : W64 := 3 * 2 ^ 59

/-- Core 0 with one port access of a kind, at a pointer. -/
def porting (k : AccKind) (p : W64) : State :=
  one .m fun c => { running (desc2 0 0) c with mem := { c.mem with port := [{ someAccess with kind := k, ptr := p }] } }

theorem test_hyp_port_access :
    ∀ k ∈ [AccKind.read 0 2048, .stamp 9, .qalt (some (Vector.replicate 8 1)), .atom .cas true 1 2, .red .add false 1],
      PortTurn (porting k layer0) 0 3 0 { someAccess with kind := k, ptr := layer0 } ∧
      Memory.wf (porting k layer0).mem = true ∧ (porting k layer0).foreignT0 5 layer0 = false := by
  simp only [PortTurn]
  decide +kernel
theorem test_hyp_port_target : At (porting (.stamp 9) layer0) layer0 (.layer 0) 0 := by
  simp only [At]
  decide +kernel
/-- An access that owes the record of a lost layer. -/
theorem test_hyp_port_owes :
    let s := { (one .m fun c => { running (desc2 0 0) c with mem := { c.mem with port := [{ someAccess with owes := true }] } }) with
      contexts := [ctx5] }
    (s.core 0).mem.port.findIdx? (fun (a : Access) => a.id == 3) = some 0 ∧
    (s.core 0).mem.port[0]? = some { someAccess with owes := true } ∧ s.portReady 0 0 = true ∧
    s.ctx? someAccess.ctxid = some ctx5 ∧ ctx5.full = false := by decide +kernel
theorem test_hyp_port_held :
    let s := { porting (.read 0 2048) (2 ^ 59) with contexts := [ctx5] }
    let a := { someAccess with kind := .read 0 2048, ptr := 2 ^ 59 }
    PortTurn s 0 3 0 a ∧ targetOf a.ptr = .global 0 ∧ s.ctx? a.ctxid = some ctx5 ∧
    ctx5.full = false ∧ s.translateSpan (some (mapUnit 0)) ctx5 0 2048 false = .error (1, false, 0) ∧ (s.core 0).stop = none := by
  simp only [PortTurn]
  decide +kernel

/-- An addition to barrier 255 of rank 0 or 1, on its way for context 5. -/
def addition (r : Nat) : BarrierAdd :=
  { id := 4, rank := r, bar := 255, count := 7, ctxid := 5, due := 0, after := [], from_ := none, chain := none }

/-- A state with an addition. -/
def adding (r : Nat) (s : State) : State := { s with adds := [addition r] }

theorem test_hyp_addition :
    (let s := adding 0 (one .c (running (desc2 0 0)))
     s.adds.find? (fun (x : BarrierAdd) => x.id == 4) = some (addition 0) ∧ (addition 0).after = [] ∧ (addition 0).due ≤ s.now ∧
     (addition 0).rank = (0 : Fin 288).val ∧ (addition 0).bar = (255 : Fin 256).val ∧ (s.core 0).ctx = some (addition 0).ctxid) ∧
    (let s := adding 0 (with5 [] (one .c id))
     (s.core 0).ctx ≠ some (addition 0).ctxid ∧ s.ctx? 5 = some ctx5 ∧ ctx5.hasCore 0 = true ∧ Memory.wf s.mem = true) ∧
    (let s := adding 1 (with5 [] (one .c id))
     (addition 1).rank = (1 : Fin 288).val ∧ (s.core 1).ctx ≠ some (addition 1).ctxid ∧ s.ctx? 5 = some ctx5 ∧
     ctx5.hasCore 1 = false) := by decide +kernel

/-- A waiting task whose first condition is a GLOBAL stamp at address 0. -/
def stamped (tables : List (Nat × W64)) : State :=
  { one .c (withTask 2 fun t => { t with st := .waiting }) with
    contexts := [ctx5]
    mem := (slotMem 2 [5 * 2 ^ 48, 0, 2 ^ 59, 2 ^ 63 + 1, 0, 0, 0, 0]) ++ lpddrWords tables }

theorem test_hyp_stamp :
    (stamped tables5).stampDueNow 0 2 0 = true ∧ ((stamped tables5).core 0).ctx = some 5 ∧
    (stamped tables5).ctx? 5 = some ctx5 ∧ Memory.wf (stamped tables5).mem = true ∧
    ((stamped tables5).translateSpan (some (mapUnit 0)) ctx5 0 8 false).toOption.isSome = true := by decide +kernel
theorem test_hyp_stamp_fails :
    (stamped []).stampDueNow 0 2 0 = true ∧ (stamped []).ctx? 5 = some ctx5 ∧ ctx5.full = false ∧
    (stamped []).translateSpan (some (mapUnit 0)) ctx5 0 8 false = .error (1, false, 0) := by decide +kernel

/-- A capture of core 0, of context 5. -/
def capture0 (op : CapOp) (f : CapFind) (examined : Nat) : Capture :=
  { id := 3, op := op, track := 2, find := f, wd := 7, b := 1, e := 0, ctxid := 5, world := false, ready := 0,
    examined := examined, waits := [], parked := false }

/-- The slot at rank 0's station at reset. -/
def slot0 : Fin 1024 := State.reset.ring.atPos (State.reset.station 0)

/-- The capture stands at its station; the slot there is as given. -/
def capturing (k : Capture) (f : RingSlot → RingSlot) : State :=
  { one .m (fun c => { running (desc2 0 0) c with mem := { c.mem with captures := [k] } }) with
    ring := State.reset.ring.modSlot 2 slot0 f }

/-- The slot boarded by context 5. -/
def boarded (x : RingSlot) : RingSlot := { x with st := .boarded, ctxid := 5 }

theorem test_hyp_capture_acts :
    ∀ op ∈ [CapOp.rd, .wr, .add, .min, .max, .or, .xchg, .cas, .alt],
      let k := capture0 op (.index slot0) 0
      let s := capturing k boarded
      let x := s.ring.slot k.track slot0
      s.cap? 0 3 = some k ∧ s.capActs 0 k = true ∧ s.ring.atPos ((s.core 0).view.pos.toNat) = slot0 ∧
      x.st = .boarded ∧ x.ctxid = k.ctxid ∧ x.world = k.world := by decide +kernel
theorem test_hyp_capture_absent_broken_board :
    (let k := capture0 .rd (.index slot0) 0
     (capturing k id).capActs 0 k = true ∧ ((capturing k id).ring.slot 2 slot0).st = .free ∧
     (capturing k fun x => { x with st := .broken }).capActs 0 k = true ∧
     ((capturing k fun x => { x with st := .broken }).ring.slot 2 slot0).st = .broken) ∧
    (let k := capture0 .brd (.firstFree 77) 0
     (capturing k id).cap? 0 3 = some k ∧ (capturing k id).capActs 0 k = true) ∧
    (let k := capture0 .rd (.index slot0) 1024
     (capturing k id).cap? 0 3 = some k ∧ 1024 ≤ k.examined) := by decide +kernel

/-! ## Copy engines -/

/-- A chain of rank 150 at 0x2_0000 on engine 50, as in chapter 16's example. -/
def chain150 : Chain :=
  { id := 1, rank := 150, start := 0x20000, ctxid := 6, world := false, job := none, open_ := true, due := 0, after := [],
    sees := [] }

/-- Its walk at its first entry. -/
def walk150 : Walk :=
  { pc := 0x20000, last := 0x20000, nest := [], err := false, lost := false, autoCount := 0, expand := none, entries := 0,
    streak := 0, waiting := false, held := none, copy := none, entry := none, ask := some 9, due := 0 }

/-- Engine 50 at a walk of the chain, whose entry and other words are given. -/
def walking (w : Walk) (ws : List (Nat × W64)) : State :=
  { State.reset with
    mem := t0Words ws
    engines := State.reset.engines.set 50 { State.reset.engines[(50 : Fin 96)] with queue := [chain150], walk := some w } }

theorem test_hyp_chain_start :
    let s := { State.reset with
      engines := State.reset.engines.set 50 { State.reset.engines[(50 : Fin 96)] with queue := [chain150] } }
    (s.engines[(50 : Fin 96)]).walk = none ∧ (s.engines[(50 : Fin 96)]).queue = [chain150] ∧ s.mayStart chain150 = true := by
  decide +kernel

/-- The walk at the end of the terrace, and after 2^20 control entries. -/
theorem test_hyp_chain_limit :
    ∀ w ∈ [{ walk150 with pc := 0x17F800 }, { walk150 with streak := 2 ^ 20 }],
      (walking w []).walkOf 50 = some (chain150, w) ∧ (walking w []).engineReady w = true ∧ State.atLimit w = true ∧
      (walking w []).stampsOut 50 chain150 = false ∧ (walking w []).chainRoom chain150 = true := by
  decide +kernel

/-- The words of the entry at an offset. -/
def wordsOf (ws : List (Nat × W64)) (pc i : Nat) : W64 :=
  if i < 4 then ((ws.find? fun x => x.1 == pc + 8 * i).map (·.2)).getD 0 else 0

/-- The walk has read its entry. -/
def hasRead (w : Walk) (x : Nat → W64) : Walk := { w with entry := some (Vector.ofFn fun i : Fin 4 => x i.val) }

/-- The walk has read its entry, and lines have been served for it. -/
def entered (ls : List (Nat × Nat)) (w : Walk) (ws : List (Nat × W64)) : State :=
  serving ls (walking (hasRead w (wordsOf ws w.pc)) ws)

theorem at_entry_of (s : State) (w : Walk) (ws : List (Nat × W64)) (kind : Nat)
    (h : s.walkOf 50 = some (chain150, hasRead w (wordsOf ws w.pc)) ∧
      (s.engineReady (hasRead w (wordsOf ws w.pc)) = true ∧ State.atLimit (hasRead w (wordsOf ws w.pc)) = false ∧
        s.stampsOut 50 chain150 = false ∧ s.chainRoom chain150 = true) ∧
      w.copy = none ∧ (wordsOf ws w.pc 0).toNat / 2 ^ 60 = kind ∧ s.prot.guards = []) :
    AtEntry s 50 chain150 (hasRead w (wordsOf ws w.pc)) (wordsOf ws w.pc) kind :=
  ⟨h.1, h.2.1, h.2.2.1, rfl, fun _ hi => if_neg (by omega), h.2.2.2.1, h.2.2.2.2⟩
theorem test_at_entry (ls : List (Nat × Nat)) (w : Walk) (ws : List (Nat × W64)) (kind : Nat)
    (h : (entered ls w ws).walkOf 50 = some (chain150, hasRead w (wordsOf ws w.pc)) ∧
      ((entered ls w ws).engineReady (hasRead w (wordsOf ws w.pc)) = true ∧ State.atLimit (hasRead w (wordsOf ws w.pc)) = false ∧
        (entered ls w ws).stampsOut 50 chain150 = false ∧ (entered ls w ws).chainRoom chain150 = true) ∧
      w.copy = none ∧ (wordsOf ws w.pc 0).toNat / 2 ^ 60 = kind ∧ (entered ls w ws).prot.guards = []) :
    AtEntry (entered ls w ws) 50 chain150 (hasRead w (wordsOf ws w.pc)) (wordsOf ws w.pc) kind := at_entry_of _ _ _ _ h

/-- An entry that has still to be read, its line served or not. -/
theorem test_hyp_read_entry :
    (walking walk150 []).walkOf 50 = some (chain150, walk150) ∧ (walking walk150 []).engineReady walk150 = true ∧
    State.atLimit walk150 = false ∧ walk150.entry = none ∧ (walking walk150 []).prot.guards = [] ∧
    Served (serving [(150, 0x800)] (walking walk150 [])) walk150.ask (t0Lines (t0Ptr chain150.rank walk150.pc) 32) ∧
    ¬ Served (walking walk150 []) walk150.ask (t0Lines (t0Ptr chain150.rank walk150.pc) 32) := by
  simp only [Served]
  decide +kernel

/-- A line behind one of another bank and one of its own bank that nobody waits for, in the queue for rank 150's banks. -/
def askOf (id line : Nat) : BankAsk := { id := id, rank := 150, line := line, data := none }
theorem test_hyp_serve :
    let s : State := { walking walk150 [] with bankq := [askOf 9 0x801, askOf 8 0x800] ++ askOf 9 0x800 :: [] }
    s.ticketHeld (askOf 9 0x800).id = true ∧ s.bankIdle (askOf 9 0x800).rank ((askOf 9 0x800).line % 96) = true ∧
    ∀ b ∈ [askOf 9 0x801, askOf 8 0x800], b.data = none → b.rank = (askOf 9 0x800).rank →
      b.line % 96 = (askOf 9 0x800).line % 96 → s.ticketHeld b.id = false := by decide +kernel

/-- Entries that chapter 16 admits: END, LOOP, JUMP, EXPAND; and ones it does not. -/
def endEntry : State := entered [] walk150 []
def badEnd : State := entered [] walk150 [(0x20008, 1)]
def unassigned : State := entered [] walk150 [(0x20000, 8 * 2 ^ 60)]
def jumpEntry (t : W64) : State := entered [] walk150 [(0x20000, 7 * 2 ^ 60 + t)]
def expandEntry (f : W64) : State := entered [] walk150 [(0x20000, 6 * 2 ^ 60 + f)]
def loopOf (body count : W64) : State := entered [] walk150 [(0x20000, 3 * 2 ^ 60 + body * 2 ^ 52 + count)]

theorem test_hyp_end_entries :
    (∃ w x, AtEntry endEntry 50 chain150 w x 0 ∧ ∀ i, i < 4 → x i = 0) ∧
    (∃ w x, AtEntry badEnd 50 chain150 w x 0 ∧ ∃ i, i < 4 ∧ x i ≠ 0) ∧
    (∃ w x, AtEntry unassigned 50 chain150 w x 8) :=
  ⟨⟨_, _, test_at_entry _ _ _ _ (by decide +kernel), by decide +kernel⟩,
    ⟨_, _, test_at_entry _ _ _ _ (by decide +kernel), 1, by decide +kernel⟩, _, _, test_at_entry _ _ _ _ (by decide +kernel)⟩
theorem test_hyp_jump_entries :
    (∃ w x, AtEntry (jumpEntry 0x17F7E0) 50 chain150 w x 7 ∧ (x 0).toNat % 2 ^ 32 = 0x17F7E0 ∧
      (x 0).toNat / 2 ^ 32 % 2 ^ 28 = 0 ∧ x 1 = 0 ∧ x 2 = 0 ∧ x 3 = 0 ∧ w.nest = []) ∧
    (∃ w x, AtEntry (jumpEntry 0x17F800) 50 chain150 w x 7 ∧ (x 0).toNat % 2 ^ 32 = 0x17F800) :=
  ⟨⟨_, _, test_at_entry _ _ _ _ (by decide +kernel), by decide +kernel⟩, _, _, test_at_entry _ _ _ _ (by decide +kernel), by decide +kernel⟩
theorem test_hyp_expand_entries :
    (∃ w x, AtEntry (expandEntry (2 ^ 58 + 8 * 2 ^ 54)) 50 chain150 w x 6 ∧ (x 0).toNat / 2 ^ 58 % 4 = 1 ∧
      (x 0).toNat / 2 ^ 54 % 16 = 8 ∧ (x 0).toNat % 2 ^ 54 = 0 ∧ x 1 = 0 ∧ x 2 = 0 ∧ x 3 = 0) ∧
    (∃ w x, AtEntry (expandEntry (2 ^ 58 + 9 * 2 ^ 54)) 50 chain150 w x 6 ∧ (x 0).toNat / 2 ^ 54 % 16 = 9) :=
  ⟨⟨_, _, test_at_entry _ _ _ _ (by decide +kernel), by decide +kernel⟩, _, _, test_at_entry _ _ _ _ (by decide +kernel), by decide +kernel⟩
theorem test_hyp_loop_entries :
    (∃ w x, AtEntry (loopOf 1 0) 50 chain150 w x 3 ∧ (x 0).toNat / 2 ^ 52 % 2 ^ 8 ≠ 0 ∧
      (x 0).toNat / 2 ^ 32 % 2 ^ 20 = 0 ∧ (x 3).toNat / 2 ^ 48 = 0 ∧ w.nest.length < 4 ∧ (x 0).toNat % 2 ^ 32 = 0) ∧
    (∃ w x, AtEntry (loopOf 255 1) 50 chain150 w x 3 ∧ (x 0).toNat % 2 ^ 32 ≠ 0 ∧ (x 0).toNat / 2 ^ 52 % 2 ^ 8 ≠ 0) ∧
    (∃ w x, AtEntry (loopOf 0 1) 50 chain150 w x 3 ∧ (x 0).toNat / 2 ^ 52 % 2 ^ 8 = 0) :=
  ⟨⟨_, _, test_at_entry _ _ _ _ (by decide +kernel), by decide +kernel⟩,
    ⟨_, _, test_at_entry _ _ _ _ (by decide +kernel), by decide +kernel⟩, _, _, test_at_entry _ _ _ _ (by decide +kernel), by decide +kernel⟩

/-- Context 6, whose core set is rank 150. -/
def ctx6 : Context :=
  { ctx5 with id := 6, record := Vector.ofFn fun i => if i.val = 13 then 2 ^ 22 else if i.val = 11 then 0 else record5[i] }

/-- COND of CK 1 on barrier 3 of a rank, and of CK 2 on a stamp of rank 150's terrace 0, with the given threshold and options;
WAIT is bit 56, SUB bit 57. -/
def barCond (rank : Nat) (opts thresh : W64) : List (Nat × W64) :=
  [(0x20000, 4 * 2 ^ 60 + 2 ^ 58 + opts), (0x20008, barAt rank 3), (0x20010, thresh)]
def stampCond (opts thresh : W64) : List (Nat × W64) :=
  [(0x20000, 4 * 2 ^ 60 + 2 ^ 59 + opts), (0x20008, 0x1258000000030000), (0x20010, thresh)]

/-- The walk at it, and the state; rank 150 is bound to context 6. -/
def condWalk (waiting : Bool) (ws : List (Nat × W64)) : Walk := hasRead { walk150 with waiting := waiting } (wordsOf ws 0x20000)
def condState (ls : List (Nat × Nat)) (waiting : Bool) (ws : List (Nat × W64)) : State :=
  { entered ls { walk150 with waiting := waiting } ws with
    contexts := [ctx6], cores := State.reset.cores.set 150 { State.reset.core 150 with ctx := some 6 } }

/-- It is not faulty; and its test, by what a ticket has of its stamp. -/
def condFine (ls : List (Nat × Nat)) (waiting : Bool) (ws : List (Nat × W64)) : Bool :=
  ((condState ls waiting ws).condFault 50 chain150 (condWalk waiting ws) (condWalk waiting ws).word).isNone
def condEnds (ls : List (Nat × Nat)) (waiting : Bool) (ws : List (Nat × W64)) : CondEnd :=
  (if State.condLines (condWalk waiting ws).word = [] then condState ls waiting ws
    else view (condState ls waiting ws) walk150.ask).condTest 50 chain150 (condWalk waiting ws).word

/-- The line of the stamp. -/
def stampLine : List (Nat × Nat) := [(150, 0xC00)]

theorem test_hyp_cond_entry :
    (∃ w x, AtEntry (condState [] false (barCond 150 0 0)) 50 chain150 w x 4) ∧
    (∃ w x, AtEntry (condState [] false (stampCond 0 0)) 50 chain150 w x 4) ∧
    ∃ w x, AtEntry (condState stampLine false (stampCond 0 0)) 50 chain150 w x 4 :=
  ⟨⟨_, _, at_entry_of _ walk150 (barCond 150 0 0) 4 (by decide +kernel)⟩,
    ⟨_, _, at_entry_of _ walk150 (stampCond 0 0) 4 (by decide +kernel)⟩,
    _, _, at_entry_of _ walk150 (stampCond 0 0) 4 (by decide +kernel)⟩
theorem test_hyp_cond_ends :
    (∀ waiting ∈ [false, true], condFine [] waiting (barCond 150 (2 ^ 56) 0) = true ∧
      State.condLines (condWalk waiting (barCond 150 (2 ^ 56) 0)).word = [] ∧
      condEnds [] waiting (barCond 150 (2 ^ 56) 0) = .holds ∧ condEnds [] waiting (barCond 150 (2 ^ 56) 1) = .fails) ∧
    condFine [] false (barCond 150 0 1) = true ∧ condEnds [] false (barCond 150 0 1) = .fails ∧
    (∀ waiting ∈ [false, true], condFine stampLine waiting (stampCond (2 ^ 56) 0) = true ∧
      condEnds stampLine waiting (stampCond (2 ^ 56) 0) = .holds ∧ condEnds stampLine waiting (stampCond (2 ^ 56) 1) = .fails) := by
  decide +kernel
theorem test_hyp_cond_served :
    Served (condState stampLine false (stampCond 0 0)) walk150.ask (State.condLines (condWalk false (stampCond 0 0)).word) ∧
    ¬ Served (condState [] false (stampCond 0 0)) walk150.ask (State.condLines (condWalk false (stampCond 0 0)).word) := by
  simp only [Served]
  decide +kernel
theorem test_hyp_cond_subtracts : let x := (condWalk false (barCond 150 (2 ^ 57) 0)).word
    condFine [] false (barCond 150 (2 ^ 57) 0) = true ∧ condEnds [] false (barCond 150 (2 ^ 57) 0) = .holds ∧
    (x 0).getLsbD 57 = true ∧ (x 1).toNat / 2 ^ 50 % 2 ^ 9 = (150 : Fin 288).val ∧
    (x 1).toNat % 2 ^ 50 / 8 = (3 : Fin 256).val ∧
    ((condState [] false (barCond 150 (2 ^ 57) 0)).core 150).ctx = some chain150.ctxid := by decide +kernel
theorem test_hyp_cond_waiting :
    ∀ ws ∈ [barCond 150 (2 ^ 56) 0, barCond 150 (2 ^ 56) 1, barCond 151 (2 ^ 56) 0],
      (condState [] true ws).walkOf 50 = some (chain150, condWalk true ws) ∧ (condWalk true ws).waiting = true ∧
      (condWalk true ws).held = none ∧ (condWalk true ws).due ≤ (condState [] true ws).now ∧
      (condState [] true ws).chainRoom chain150 = true := by decide +kernel
theorem test_hyp_cond_faulty : condFine [] true (barCond 151 (2 ^ 56) 0) = false := by decide +kernel

/-- SIGNAL of a barrier, and of a stamp (bit 59). -/
def signalEntry (opts p : W64) : State := entered [] walk150 [(0x20000, 5 * 2 ^ 60 + opts), (0x20008, p), (0x20010, 9)]

/-- An addition of the chain that has still to be made. -/
def chainAdd : BarrierAdd :=
  { id := 4, rank := 0, bar := 255, count := 7, ctxid := 6, due := 0, after := [], from_ := none, chain := some chain150.id }

theorem test_hyp_signal :
    (∃ w x, AtEntry (signalEntry (2 ^ 58) (barAt 150 3)) 50 chain150 w x 5 ∧ (x 0).toNat % 2 ^ 58 = 0 ∧
      (x 2).toNat / 2 ^ 48 = 0 ∧ x 3 = 0 ∧ (x 0).getLsbD 59 = false ∧
      (signalEntry (2 ^ 58) (barAt 150 3)).chainFault 50 chain150 .signalBar false (x 1, true) 8 = none) ∧
    (∃ w x, AtEntry (signalEntry (2 ^ 59) layer0) 50 chain150 w x 5 ∧ (x 0).getLsbD 59 = true ∧ (x 0).getLsbD 58 = false ∧
      At (signalEntry (2 ^ 59) layer0) (x 1) (.layer 0) 0 ∧ (x 1).toNat % 8 = 0 ∧
      (signalEntry (2 ^ 59) layer0).chainFault 50 chain150 .stamp false (x 1, true) 8 = none ∧
      (signalEntry (2 ^ 59) layer0).addsOut chain150.id = false ∧
      { signalEntry (2 ^ 59) layer0 with adds := [chainAdd] }.addsOut chain150.id = true) := by
  refine ⟨⟨_, _, test_at_entry _ _ _ _ (by decide +kernel), by decide +kernel⟩, _, _, test_at_entry _ _ _ _ (by decide +kernel), ?_⟩
  simp only [At]
  decide +kernel

/-- A REMOTE stamp for package 1 at link engine 20, with or without a route by port 0. -/
def remote1 : RemoteStamp :=
  { id := 2, ptr := 7 * 2 ^ 59 + 2 ^ 47, value := 9, ctxid := 6, world := false, rank := 0, due := 0, chain := none, job := none,
    entry := 0, loops := Vector.replicate 4 0, detail := 0, held := none }
def remoting (route : BitVec 32) : State :=
  { State.reset with
    engines := State.reset.engines.set 20 { State.reset.engines[(20 : Fin 96)] with remote := [remote1] }
    mgmt := { State.reset.mgmt with number := 0, routes := State.reset.mgmt.routes.set 1 route } }

theorem test_hyp_remote :
    (remoting 0xFFFFFF00).remoteReady 20 = some remote1 ∧ remote1.chain = none ∧ remote1.ptr.toNat / 2 ^ 59 = 7 ∧
    remote1.ptr.toNat / 2 ^ 47 % 2 ^ 12 = 1 ∧ (remoting 0xFFFFFF00).routeLive 1 = true ∧
    1 ≠ (remoting 0xFFFFFF00).mgmt.number.toNat ∧ (remoting 0xFFFFFF00).ctx? remote1.ctxid = none ∧
    (remoting 0xFFFFFFFF).remoteReady 20 = some remote1 ∧
    (remoting 0xFFFFFFFF).routeLive 1 = false ∧ (remoting 0xFFFFFFFF).ctx? remote1.ctxid = none := by decide +kernel

/-- A MOVE of two bytes from T3 of die 2 to rank 150's terrace 0. -/
def moveEntry : State :=
  entered [(150, 0x802), (150, 0x803)] walk150 [(0x20000, 2 ^ 60 + 0x802), (0x20008, 0x2A58000000100000), (0x20010, 0x1258000000030000),
    (0x20080, 2 ^ 32 + 2), (0x20088, 2 ^ 32 + 1), (0x200C0, 2 ^ 32 + 2), (0x200C8, 2 ^ 32 + 1)]

/-- Its shape and pieces. -/
def moveShape : Shape := Shape.ofWords 1 fun i => (view moveEntry walk150.ask).chainWord chain150 0x20080 i
def movePieces : List Piece :=
  (blockIdx moveShape.ext[3] moveShape.ext[2] moveShape.ext[1] moveShape.ext[0]).filterMap fun i =>
    moveShape.piece 1 false (ptrAdd 0x2A58000000100000 0) (ptrAdd 0x1258000000030000 0) 0 i

theorem test_hyp_move :
    (∃ w x, AtEntry moveEntry 50 chain150 w x 1 ∧ (x 0).getLsbD 57 = false ∧ (x 0).toNat / 2 ^ 15 % 2 ^ 41 = 0 ∧
      64 * ((x 0).toNat % 2 ^ 15) = 0x20080 ∧ x 1 = 0x2A58000000100000 ∧ x 2 = 0x1258000000030000 ∧ x 3 = 0) ∧
    moveShape.resv = false ∧ movePieces.length = 2 ∧ moveEntry.piecesFault 50 chain150 movePieces = none ∧
    moveEntry.sourcesWalk 50 chain150 movePieces = none ∧ moveEntry.sourcesLost movePieces = none ∧
    Memory.wf moveEntry.mem = true :=
  ⟨⟨_, _, test_at_entry _ _ _ _ (by decide +kernel), by decide +kernel⟩, by decide +kernel⟩

/-- A MOVE, WINDOW or segment move that has begun, with two granules left. -/
def copyRun2 : CopyRun :=
  { todo := [{ dst := layer0, bytes := [1, 2], src := none }, { dst := layer0 + 64, bytes := [3], src := none }], left := 3,
    recorded := false, guards := [], owed := none }
def copyWalk (w0 : W64) : Walk := hasRead { walk150 with copy := some copyRun2 } (wordsOf [(0x20000, w0)] 0x20000)
def copying (w0 : W64) : State := walking (copyWalk w0) []

theorem test_hyp_copying :
    (copying (2 ^ 60)).walkOf 50 = some (chain150, copyWalk (2 ^ 60)) ∧ (copyWalk (2 ^ 60)).copy = some copyRun2 ∧
    copyRun2.owed = none ∧ copyRun2.todo ≠ [] ∧
    copyRun2.todo.Nodup ∧ (copying (2 ^ 60)).entryKind 50 = some 1 ∧ (copying (2 ^ 60)).entryXp 50 = false ∧
    (copying (2 ^ 61)).entryKind 50 = some 2 ∧ (copying (2 ^ 60 + 2 ^ 57)).entryKind 50 = some 1 ∧
    (copying (2 ^ 60 + 2 ^ 57)).entryXp 50 = true ∧
    copyRun2.guards = [] ∧
    (∀ g ∈ copyRun2.todo, ∀ f ∈ copyRun2.todo, g.dst.toNat / 64 = f.dst.toNat / 64 → g = f) := by decide +kernel
/-- The same, with a record that it owes. -/
theorem test_hyp_copying_owes : let w := { copyWalk (2 ^ 60) with copy := some { copyRun2 with owed := some layer0 } }
    (walking w []).walkOf 50 = some (chain150, w) ∧ (walking w []).chainRoom chain150 = true ∧
    (walking w []).entryKind 50 = some 1 ∧ (walking w []).entryXp 50 = false := by decide +kernel
theorem test_hyp_copying_targets : ∀ g ∈ copyRun2.todo, ∃ pl off, At (copying (2 ^ 60)) g.dst pl off := by
  have h : At (copying (2 ^ 60)) layer0 (.layer 0) 0 ∧ At (copying (2 ^ 60)) (layer0 + 64) (.layer 0) 64 := by
    simp only [At]
    decide +kernel
  simp only [copyRun2, List.forall_mem_cons]
  exact ⟨⟨_, _, h.1⟩, ⟨_, _, h.2⟩, nofun⟩

/-- A segment move of no segment, one without EXPAND, and a WINDOW with a reserved bit. -/
def segmentMove (n : W64) : State := entered [] walk150 [(0x20000, 2 ^ 60 + 2 ^ 57), (0x20018, n)]
def badWindow : State := entered [(150, 0)] walk150 [(0x20000, 2 ^ 61 + 2 ^ 15)]

theorem test_hyp_bad_window : Served badWindow walk150.ask (t0Lines (t0Ptr chain150.rank 0) 64) := by
  simp only [Served]
  decide +kernel
theorem test_hyp_segment_moves :
    (∃ w x, AtEntry (segmentMove 0) 50 chain150 w x 1 ∧ (x 0).getLsbD 57 = true ∧ (x 0).toNat / 2 ^ 58 % 4 = 0 ∧
      (x 0).getLsbD 56 = false ∧ (x 0).toNat % 2 ^ 56 = 0 ∧ x 3 = 0) ∧
    (∃ w x, AtEntry (segmentMove 1) 50 chain150 w x 1 ∧ x 3 ≠ 0 ∧ w.expand = none) ∧
    (∃ w x, AtEntry (segmentMove (2 ^ 32)) 50 chain150 w x 1 ∧ ¬ (x 3).toNat < 2 ^ 32) ∧
    (∃ w x, AtEntry badWindow 50 chain150 w x 2 ∧ (x 0).toNat / 2 ^ 15 % 2 ^ 27 ≠ 0) :=
  ⟨⟨_, _, test_at_entry _ _ _ _ (by decide +kernel), by decide +kernel⟩, ⟨_, _, test_at_entry _ _ _ _ (by decide +kernel), by decide +kernel⟩,
    ⟨_, _, test_at_entry _ _ _ _ (by decide +kernel), by decide +kernel⟩, _, _, test_at_entry _ _ _ _ (by decide +kernel), by decide +kernel⟩

/-! ## The host, contexts and jobs -/

/-- Bytes at a host address. -/
def hostMem (ws : List W64) : List Host.Cell := memWriteN [] (Place.host.key 0) (ws.flatMap fun w => leBytes 8 w.toNat)

/-- The base controller is ready, and context 5 has a queue 1 of 16 entries with head and tail as given. -/
def queue1 (head tail : BitVec 16) : Context :=
  { ctx5 with
    record := (ctx5.record.set 10 (4 * 2 ^ 4)).set 7 (2 ^ 59)
    queues := ctx5.queues.set 1 { JobQueue.init with head := head, tail := tail } }
def ready (m : Mailbox) : State :=
  { State.reset with base := { State.reset.base with ready := true }, mailbox := m, contexts := [queue1 0xFFFF 0xFFFF] }

theorem test_hyp_host_writes :
    State.reset.base.ready = false ∧
    (let s := ready State.reset.mailbox
     s.base.ready = true ∧ s.mailbox.busy = false ∧ s.ctx? (BitVec.ofNat 16 ((32 * 5 + 8) / 32)) = some (queue1 0xFFFF 0xFFFF) ∧
     (32 * 5 + 8) % 8 = 0 ∧ (32 * 5 + 4) % 8 ≠ 0 ∧ 32 * 6 % 8 = 0 ∧ (1 : Fin 4).val = (32 * 5 + 8) / 8 % 4 ∧ (queue1 0xFFFF 0xFFFF).qlog 1 ≠ 0 ∧
     (((0x000F : W64).setWidth 16) - ((queue1 0xFFFF 0xFFFF).queues[(1 : Fin 4)]).head).toNat ≤ 2 ^ (queue1 0xFFFF 0xFFFF).qlog 1 ∧
     s.ctx? (BitVec.ofNat 16 (32 * 6 / 32)) = none) ∧
    (let s := ready { State.reset.mailbox with busy := true, bellerr := 4 }
     s.base.ready = true ∧ s.mailbox.busy = true ∧ s.mailbox.bellerr ≠ 0) ∧
    (ready { State.reset.mailbox with busy := true }).mailbox.bellerr = 0 ∧ (0x30 : Nat) = 0x18 + 8 * (3 : Fin 4).val := by
  decide +kernel

/-- A command that is executing, with its arguments. -/
def command (code a0 a1 a2 : W64) (s : State) : State :=
  { s with mailbox := { s.mailbox with busy := true, cur := code, curArgs := #v[a0, a1, a2, 0], pendingResult := none, due := 0 } }

/-- A state that holds one context, and the context when it is not resident. -/
def withCtx (x : Context) : State := { State.reset with contexts := [x] }
def away5 : Context := { ctx5 with resident := none }

theorem test_hyp_complete : let s := { State.reset with mailbox := { State.reset.mailbox with busy := true, pendingResult := some 9 } }
    s.mailbox.busy = true ∧ s.mailbox.pendingResult = some 9 := by decide +kernel
theorem test_hyp_unknown : (command 0 0 0 0 State.reset).curCode = some 0 ∧ (command 15 0 0 0 State.reset).curCode = some 15 := by
  decide +kernel
theorem test_hyp_create :
    (let s := command 1 0 0 0 { State.reset with mem := hostMem record5.toList }
     s.curCode = some 1 ∧ (s.arg 0).toNat % 64 = 0 ∧
     (Vector.ofFn fun i : Fin 16 => s.hostWord ((s.arg 0).toNat + 8 * i.val)) = record5 ∧ recordOk record5 = true ∧
     (Context.init record5 s.cairn.version).secure = false ∧ s.ctx? (Context.init record5 s.cairn.version).id = none) ∧
    (let s := command 1 0 0 0 { withCtx ctx5 with mem := hostMem record5.toList }
     s.ctx? (Context.init record5 s.cairn.version).id ≠ none) ∧
    recordOk (record5.set 1 1) = false := by decide +kernel


theorem test_named (x : Context) (code a1 a2 : W64) (s : State) (h : s.ctx? 5 = some x ∧ x.secure = false) :
    NamedContext (command code 5 a1 a2 s) x :=
  ⟨(by decide : (5 : W64).toNat < 2 ^ 16), h.1, by rw [h.2]; rfl⟩

theorem test_hyp_destroy_away :
    NamedContext (command 2 5 0 0 (withCtx away5)) away5 ∧ away5.resident = none ∧
    (command 2 5 0 0 (withCtx away5)).evictionOf 5 = none ∧ (command 2 5 0 0 (withCtx away5)).curCode = some 2 ∧
    (command 4 5 0 0 (withCtx away5)).curCode = some 4 :=
  ⟨test_named _ _ _ _ _ (by decide +kernel), by decide +kernel⟩
theorem test_hyp_evict :
    NamedContext (command 4 5 0 0 (withCtx ctx5)) ctx5 ∧ ctx5.resident.isSome = true ∧
    (command 4 5 0 0 (withCtx ctx5)).evictionOf 5 = none ∧ (command 4 5 0 0 (withCtx ctx5)).curCode = some 4 :=
  ⟨test_named _ _ _ _ _ (by decide +kernel), by decide +kernel⟩

/-- The eviction of context 5. -/
def evict5 : Eviction := { ctxid := 5, cause := .preempt, faux := 0, destroy := false, preempt := false, commanded := true }

theorem test_hyp_evict_ends : let s := command 4 5 0 0 { withCtx ctx5 with evicting := [evict5] }
    NamedContext s ctx5 ∧ s.evictionOf 5 = some evict5 ∧ evict5.commanded = true ∧ evict5.destroy = false ∧ s.evictReady 5 = true ∧ s.curCode = some 4 :=
  ⟨test_named _ _ _ _ _ (by decide +kernel), by decide +kernel⟩
theorem test_hyp_reside : let s := command 3 5 63 0 (withCtx away5)
    NamedContext s away5 ∧ s.curCode = some 3 ∧ (s.arg 1).toNat < 64 ∧ away5.resident = none ∧
    (∀ c ∈ s.contexts, c.resident ≠ none → c.resident ≠ some ((s.arg 1).setWidth 6) ∧ ∀ r ∈ away5.cores, c.hasCore r = false) ∧
    (∀ r ∈ away5.cores, s.cairn.live[r]? = some true) ∧ s.worldMatches away5 = true ∧ s.base.hot = false ∧ s.saved = none ∧
    away5.stale = false ∧ Memory.wf s.mem = true := by
  refine ⟨test_named _ _ _ _ _ ?_, ?_⟩
  · decide +kernel
  · decide +kernel
theorem test_hyp_setattr : let s := command 5 5 3 (2 ^ 24 * 2 ^ 16) (withCtx ctx5)
    NamedContext s ctx5 ∧ s.curCode = some 5 ∧ 3 = (s.arg 1).toNat ∧ recordOk (ctx5.record.set 3 (s.arg 2)) = true :=
  ⟨test_named _ _ _ _ _ (by decide +kernel), by decide +kernel⟩
theorem test_hyp_guard : let s := command 6 (own 0x170000) 0 0 State.reset
    s.curCode = some 6 ∧ s.regionOf (s.arg 0) = some (.t0 0, 0x170000) ∧ s.prot.secureAt (.t0 0) 0x170000 = false ∧
    (Place.t0 0).region 0x170000 = some 23 := by decide +kernel
theorem test_hyp_freeslot :
    (let s := command 7 7 1023 0 State.reset
     s.curCode = some 7 ∧ (s.arg 0).toNat = (7 : Fin 8).val ∧ (s.arg 1).toNat = (1023 : Fin 1024).val ∧
     (s.ring.slot 7 1023).st ≠ .broken) ∧
    ((State.reset.ring.modSlot 7 1023 fun x => { x with st := .broken }).slot 7 1023).st = .broken := by decide +kernel
theorem test_hyp_resolve : let s := command 8 5 0 0 (withCtx away5)
    NamedContext s away5 ∧ s.curCode = some 8 ∧ (s.arg 1).toNat = away5.gen.toNat ∧ s.framesOf away5 = [] ∧
    ((command 8 5 1 0 (withCtx away5)).arg 1).toNat ≠ away5.gen.toNat :=
  ⟨test_named _ _ _ _ _ (by decide +kernel), by decide +kernel⟩
theorem test_hyp_ackmap : let s := command 9 5 1 0 (withCtx away5)
    NamedContext s away5 ∧ s.curCode = some 9 ∧ away5.resident = none ∧ (s.arg 1).toNat ≤ s.cairn.version.toNat :=
  ⟨test_named _ _ _ _ _ (by decide +kernel), by decide +kernel⟩

/-- A world table of one entry: cores 286 and 287, secure. -/
def worldTable : State := command 10 0 0 0 { State.reset with mem := hostMem [1, 2 ^ 59 + 2, 286] }

theorem test_hyp_worldset :
    worldTable.curCode = some 10 ∧ (worldTable.hostWord (worldTable.arg 0).toNat).toNat = 1 ∧
    (let e := WorldEntry.ofBytes ((worldTable.hostBytes (worldTable.arg 0).toNat 24).drop 8)
     worldTable.worldEntryOk e = true ∧ worldTable.worldBusy e = false ∧ e.res = 0 ∧ e.secure = true ∧ e.count = 2) := by
  decide +kernel
theorem test_hyp_attest :
    (command 11 0 0 1 State.reset).curCode = some 11 ∧ (command 11 0 0 1 State.reset).arg 2 = 1 ∧
    (command 11 0 0 0 State.reset).arg 2 = 0 ∧ (command 11 0 0 0 State.reset).base.nextLeaf < 2 ^ 20 ∧
    2 ^ 20 ≤ (command 11 0 0 0 { State.reset with base := { State.reset.base with nextLeaf := 2 ^ 20 } }).base.nextLeaf ∧
    Memory.wf State.reset.mem = true := by decide +kernel

/-- A pre-emption whose period is over, begun or not. -/
def preempting (f : Bool) : State :=
  command 12 0 0 0 { withCtx ctx5 with
    preemptAt := some 0, freezing := f
    saved := some { area := 0, ring := State.reset.ring.slots, phase := 0, engines := State.reset.engines, fresh := true,
                    ringLost := false } }

theorem test_hyp_preempt :
    (command 12 0 0 0 State.reset).curCode = some 12 ∧ (command 12 0 0 0 State.reset).preemptAt = none ∧
    (preempting false).preemptAt = some 0 ∧ (0 : W64).toNat ≤ (preempting false).tick.toNat ∧ (preempting false).freezing = false ∧
    (preempting true).curCode = some 12 ∧ (preempting true).preemptAt = some 0 ∧ (preempting true).freezing = true ∧
    (preempting true).evicting = [] ∧ (preempting true).saved.isSome = true ∧ Memory.wf (preempting true).mem = true ∧
    (preempting true).cairn.saveArea = some 0xBC00000000 ∧ 0xBC00000000 + 0x300000000 ≤ 2 ^ 40 := by decide +kernel
theorem test_hyp_dbgreq :
    ∀ x ∈ [ctx5, { ctx5 with record := ctx5.record.set 0 (5 * 2 ^ 48 + 256) }],
      let s := command 13 0 0 0 { withCtx x with cores := State.reset.cores.set 0 { State.reset.core 0 with ctx := some 5 } }
      s.curCode = some 13 ∧ (s.arg 0).toNat = (0 : Fin 288).val ∧ (s.core 0).ctx = some x.id ∧ s.ctx? x.id = some x ∧
      x.secure = false ∧ x.debugBit = decide (x ≠ ctx5) := by decide +kernel
theorem test_hyp_ownerkey :
    (let s := command 14 0 0 0 { State.reset with mem := hostMem [1] }
     s.curCode = some 14 ∧ s.base.ownerKey = none ∧ wordAt (s.hostBytes 0 2612) 0 = 1 ∧
     ((s.hostBytes 0 2612).drop 16).take 32 = List.replicate 32 0) ∧
    wordAt ((command 14 0 0 0 State.reset).hostBytes 0 2612) 0 ≠ 1 := by decide +kernel

/-! ## Jobs and records -/

theorem test_hyp_card :
    (let s := with5 [] { State.reset with contexts := [queue1 0 1] }
     let t : State := { s with contexts := [queue1 0 1] }
     t.ctx? 5 = some (queue1 0 1) ∧ t.cardReady (queue1 0 1) 1 = true ∧ ((queue1 0 1).qbase 1).toNat / 2 ^ 59 = 1 ∧
     (t.translateSpan none (queue1 0 1) 0 64 false).toOption.isSome = true) ∧
    (let t := withCtx (queue1 0 1)
     t.translateSpan none (queue1 0 1) 0 64 false = .error (1, false, 0)) := by decide +kernel

/-- Chapter 6's job: 100 records over the core of context 5, none dealt. -/
def job100 : Job :=
  { id := 8, ctxid := 5, queue := 1, index := 0, card := #v[0x0000004000000064, 0, 2 ^ 60, 0x0000000400000600, 2 ^ 59, 0, 0, 0]
    template := Vector.replicate 8 0, gang := false, dealt := 0, chunks := 0, open_ := [], redeal := [], freeSince := [(0, 0)],
    failed := none, missed := none, refused := none, gangid := 0, startTick := none, endTick := none, noRecord := none }

/-- The job with the free core 0 of context 5. -/
def dealing (j : Job) : State :=
  { withCtx ctx5 with jobs := [j], cores := State.reset.cores.set 0 { State.reset.core 0 with ctx := some 5 } }

theorem test_hyp_chunk : let s := dealing job100
    s.job? 8 = some job100 ∧ job100.gang = false ∧ job100.refused = none ∧ job100.redeal = [] ∧ job100.dealt < job100.n ∧
    s.chunkReady job100 = true ∧ s.chunkCore job100 = some (0 : Fin 288).val ∧ State.freeTaskSlot (s.core 0) = some 0 ∧
    s.descOk 0 (s.core 0) (State.listDesc (State.jobDesc job100 (State.jobArgs job100 0 0) job100.template[7])) = true := by
  decide +kernel

/-- R28: with four cores the first chunk of 100 records has ceil(100 / 8) = 13; with one core, 50. -/
theorem test_first_chunk_of_one_core : min (100 - 0) (max job100.minchunk ((100 - 0 + 2 * 1 - 1) / (2 * 1))) = 50 ∧
    min (100 - 0) (max job100.minchunk ((100 - 0 + 2 * 4 - 1) / (2 * 4))) = 13 := by decide +kernel
theorem test_hyp_gang_place :
    (let j := { job100 with gang := true }
     (dealing j).job? 8 = some j ∧ (dealing j).gangReady j = true ∧ j.dealt = 0) ∧
    (let j := { job100 with gang := true, dealt := 1 }
     (dealing j).job? 8 = some j ∧ (dealing j).gangReady j = true ∧ j.dealt ≠ 0) := by decide +kernel
theorem test_hyp_completion : let j := { job100 with dealt := 100 }
    let s := with5 [] { dealing j with jobs := [j] }
    s.job? 8 = some j ∧ s.completionReady j = true ∧ s.ctx? j.ctxid = some ctx5 ∧ globalAligned j.compl 32 = true ∧
    (s.translateSpan none ctx5 (j.compl.toNat % 2 ^ 50) 32 true).toOption.isSome = true ∧ j.irq = false ∧
    j.noRecord = none ∧ ctx5.resident = some 0 := by
  decide +kernel
/-- One whose COMPL failed its card's test, and one whose COMPL does not translate. -/
theorem test_hyp_completion_faulty :
    (let j := { job100 with dealt := 100, noRecord := some 1 }
     let s := with5 [] { dealing j with jobs := [j] }
     s.job? 8 = some j ∧ s.completionReady j = true ∧ s.ctx? j.ctxid = some ctx5 ∧ globalAligned j.compl 32 = true) ∧
    (let j := { job100 with dealt := 100 }
     (dealing j).job? 8 = some j ∧ (dealing j).completionReady j = true ∧ (dealing j).ctx? j.ctxid = some ctx5 ∧
     (dealing j).translateSpan none ctx5 (j.compl.toNat % 2 ^ 50) 32 true = .error (1, false, 0)) := by decide +kernel
theorem test_hyp_record :
    let x := { ctx5 with waiting := [FaultRec.zero] }
    let s := { with5 [] State.reset with contexts := [x] }
    s.ctx? 5 = some x ∧ x.waiting = [FaultRec.zero] ∧ s.recordTurn 5 = .write := by decide +kernel

/-- A context that has not acknowledged version 1, past its deadline of 10 ms. -/
def late5 (res : Option (BitVec 6)) : Context := { ctx5 with resident := res, clocks := [(2, some 0)] }

theorem test_hyp_deadline :
    ∀ res ∈ [some (0 : BitVec 6), none],
      let s := { withCtx (late5 res) with tick := 1000000 }
      s.ctx? 5 = some (late5 res) ∧ (late5 res).id = 5 ∧ s.evictionOf 5 = none ∧ s.deadlinePassed (late5 res) = true := by
  decide +kernel

/-! ## The cairn, the fleet, time and power -/

theorem test_hyp_degradations : let s := State.reset
    s.cairn.version ≠ 0xFFFFFFFF ∧ (s.cairn.layers[(15 : Fin 16)]).state ≠ 2 ∧
    ((s.cairn.layers[(15 : Fin 16)]).gspare[(63 : Fin 64)]).toNat < 2 ∧
    (s.cairn.layers[(15 : Fin 16)]).lgroup.getLsbD 511 = false ∧ (s.core 287).live = true ∧ s.cairn.stationLost[(287 : Fin 288)] = false ∧
    s.cairn.chan.getLsbD 47 = true ∧ s.cairn.port.getLsbD 15 = true := by decide +kernel
theorem test_hyp_layer_lost :
    2 ≤ (({ State.reset.cairn.layers[(0 : Fin 16)] with gspare := Vector.replicate 64 2 } : Layer).gspare[(5 : Fin 64)]).toNat ∧
    ({ State.reset.cairn.layers[(0 : Fin 16)] with gspare := Vector.replicate 64 2 } : Layer).state ≠ 2 := by decide +kernel
theorem test_hyp_ring_reform :
    positionsOk (Vector.ofFn fun r => BitVec.ofNat 10 (r.val + 1)) (Vector.replicate 288 false) = true := by
  simp only [positionsOk, List.all_eq_true, List.mem_finRange, forall_const, Bool.and_eq_true, Bool.or_eq_true, bne_iff_ne,
    ne_eq, Fin.getElem_fin, Vector.getElem_ofFn, Bool.not_eq_true', decide_eq_false_iff_not, BitVec.ult, decide_eq_true_eq,
    BitVec.toNat_ofNat, BitVec.toNat_eq]
  refine fun a => ⟨by simp; omega, fun b => ?_⟩
  omega
theorem test_hyp_recovery :
    let s := State.reset.modCore 9 fun c => { c with recoverBy := some 0 }
    (s.core 9).recoverBy = some 0 ∧ 0 ≤ s.now ∧ (s.core 9).tasks.run = none := by decide +kernel
/-- A task that waits for its aligned start, fresh or to start again, of version 0 where the newest is 1. -/
theorem test_hyp_recovery_before_start : ∀ m ∈ [StartMode.fresh, .restart],
    let run := { waiting0 with mode := m }
    let s := (one .c (withTask 0 fun t => { t with st := .running, mode := m })).modCore 0 fun c =>
      { c with recoverBy := some 0, tasks := { c.tasks with run := some run } }
    (s.core 0).recoverBy = some 0 ∧ 0 ≤ s.now ∧ State.committed (s.core 0) = some run ∧
    descVersion (fun i => (run.desc[i]?).getD 0) ≠ s.cairn.version ∧ descGang (fun i => (run.desc[i]?).getD 0) = false ∧
    State.notStarted (s.core 0) = true := by decide +kernel

/-- A request of the management port. -/
def request (op : Byte) (len : Nat) (body : List Byte) : Datagram :=
  { source := 0, seq := 1, magic := 0x9140, op := op, status := 0, len := len, resv := 0, body := body }

theorem test_hyp_requests :
    NewRequest State.reset (request 1 0 []) 1 ∧ NewRequest State.reset (request 2 4 [0xFF, 0x0F, 1, 0]) 2 ∧
    routeSpan (request 2 4 [0xFF, 0x0F, 1, 0]).body = some (4095, 1) ∧
    NewRequest State.reset (request 0x11 8 (leBytes 8 4095)) 0x11 ∧ leValue (request 0x11 8 (leBytes 8 4095)).body < 4096 ∧
    NewRequest State.reset (request 0x12 8 [0, 0, 1, 0, 15, 0xFF, 0, 1]) 0x12 ∧
    routeSpan (request 0x12 8 [0, 0, 1, 0, 15, 0xFF, 0, 1]).body = some (0, 1) ∧
    ((request 0x12 8 [0, 0, 1, 0, 15, 0xFF, 0, 1]).body.drop 4).all portByteOk = true ∧
    NewRequest State.reset (request 0x20 2540 (List.replicate 2540 0)) 0x20 ∧ NewRequest State.reset (request 0x21 0 []) 0x21 ∧
    State.requestOk (request 0x21 1 [0]) = false ∧ State.reset.mgmt.lastSource ≠ some (0, 1) := by
  simp only [NewRequest]
  decide +kernel

/-- A flit for package 0, or another. -/
def flit (dest : BitVec 12) : Flit :=
  { dest := dest, src := 1, kind := .write, ctxid := 5, world := false, off := 0, bytes := [1, 2] }

theorem test_hyp_flits :
    (let s := with5 [] State.reset
     s.cairn.port.getLsbD (15 : Fin 16).val = true ∧ (flit s.mgmt.number).dest = s.mgmt.number ∧ s.ctx? 5 = some ctx5 ∧
     ctx5.secure = (flit 0).world ∧ (s.translateSpan none ctx5 0 2 true).toOption.isSome = true) ∧
    ((withCtx ctx5).translateSpan none ctx5 0 2 true).toOption.isSome = false ∧
    (flit 1).dest ≠ (remoting 0xFFFFFF00).mgmt.number ∧ (remoting 0xFFFFFF00).routePort (flit 1).dest.toNat = some 0 ∧
    ({ State.reset.cairn with port := 0 } : Cairn).port.getLsbD 15 = false ∧
    State.reset.scree.portLanes[(15 : Fin 16)] < 4 := by decide +kernel
theorem test_hyp_time :
    (let s := { (State.reset.modCore 0 fun c => { c with tasks := { c.tasks with reserved := some 1 } }) with tick := 1, tickDue := 0 }
     s.tickDue ≤ s.now ∧ (s.core 0).tasks.reserved = some 1 ∧ 1 < (s.tick + 1).toNat ∧ -5000 ≤ s.ptp.slew.toInt ∧
     s.ptp.slew.toInt ≤ 5000 ∧ s.tickAcc ≤ 100005000) ∧
    ((one .c (withTask 2 fun t => { t with missed := true })).slotOf 0 2).missed = true ∧
    (0 : Int) ≤ 0 ∧ (-800 : Int) ≤ -800 ∧ State.reset.preemptAt = none := by decide +kernel

/-! ## Printed words (chapters 10 to 14): one of each family and its neighbours -/

theorem test_decode_c :
    decodeWord .c 0x0000840000000001 = .ok (.addi 4 0 1) ∧ decodeWord .c 0x0002830000000000 = .ok (.li 3 0) ∧
    decodeWord .c 0x00074024B0000000 = .ok (.swr 9 11) ∧ decodeWord .c 0x0005000000000000 = .ok .rft ∧
    decodeWord .c 0x0007800000000000 = .ok .mapack ∧ decodeWord .c 0x00046A0000002000 = .ok (.xbr .eq 42 0 0x2000) := by
  decide +kernel
theorem test_decode_v :
    decodeWord .v 0x001300A009FE0012 = .ok (.vli 5 0xFF00 0 .f32) ∧ decodeWord .v 0x035300A009F80012 = .ok (.vli 5 0xFC00 0 .f32) ∧
    decodeWord .v 0x00D7C017D8010000 = .ok (.vkat 381 128) ∧
    decodeWord .v 0x0011800200183CDC = .ok (.vfshr ⟨0, 32, 3, 15, 3, .n32, .rn⟩) ∧
    decodeWord .v 0x00D7900005152000 = .ok (.kbytes 4 20 21) := by decide +kernel
/-- R123, R141: a register code beyond its file decodes; it fails test 6 at issue. -/
theorem test_decode_register_beyond_file :
    decodeWord .v 0x0190720020100060 = .ok (.vadd ⟨400, 2, .vec 2, 0, .i32, .rn, false⟩) := by decide +kernel
theorem test_decode_x :
    decodeWord .x 0x00A04010C0000000 = .ok (.mma 0 (.t0 2) 3 false) ∧ decodeWord .x 0x0160402140000001 = .ok (.mma 0 (.t0 4) 5 true) ∧
    decodeWord .x 0x03E1403000000002 = .ok (.acst 0 6 true) ∧ decodeWord .x 0x03E2800001002960 = .ok (.acflip 0 5 11 8) ∧
    decodeWord .x 0x06E2440003800000 = .ok (.acset 1 28 0 0) := by decide +kernel
theorem test_decode_m :
    decodeWord .m 0x03B0806000000800 = .ok (.tst 3 0 0 0x800) ∧ decodeWord .m 0x00320124000083C0 = .ok (.land 9 4 2 60 0) ∧
    decodeWord .m 0x0133071802000000 = .ok (.copy 7 3 (.imm 16)) ∧ decodeWord .m 0x0034E00000000000 = .ok (.fence .package .acquire) ∧
    decodeWord .m 0x0034E40000000000 = .ok (.fence .package .release) ∧
    decodeWord .m 0x0034E80000000000 = .ok (.fence .package .sc) := by decide +kernel
theorem test_decode_captures :
    decodeWord .m 0x00368C502401401E = .ok (.qadd ⟨12, 2, .key 9, 0, 5, 0, 30⟩) ∧ decodeWord .m 0x0038800000000000 = .ok .qfence ∧
    decodeWord .m 0x07B8186001500006 = .ok (.qbrd 24 3 21 0 0 6) ∧ decodeWord .m 0x0038597058400403 = .ok (.qalt 25 3 (.key 22) 4 1027) := by
  decide +kernel
/-- R136, R141: a word of another class; an opcode that the class does not assign; a nonzero reserved field. -/
theorem test_decode_refuses :
    decodeWord .v 0x0030404000000000 = .error .wrongStream ∧ decodeWord .c 0x000FFFFFFFFFFFFF = .error .illop ∧
    decodeWord .c 0x0000430C40000001 = .error .illop := by decide +kernel
/-- R136: IDLE is the top ten bits. -/
theorem test_idle_field : wordIdle 0x0504800000000000 = 20 ∧ wordIdle 0x0190406020100060 = 6 := by decide +kernel

/-! ## Ill-formed terms: one or more for each limit of tests 2 to 4 (R141) -/

/-- `vd` to `sat` of a binary row. -/
def bin (ty : EType) (rm : RMode) (sat : Bool) : VBin := ⟨1, 2, .vec 3, 0, ty, rm, sat⟩
/-- A unary row. -/
def un (ty : EType) (rm : RMode) (sat : Bool) : VUn := ⟨1, 2, 0, ty, rm, sat⟩
/-- A three-source row. -/
def tri (ty : EType) (rm : RMode) : VTri := ⟨1, 2, 3, 4, 0, ty, rm⟩
/-- A two-source row. -/
def duo (ty : EType) (rm : RMode) (half : Bool) : VDuo := ⟨1, 2, 3, 0, ty, rm, half⟩
/-- A payload capture. -/
def cap (sd sa sb : BitVec 6) : QArgs := ⟨sd, 2, .index 7, sa, sb, 0, 30⟩

theorem test_illformed_targets :
    (Instr.loop .c 0 (.imm 3) 65280).wf = false ∧ (Instr.loop .c 0 (.imm 3) 65279).wf = true ∧
    (Instr.loop .x 0 (.reg 1) 3).wf = false ∧ (Instr.loop .v 0 (.reg 1) 3).wf = true ∧
    (Instr.br .eq 1 2 65280).wf = false ∧ (Instr.br .always 1 0 3).wf = false ∧ (Instr.br .always 0 0 3).wf = true ∧
    (Instr.xbr .eq 1 2 8).wf = false ∧ (Instr.xbr .always 0 1 16).wf = false ∧ (Instr.xbr .eq 1 2 16).wf = true := by decide
theorem test_illformed_shifts_and_fields :
    (Instr.shli 1 2 64).wf = false ∧ (Instr.shri 1 2 64).wf = false ∧ (Instr.srai 1 2 64).wf = false ∧ (Instr.srai 1 2 63).wf = true ∧
    (Instr.bext 1 2 3 0).wf = false ∧ (Instr.bext 1 2 63 2).wf = false ∧ (Instr.bext 1 2 63 1).wf = true ∧
    (Instr.bins 1 2 3 0 65).wf = false ∧ (Instr.bins 1 2 3 0 64).wf = true := by decide
theorem test_illformed_arithmetic :
    (Instr.vadd (bin .i32 .rz false)).wf = false ∧ (Instr.vadd (bin .f32 .rz false)).wf = true ∧
    (Instr.vsub (bin .f32 .rn true)).wf = false ∧ (Instr.vmul (bin .e4m3 .rn false)).wf = false ∧
    (Instr.vmulh (bin .f32 .rn false)).wf = false ∧ (Instr.vmin (bin .i32 .rn true)).wf = false ∧
    (Instr.vmax (bin .f32 .ru false)).wf = false ∧ (Instr.vabs (un .f32 .rn true)).wf = false ∧
    (Instr.vabs (un .i32 .rn true)).wf = true ∧ (Instr.vand (bin .f16 .rn false)).wf = false ∧
    (Instr.vrol (bin .i8 .rn true)).wf = false ∧ (Instr.vclz (un .bf16 .rn false)).wf = false ∧
    (Instr.vdiv (bin .i32 .rn false)).wf = false ∧ (Instr.vsqrt (un .n8 .rn false)).wf = false ∧
    (Instr.vlog2 (un .f32 .rn true)).wf = false := by decide
theorem test_illformed_three_sources :
    (Instr.vfma (tri .i32 .rn)).wf = false ∧ (Instr.vcmac (tri .n16 .rn)).wf = false ∧ (Instr.vfshl (tri .f32 .rn)).wf = false ∧
    (Instr.vfshr (tri .n32 .ru)).wf = false ∧ (Instr.vsel (duo .i8 .rn true)).wf = false ∧ (Instr.vsel (duo .e5m2 .rn false)).wf = false ∧
    (Instr.vperm (tri .i8 .rz)).wf = false ∧ (Instr.vzip (duo .i8 .rz true)).wf = false ∧ (Instr.vtrn (duo .log6 .rn false)).wf = false ∧
    (Instr.vcmul (duo .f32 .rn true)).wf = false ∧ (Instr.vcmul (duo .i32 .rn false)).wf = false := by decide
theorem test_illformed_compare_and_convert :
    (Instr.vcmp 1 2 (.vec 3) 0 .i32 .unord).wf = false ∧ (Instr.vcmp 1 2 (.vec 3) 0 .f32 .unord).wf = true ∧
    (Instr.vcmp 1 2 (.vec 3) 0 .e2m1 .eq).wf = false ∧ (Instr.vcvt 1 2 0 .f32 .rz .i32 false).wf = true ∧
    (Instr.vqmx 1 1 2 0 .rn .e4m3).wf = false ∧ (Instr.vdqmx 1 2 3 0 .i32 .rn .e4m3).wf = false := by decide
theorem test_illformed_convert_integer_rounding : (Instr.vcvt 1 2 0 .i32 .ru .f32 false).wf = false := by decide
theorem test_illformed_moves :
    (Instr.vli 1 65536 0 .f16).wf = false ∧ (Instr.vli 1 65536 0 .f32).wf = true ∧ (Instr.vli 1 0 0 .e4m3).wf = false ∧
    (Instr.vbcast 1 (.imm 65536) 0 .bf16).wf = false ∧ (Instr.vbcast 1 (.reg 2) 0 .bf16).wf = true ∧
    (Instr.vext 1 2 (.imm 512) .i32).wf = false ∧ (Instr.vext 1 2 (.imm 511) .i32).wf = true ∧
    (Instr.vins 1 2 (.imm 2048) .i8).wf = false ∧ (Instr.vidx 1 (.imm 0) 0 .f32).wf = false ∧
    (Instr.vrot 1 2 (.imm 1) 0 .e2m1).wf = false ∧ (Instr.vcomp 1 2 0 .log6).wf = false := by decide
theorem test_illformed_reductions :
    (Instr.vred 1 2 0 .f32 .rn .xor 0).wf = false ∧ (Instr.vred 1 2 0 .i32 .rn .xor 0).wf = true ∧
    (Instr.vscan 1 2 0 .i32 .rn .and 0).wf = false ∧ (Instr.vred 1 2 0 .i32 .rz .add 0).wf = false ∧
    (Instr.vred 1 2 0 .f32 .rz .min 0).wf = false ∧ (Instr.vred 1 2 0 .i64 .rn .add 9).wf = false ∧
    (Instr.vred 1 2 0 .i64 .rn .add 8).wf = true := by decide
theorem test_illformed_matrix_and_movement :
    (Instr.acrd 1 2 57).wf = false ∧ (Instr.acrd 1 2 56).wf = true ∧ (Instr.acflip 1 2 3 40).wf = false ∧
    (Instr.copy 1 2 (.imm 96)).wf = false ∧ (Instr.copy 1 2 (.imm 95)).wf = true ∧ (Instr.cstat 1 2 (.imm 96)).wf = false ∧
    (Instr.atom 1 2 3 4 .add false 30).wf = false ∧ (Instr.atom 1 2 3 4 .cas false 30).wf = true ∧
    (Instr.red 1 2 .xchg false).wf = false ∧ (Instr.red 1 2 .cas false).wf = false := by decide
theorem test_illformed_captures :
    (Instr.qrd (cap 1 2 0)).wf = false ∧ (Instr.qrd (cap 1 0 3)).wf = false ∧ (Instr.qwr (cap 1 0 3)).wf = false ∧
    (Instr.qwr (cap 0 0 3)).wf = true ∧ (Instr.qadd (cap 1 2 3)).wf = false ∧ (Instr.qcas (cap 1 2 3)).wf = true := by decide

/-! ## One step -/

/-- The add word of chapter 14, stored where the fetch reads. -/
def addWord : State := State.reset.withFetchWord 64 0x0000430C40000000

/-- The outcome is a next state. -/
def isNext (o : Out) : Bool := match o with | .next _ => true | _ => false
theorem next_of_isNext {o : Out} (h : isNext o = true) : ∃ t, o = .next t := by
  cases o with
  | next t => exact ⟨t, rfl⟩
  | fault => exact Bool.noConfusion h
  | refused => exact Bool.noConfusion h

theorem test_step_add : lastLatch (step addWord) = some (1, .scal 3 0) := by decide +kernel
/-- Reset steps; without power, and with no power-on reset to come, only time passes (R402). -/
theorem test_step_without_power :
    isNext (step State.reset) = true ∧
    (let s : State := { State.reset with base := { State.reset.base with alive := false, powered := false } }
     s.base.alive = false ∧ s.dueInput = none ∧ isNext (step s) = true) := by decide +kernel

/-! ## Witnesses of the last statements -/

theorem test_hyp_step :
    addWord.base.alive = true ∧ addWord.phase = .words ∧ addWord.nextHold = none ∧ addWord.nextWord = some (0, .c) ∧
    decodeWord .c (addWord.streamWord 0 .c (((addWord.core 0).section_ .c) + ((addWord.core 0).stream .c).off)) =
      .ok (.add 3 3 4) ∧
    ((addWord.core 0).section_ .c) + ((addWord.core 0).stream .c).off + 8 ≤ 0x17F800 ∧
    (addWord.core 0).buffered .c (((addWord.core 0).section_ .c) + ((addWord.core 0).stream .c).off) = none := by decide +kernel
theorem test_hyp_step_unassigned :
    (State.reset.withFetchWord 64 0x000FFFFFFFFFFFFF).nextWord = some (0, .c) := by decide +kernel
theorem test_hyp_word_frame :
    (∃ t, exec (.add 1 2 3) (one .c id) = .next t) ∧ Instr.stream? (.add 1 2 3) = some .c ∧
    (∃ t, exec .tend (one .c id) = .next t) := ⟨next_of_isNext (by decide +kernel), rfl, next_of_isNext (by decide +kernel)⟩
theorem test_hyp_encoding :
    (Instr.add 3 3 4).wf = true ∧ Instr.stream? (.add 3 3 4) = some .c ∧ (Instr.vfma (tri .f32 .rz)).wf = true := by decide
theorem test_hyp_invariant : Inv addWord ∧ ∃ t, step addWord = .next t := by
  exact ⟨⟨by decide +kernel⟩, next_of_isNext (by decide +kernel)⟩

/-- A latch of stream `st` due at cycle 5. -/
def due (st : Stream) (k : LatchKind) : Latch :=
  { strm := st, pc := 0, word := 0, issue := 1, base := 5, parts := 1, flags := 0, guards := [], kind := k }
/-- A state whose core 0 holds those latches. -/
def latched (ls : List Latch) : State :=
  State.reset.modCore 0 fun c => { c with pipe := { c.pipe with latches := ls } }

theorem test_hyp_results :
    cycleWrites ((latched [due .c (.scal 3 7), due .c (.addr 4 8)]).core 0).pipe.latches 5 =
      [(.c, 1, .scal 3 7), (.c, 1, .addr 4 8)] ∧
    cycleWrites ((latched [due .c (.scal 0 7)]).core 0).pipe.latches 5 = [(.c, 1, .scal 0 7)] ∧
    cycleWrites ((latched [due .c (.scal 3 7), due .m (.scal 3 9)]).core 0).pipe.latches 5 =
      [(.c, 1, .scal 3 7), (.m, 1, .scal 3 9)] := by decide +kernel
theorem test_results_write_and_collide :
    (((latched [due .c (.scal 3 7), due .c (.addr 4 8)]).core 0).regWrites 5).readS 3 = 7 ∧
    (((latched [due .c (.scal 0 7)]).core 0).regWrites 5).readS 0 = 0 ∧
    (((latched [due .c (.scal 3 7), due .m (.scal 3 9)]).core 0).regWrites 5).pipe.traps.map (fun t => t.cause) ≠ [] := by
  decide +kernel
/-- Reset with one store in flight on core 0. -/
def storing : State := latched [due .m (.store 64 [(9, true), (8, false)] false)]

theorem test_hyp_stores :
    (∀ k, (due .x k).guards = []) ∧ Memory.wf storing.mem = true ∧
    (∀ k, ((latched [due .x k]).core 0).pipe.latches = [] ++ due .x k :: []) := by
  refine ⟨fun _ => rfl, by decide +kernel, fun k => ?_⟩
  rw [latched, State.core_modCore_same]
  rfl
theorem test_store_writes_enabled_bytes :
    let t := storing.storeWrites 0 5
    memRead t.mem ((Place.t0 0).key 64) = 9 ∧ memRead t.mem ((Place.t0 0).key 65) = 0 := by decide +kernel

/-! ## Further witnesses: products, terrace words, gangs, reruns -/

theorem test_hyp_product_values :
    let l : Latch := { due .x (.xword 5 [own 0, own 0] 0 [] [] [] [] (Vector.replicate 4096 0)) with word := 0x00A04010C0000000 }
    l.instr = product false 0 (.t0 2) 3 false ∧ parseFormat 0 (fromSlot (.t0 2)) false = some f32Word := by decide +kernel

/-- LOG6 by LOG6 with a scale array of A at 0x3F_FFC0, beyond the terrace. -/
def scaledWord : W64 := 0x8820FFFF00000000
def scaledFormat : FormatWord :=
  { a := .log6, b := .log6, rm := .rn, asc := true, bsc := false, ascl := 0x3FFFC0, bscl := 0, dsat := false }

theorem test_hyp_product_spans_out :
    (let s := one .x fun c => { c with regs := { c.regs with fq := [0] } }
     s.me.regs.fq = [0] ∧ productSpans s f32Word (.t0 1) 1 = [] ++ (A s 1, 12288) :: [(A s 1, 12288)] ∧ ownOut s (A s 1) 12288) ∧
    (let s := one .x fun c => { withTile false true c with regs := { (withTile false true c).regs with fq := [scaledWord] } }
     s.me.regs.fq = [scaledWord] ∧ parseFormat scaledWord (fromSlot (.t0 1)) false = some scaledFormat ∧
     productSpans s scaledFormat (.t0 1) 1 =
       [(A s 1, 12288), (A s 1, 12288)] ++ (t0Ptr s.focus.rank 0x3FFFC0, 512) :: [] ∧
     ¬ ownOut s (A s 1) 12288 ∧ ownOut s (t0Ptr s.focus.rank 0x3FFFC0) 512) := by
  simp only [ownOut]
  decide +kernel
theorem test_hyp_product_spans_closed :
    let s := secure0 (one .x fun c => (withTile false true c).putA 1 (own 0))
    productSpans s f32Word (.t0 1) 1 = [] ++ (A s 1, 12288) :: [(A s 1, 12288)] ∧ ¬ ownOut s (A s 1) 12288 ∧
    ownShut s (A s 1) 12288 := by
  simp only [ownOut, ownShut]
  decide +kernel

theorem test_hyp_terrace_words_outside :
    (∀ p ∈ [(1, 2048), (0x7F9, 8), (0x701, 256)], outside (one .m (withA (own 0x17F000))) (own 0x17F000) p.1 p.2) ∧
    (∀ p ∈ [(0, 2048), (-1, 8)], outside (one .m id) 0 p.1 p.2) ∧
    (∀ n ∈ [2048, 8, 256], let s := secure0 (one .m (withA (own 0)))
      ¬ outside s (own 0) 0 n ∧ s.me.secure = false ∧ s.prot.secureSpan (.t0 s.focus.rank) (effOff (own 0) 0).toNat n = true) := by
  simp only [outside]
  decide +kernel

/-- A second member of the tick behind the first, which has been tested and missed. -/
theorem test_hyp_gang_second_member :
    let s := { one .c (fun c => withTask 3 (fun t => { t with st := .waiting }) (withTask 2 (fun t =>
        { t with st := .waiting, tested := true, missed := true }) c)) with
      mem := memWriteN (slotMem 2 (gang5 0)) ((Place.t0 0).key (0x17F800 + 64 * 3)) ((gang5 0).flatMap fun (w : W64) => leBytes 8 w.toNat)
      contexts := [ctx5] }
    s.gangDue 0 3 = true ∧ (2 : Fin 32) < 3 ∧ s.memberNow 0 2 = true ∧ s.gangDue 0 2 = false := by decide +kernel

theorem test_hyp_task_end_releases : ∀ l ∈ [due .x (.release 5)], ∃ t, l.kind = .release t := by simp [due]
theorem test_hyp_timer_boundary :
    let s := one .c fun c => { running (desc2 0 0) c with sp := { c.sp with cyc := 9, tmcmp := 9 } }
    (s.slotOf 0 (s.core 0).slot).settledAt ≠ some (s.core 0).sp.cyc := by decide +kernel

/-- Context 5 with 256 records waiting: no more have room. -/
def full5 : Context := { ctx5 with waiting := List.replicate 256 FaultRec.zero }
theorem test_hyp_rerun_waits :
    let s := { one .c (running (desc2 1024 0)) with contexts := [full5] }
    (s.core 0).pending.rerun = false ∧ (s.core 0).stop = none ∧ (s.slotOf 0 0).reruns < 2 ∧
    s.ctx? (s.core 0).ctxid = some full5 ∧ full5.full = true := by decide +kernel

/-! ## Further witnesses: ports, banks and engines -/

/-- A landing from layer T1, which needs no bank, and one of rank 1's terrace 0, whose line has been served or not. -/
def foreignRead : Access := { someAccess with kind := .read 0 8, ptr := 2 ^ 60 + 2 ^ 50, ask := some 9 }
def foreignLanding (ls : List (Nat × Nat)) : State :=
  serving ls { (one .m fun c => { running (desc2 0 0) c with mem := { c.mem with port := [foreignRead] } }) with
    contexts := [ctx5], cores := (one .m fun c => { running (desc2 0 0) c with mem := { c.mem with port := [foreignRead] } }).cores.set 1
      { State.reset.core 1 with ctx := some 5 } }

theorem test_hyp_port_lines :
    (porting (.read 0 2048) layer0).foreignLines 0 { someAccess with kind := .read 0 2048, ptr := layer0 } = [] ∧
    PortTurn (foreignLanding [(1, 0)]) 0 3 0 foreignRead ∧ At (foreignLanding [(1, 0)]) foreignRead.ptr (.t0 1) 0 ∧
    (foreignLanding [(1, 0)]).foreignT0 foreignRead.ctxid foreignRead.ptr = false ∧
    (foreignLanding [(1, 0)]).foreignLines 0 foreignRead = [(1, 0)] ∧
    Served (foreignLanding [(1, 0)]) foreignRead.ask [(1, 0)] ∧
    PortTurn (foreignLanding []) 0 3 0 foreignRead ∧
    ¬ Served (foreignLanding []) foreignRead.ask ((foreignLanding []).foreignLines 0 foreignRead) := by
  simp only [PortTurn, Served, At]
  decide +kernel
theorem test_hyp_port_global :
    (let s := { porting (.read 0 2048) (2 ^ 59) with contexts := [ctx5], mem := lpddrWords tables5 }
     PortTurn s 0 3 0 { someAccess with kind := .read 0 2048, ptr := 2 ^ 59 } ∧
     (s.translateSpan (some (mapUnit 0)) ctx5 0 2048 false).toOption.isSome = true) ∧
    (let s := { porting (.stamp 9) (2 ^ 59) with contexts := [ctx5], mem := lpddrWords tables5 }
     PortTurn s 0 3 0 { someAccess with kind := .stamp 9, ptr := 2 ^ 59 } ∧ portPayload (.stamp 9) = some (leBytes 8 9) ∧
     s.translateSpan (some (mapUnit 0)) ctx5 0 8 true = .ok [(.lpddr, 0, 8, ⟨2 ^ 63 + 2 ^ 62 + 2 ^ 61, 2⟩)]) := by
  simp only [PortTurn]
  decide +kernel
theorem test_hyp_addition_order : let s := adding 0 (one .c (running (desc2 0 0)))
    ∀ y ∈ s.adds.takeWhile (fun x => x.id != 4), y.chain = none ∨ y.chain ≠ (addition 0).chain := by decide +kernel
theorem test_hyp_signal_memory : (signalEntry (2 ^ 59) layer0).MemOk := by
  simp only [State.MemOk]
  decide +kernel

/-- A pointer that leads to a place of the device. -/
def isPlace (p : W64) : Bool := match targetOf p with | .place _ _ => true | _ => false
theorem place_of_isPlace {p : W64} (h : isPlace p = true) : ∃ pl off, targetOf p = .place pl off := by
  unfold isPlace at h
  split at h
  · exact ⟨_, _, ‹_›⟩
  · cases h
theorem test_pieces (s : State) (e : Fin 96) (ch : Chain) (ps : List Piece)
    (h : (ps ≠ [] ∧ s.piecesFault e ch ps = none ∧ s.sourcesWalk e ch ps = none ∧ s.sourcesLost ps = none) ∧
      ∀ p ∈ ps, (p.src.all fun q => isPlace q.1) = true) : PiecesOk s e ch ps :=
  ⟨h.1.1, h.1.2.1, h.1.2.2.1, h.1.2.2.2, fun p hp q hq => place_of_isPlace (by simpa [hq] using h.2 p hp)⟩

theorem test_hyp_move_pieces : moveEntry.hidden = [] ∧ PiecesOk moveEntry 50 chain150 movePieces ∧
    Served moveEntry walk150.ask (t0Lines (t0Ptr chain150.rank 0x20080) 128 ++ State.sourceLines movePieces) := by
  refine ⟨by decide +kernel, test_pieces _ _ _ _ (by decide +kernel), ?_⟩
  simp only [Served]
  decide +kernel

/-- A WINDOW of one position and two channels of a byte, from T1 of die 2 to rank 150's terrace 0; and one of stride 0. -/
def layer8 : W64 := 3 * 2 ^ 59 + 150 * 2 ^ 50
def windowWords (strides : W64) : List (Nat × W64) :=
  [(0x20000, 2 ^ 61 + 0x802), (0x20008, layer8), (0x20010, 0x1258000000030000), (0x20080, 2 ^ 32 + 1),
    (0x20088, 2 * 2 ^ 32 + 2 ^ 16 + 1), (0x20098, strides)]
def windowEntry (strides : W64) : State := entered [(150, 0x802)] walk150 (windowWords strides)
/-- Both strides 1. -/
def stride1 : W64 := 2 ^ 48 + 2 ^ 32
/-- Word i of its record, and as the engine reads it. -/
def windowWord (strides : W64) (i : Nat) : W64 :=
  (((windowWords strides).find? fun x => x.1 == 0x20080 + 8 * i).map (·.2)).getD 0
theorem test_window_word : ∀ i ∈ List.range 8,
    (view (windowEntry stride1) walk150.ask).chainWord chain150 0x20080 i = windowWord stride1 i := by decide +kernel
theorem test_window_word_bad :
    (view (windowEntry 0) walk150.ask).chainWord chain150 0x20080 3 = windowWord 0 3 := by decide +kernel
def windowPieces : List Piece := [windowPiece (2 ^ 61 + 0x802) (windowWord stride1) (ptrAdd layer8 0) (ptrAdd 0x1258000000030000 0) 0 0 0]

theorem test_hyp_window :
    (∃ w x, AtEntry (windowEntry stride1) 50 chain150 w x 2 ∧ (x 0).toNat / 2 ^ 15 % 2 ^ 27 = 0 ∧
      64 * ((x 0).toNat % 2 ^ 15) = 0x20080 ∧ x 0 = 2 ^ 61 + 0x802 ∧ x 1 = layer8 ∧ x 2 = 0x1258000000030000 ∧ x 3 = 0) ∧
    (let r := windowWord stride1
     fieldOf (r 3) 32 16 = 1 ∧ fieldOf (r 3) 48 16 = 1 ∧ fieldOf (r 1) 32 32 = 2 ∧ fieldOf (r 1) 16 16 = 1 ∧
     fieldOf (r 1) 0 16 = 1 ∧ fieldOf (r 3) 0 32 = 0 ∧ r 7 = 0) ∧
    PiecesOk (windowEntry stride1) 50 chain150 windowPieces ∧
    (windowEntry stride1).hidden = [] ∧
    (∃ w x, AtEntry (windowEntry 0) 50 chain150 w x 2 ∧ fieldOf (windowWord 0 3) 32 16 = 0) :=
  ⟨⟨_, _, test_at_entry _ _ _ _ (by decide +kernel), by decide +kernel⟩, by decide +kernel, test_pieces _ _ _ _ (by decide +kernel),
    by decide +kernel, _, _, test_at_entry _ _ _ _ (by decide +kernel), by decide +kernel⟩
theorem test_hyp_window_lines :
    let record := t0Lines (t0Ptr chain150.rank 0x20080) 64
    Served (windowEntry stride1) walk150.ask (record ++ State.sourceLines windowPieces) ∧
    Served (windowEntry 0) walk150.ask record ∧
    ¬ Served (serving [] (windowEntry stride1)) walk150.ask record := by
  simp only [Served]
  decide +kernel

/-- A segment move of one segment at T1 of die 2, with EXPAND to BF16: one INT8 block of zeros with scale 127, its header at
level 1 and a CHECK as given; 127 is the right one. -/
def segWalk150 : Walk := { walk150 with expand := some (1, 0) }
def segHeader (chk : Nat) : SegHead :=
  { xpt := 1, fmt := 3, sliced := false, nblk := 1, resv := false, check := chk, next := 0, voff := 32 }
def segWords : List (Nat × W64) :=
  [(0x20000, 2 ^ 60 + 2 ^ 57), (0x20008, layer8), (0x20010, 0x1258000000030000), (0x20018, 1)]
def segState (chk : Nat) : State :=
  let s := entered [] segWalk150 segWords
  { s with mem :=
      (memWriteN s.mem ((Place.layer 8).key 0) (leBytes 8 (2 ^ 62 + 3 * 2 ^ 58 + 2 ^ 44 + chk * 2 ^ 16) ++ leBytes 8 32 ++ [127])) }
def segBytes (chk : Nat) : List Byte := memReadN (segState chk).mem ((Place.layer 8).key 0) (segHeader chk).span
/-- What the well-formed one becomes. -/
def segOut : List Byte :=
  (List.range (segHeader 127).nblk).flatMap fun b => (List.range 32).flatMap fun i =>
    segElement (segHeader 127) .int8 1 0 (segBytes 127) b i

theorem test_hyp_segment_entry :
    ∀ chk ∈ [127, 126], let w := hasRead segWalk150 (wordsOf segWords 0x20000)
      (segState chk).walkOf 50 = some (chain150, w) ∧ (segState chk).engineReady w = true ∧ State.atLimit w = false ∧
      (segState chk).stampsOut 50 chain150 = false ∧ (segState chk).chainRoom chain150 = true ∧
      wordsOf segWords 0x20000 0 = 2 ^ 60 + 2 ^ 57 ∧ wordsOf segWords 0x20000 3 = 1 ∧ w.expand = some (1, 0) ∧
      w.copy = none ∧ Memory.wf (segState chk).mem = true ∧ t0Lines layer8 (max 16 (segHeader chk).span) = [] ∧
      segHeader chk = SegHead.ofBytes (memReadN (view (segState chk) walk150.ask).mem ((Place.layer 8).key 0) 16) ∧
      (segState chk).chainFault 50 chain150 .copySrc true (layer8, true) 16 = none ∧
      (segState chk).chainFault 50 chain150 .copySrc true (layer8, true) (segHeader chk).span = none ∧
      (segState chk).piecesFault 50 chain150
        [{ src := none, dst := some (ptrMove 0x1258000000030000 0), fill := [], n := 64 }] = none ∧ engLevel 50 = some 1 := by
  decide +kernel
theorem test_hyp_segment_at : ∀ chk ∈ [127, 126], At (segState chk) layer8 (.layer 8) 0 := by
  simp only [At]
  decide +kernel
theorem test_hyp_segment_good : SegGood (segHeader 127) .int8 1 0 (segBytes 127) ∧
    SegOutput (segHeader 127) (some 1) 1 0 (segBytes 127) (∃ f, SegGood (segHeader 127) f 1 0 (segBytes 127)) segOut := by
  have h : SegGood (segHeader 127) .int8 1 0 (segBytes 127) := by
    simp only [SegGood]
    decide +kernel
  refine ⟨h, fun _ _ f hf => ?_, fun _ hl => absurd rfl hl, fun hn => absurd ⟨_, h⟩ hn⟩
  obtain rfl : MxFmt.int8 = f := Option.some.inj hf
  rfl
theorem test_hyp_segment_malformed : (¬ ∃ f, SegGood (segHeader 126) f 1 0 (segBytes 126)) ∧
    SegOutput (segHeader 126) (some 1) 1 0 (segBytes 126) (∃ f, SegGood (segHeader 126) f 1 0 (segBytes 126)) (List.replicate 64 0xFF) := by
  have h : ¬ ∃ f, SegGood (segHeader 126) f 1 0 (segBytes 126) := fun ⟨f, hf, _, _, _, _, _, _, hc⟩ => by
    obtain rfl : MxFmt.int8 = f := Option.some.inj hf
    exact absurd hc (by decide +kernel)
  exact ⟨h, fun g => absurd g h, fun g => absurd g h, fun _ => rfl⟩
theorem test_hyp_copying_lines : ∀ g ∈ copyRun2.todo, t0Lines g.dst 1 = [] := by decide +kernel
/-- R63, R65: an INT8 element of value 64 with scale 127 is 1 in BF16. -/
theorem test_segment_element :
    segElement (segHeader 0) .int8 1 0 (List.replicate 16 0 ++ [127] ++ List.replicate 15 0 ++ [64]) 0 0 = [0x80, 0x3F] ∧
    (segHeader 0).expand 1 0 1 [127] (64 :: List.replicate 31 0) = [0x80, 0x3F] ++ List.replicate 62 0 := by decide +kernel

/-! ## Further witnesses: contexts, frames and the save area -/

/-- Context 5 as a secure one. -/
def secure5 : Context := { ctx5 with record := ctx5.record.set 0 (5 * 2 ^ 48 + 1) }

/-- A command that names it. -/
def forSecure (code : W64) : State := command code 5 0 0 (withCtx secure5)

theorem test_unauthorised (code : W64) (n : Nat) (h : (forSecure code).curCode = some n) :
    ((forSecure code).arg 0).toNat < 2 ^ 16 ∧ (forSecure code).ctx? (((forSecure code).arg 0).setWidth 16) = some secure5 ∧
    (forSecure code).authorised secure5.secure = false ∧ (∀ e, (forSecure code).evictionOf secure5.id = some e → e.commanded = false) ∧
    (forSecure code).curCode = some n ∧ ((forSecure code).arg 1).toNat = secure5.gen.toNat := by
  exact ⟨(by decide : (5 : W64).toNat < 2 ^ 16), rfl, rfl, nofun, h, rfl⟩
theorem test_hyp_unauthorised :
    ((forSecure 2).curCode = some 2 ∧ (forSecure 3).curCode = some 3 ∧ (forSecure 4).curCode = some 4 ∧ (forSecure 8).curCode = some 8) ∧
    (let s := command 5 5 3 (2 ^ 24 * 2 ^ 16) (withCtx secure5)
     (s.arg 1).toNat = 3 ∧ recordOk (secure5.record.set 3 (s.arg 2)) = true) ∧
    (let s := command 9 5 1 0 (withCtx { secure5 with resident := none })
     s.curCode = some 9 ∧ (s.arg 1).toNat ≤ s.cairn.version.toNat) := by decide +kernel
theorem test_hyp_create_unauthorised :
    let s := command 1 0 0 0 { State.reset with mem := hostMem secure5.record.toList }
    recordOk secure5.record = true ∧ (Context.init secure5.record s.cairn.version).secure = true ∧
    s.authBlock (s.arg 1).toNat (s.hostBytes (s.arg 0).toNat 128) = false := by decide +kernel
theorem test_hyp_create_header : let s := command 1 0 0 0 { State.reset with mem := lpddrWords tables5 }
    ((created s ctx5).translateSpan none ctx5 (ctx5.fbuf.toNat % 2 ^ 50) 64 true).toOption.isSome = true := by decide +kernel

/-- A context that pre-emption evicted, and the package it saved. -/
def saved5 : Saved := { area := 0, ring := State.reset.ring.slots, phase := 7, engines := State.reset.engines, fresh := true, ringLost := false }

theorem test_hyp_reside_saved : (command 3 5 63 0 { withCtx away5 with saved := some saved5 }).saved = some saved5 := rfl
theorem test_hyp_reside_restores :
    let x := { away5 with preempted := true }
    let s := command 3 5 63 0 { withCtx x with saved := some saved5 }
    saved5.fresh = true ∧ saved5.ringLost = false ∧ x.preempted = true ∧ x.stale = false ∧
    (∀ c ∈ s.contexts, c.id ≠ x.id → c.resident = none) ∧ (∀ e : Fin 96, (s.engines[e]).walk = none) ∧ s.base.powered = true ∧
    ({ s with base := { s.base with powered := false } } : State).base.powered = false := by decide +kernel

/-- Slot 0 of context 5 on rank 0 is suspended; the header of its frame and its descriptor's word 0 are given. -/
def resolving (h d : W64) : State :=
  command 8 5 0 0 (with5 [(0x10200000, h), (0x10200080, d)] (one .c fun c =>
    { running (desc2 0 0) c with
      tasks := { c.tasks with slots := c.tasks.slots.set 0 { c.tasks.slots[(0 : Fin 32)] with st := .suspended } } }))

/-- Frames with ACTION 0 and 1, with ACTION 0 of another VERSION than 1, and with ACTION 2: a single task's and a gang member's. -/
def frames5 : List (W64 × W64) := [(33, 2 ^ 16), (64 + 1, 2 ^ 16 + 1024), (33, 0), (128 + 33, 2 ^ 16), (33, 2 ^ 16 + 256)]

theorem test_hyp_resolve_frames :
    ∀ p ∈ frames5, (resolving p.1 p.2).framesOf ctx5 = [(0, 0, 0x10200000)] ∧ frameWord (resolving p.1 p.2) 0x10200000 0 = p.1 ∧
      frameWord (resolving p.1 p.2) 0x10200000 16 = p.2 := by
  simp only [frames5, List.forall_mem_cons, List.not_mem_nil, false_imp_iff, implies_true, and_true]
  refine ⟨?_, ?_, ?_, ?_, ?_⟩ <;> decide +kernel
theorem test_hyp_resolve_state : let s := resolving 33 (2 ^ 16)
    s.curCode = some 8 ∧ s.ctx? 5 = some ctx5 ∧ s.authorised ctx5.secure = true ∧ (s.arg 1).toNat = ctx5.gen.toNat ∧
    ctx5.resident.isSome = true ∧ (s.core 0).ctx = some ctx5.id ∧ (s.core 0).view.version = 1 := by decide +kernel
theorem test_hyp_resolve_leads :
    ∀ p ∈ frames5, Leads (resolving p.1 p.2) ((resolving p.1 p.2).framesOf ctx5) (0, 0, 0x10200000) (0, 0, 0x10200000) := by
  intro p hp
  rw [(test_hyp_resolve_frames p hp).1]
  by_cases hg : (frameWord (resolving p.1 p.2) 0x10200000 16).getLsbD 8 = true
  · exact .inr ⟨hg, List.mem_singleton.2 rfl, ⟨hg, rfl⟩, fun g hm _ => .inl (List.mem_singleton.1 hm)⟩
  · exact .inl ⟨hg, rfl⟩

/-- R68, R370, R371: an image of a slot, and one of an engine under way, are read back as what was saved. -/
theorem test_slot_image :
    ∀ x ∈ [RingSlot.init, ⟨true, .boarded, true, 0xFFFF, 0xFFFFFFFF, Vector.replicate 8 (-1), true⟩,
        ⟨false, .broken, false, 5, 77, Vector.replicate 8 9, false⟩],
      RingSlot.ofWords (fun i => (x.words[i]?).getD 0) = x := by decide +kernel
theorem test_engine_image :
    let x : Engine := { State.reset.engines[(50 : Fin 96)] with
      queue := [chain150, { chain150 with id := 2, job := some 8, after := [1, 3] }]
      walk := some { segWalk150 with copy := some copyRun2, autoCount := 7, entry := some #v[1, 2, 3, 4], ask := none, nest := [⟨1, 2, 3, 4, 5, 6, 7⟩],
                                     held := some ⟨layer0, true, 3, 2, 9, false⟩ }
      remote := [remote1, { remote1 with chain := some 50 }] }
    (readEngine State.reset.engines[(50 : Fin 96)] x.words).1 = x := by decide +kernel

/-! ## Further witnesses: records, links and power -/

theorem test_hyp_completion_pieces : let s := with5 [] State.reset
    s.translateSpan none ctx5 (job100.compl.toNat % 2 ^ 50) 32 true = .ok [(.lpddr, 0, 32, ⟨2 ^ 63 + 2 ^ 62 + 2 ^ 61, 2⟩)] ∧ Memory.wf s.mem = true := by
  decide +kernel
theorem test_hyp_record_pieces :
    let s := { with5 [] State.reset with contexts := [{ ctx5 with waiting := [FaultRec.zero] }] }
    let lf : Leaf := ⟨2 ^ 63 + 2 ^ 62 + 2 ^ 61, 2⟩
    s.translateSpan none ctx5 0x20040 64 true = .ok [(.lpddr, 0x20040, 64, lf)] ∧ ctx5.fbuf.toNat % 2 ^ 50 = 0x20000 ∧
    ctx5.prod.toNat % max ctx5.fbufn 1 = 0 ∧ Memory.wf s.mem = true ∧
    (s.putGlobal 5 0x20040 ((recordOf FaultRec.zero 5 s.tick).flatMap (leBytes 8))).map
      (fun u => u.translateSpan none ctx5 0x20000 32 true) = some (.ok [(.lpddr, 0x20000, 32, lf)]) := by decide +kernel

/-- Context 5 on package 0, which reaches package 1 by port 0. -/
def linked (tables : List (Nat × W64)) : State :=
  { remoting 0xFFFFFF00 with contexts := [ctx5], mem := lpddrWords tables }

theorem test_hyp_flit_kinds :
    (flit 0).dest = (linked tables5).mgmt.number ∧
    ((linked tables5).countFlit 15 1 true).translateSpan none ctx5 0 2 true = .ok [(.lpddr, 0, 2, ⟨2 ^ 63 + 2 ^ 62 + 2 ^ 61, 2⟩)] ∧
    (((linked tables5).countFlit 15 1 true).translateSpan none ctx5 0 8 false).toOption.isSome = true ∧
    (linked tables5).routePort (flit 0).src.toNat = some 0 ∧ flits (flit 0).bytes = 1 ∧
    (linked []).cairn.port.getLsbD 15 = true ∧ (linked []).cairn.port.getLsbD 0 = true := by decide +kernel
theorem test_hyp_flit_fails :
    ((linked []).countFlit 15 1 true).translateSpan none ctx5 0 2 true = .error (1, false, 0) ∧
    ((linked []).countFlit 15 1 true).translateSpan none ctx5 0 8 false = .error (1, false, 0) ∧
    (remoting 0xFFFFFF00).ctx? 5 = none := by decide +kernel

/-- A flit that left by port 0 and is not acknowledged. -/
def sent1 : SentFlit :=
  { dest := 1, src := 0, port := 0, kind := .write, ctxid := 5, world := false, off := 0, bytes := [1, 2] }
def unacked (x : Input) : State :=
  { State.reset with
    phase := .early, inputs := [(0, x)], links := State.reset.links.set 0 { State.reset.links[(0 : Fin 16)] with unacked := [sent1] } }

theorem test_hyp_link_signals :
    (∀ x ∈ [Input.linkAck 0 1, .linkNak 0], (unacked x).base.alive = true ∧ (unacked x).phase = .early ∧
      (unacked x).dueInput = some (0, x) ∧ (unacked x).cairn.port.getLsbD 0 = true ∧
      (unacked x).links[(0 : Fin 16)].unacked = sent1 :: []) := by decide +kernel
theorem test_link_replay_is_counted :
    (match step (unacked (.linkNak 0)) with
    | .next t => decide (t.sent = [sent1] ∧ t.scree.replays[(0 : Fin 16)] = 1)
    | _ => false) = true := by decide +kernel

/-- A tick that is due is an event before the cycle. -/
theorem test_hyp_early_event : let s := { State.reset with phase := .early, tickDue := 0, inputs := [] }
    s.base.alive = true ∧ s.dueInput = none ∧ s.spanDue = none ∧ s.nextEarly = some .tick := by decide +kernel
/-- So is a gang's freeze whose span is not fixed. -/
theorem test_hyp_span_due :
    let s : State := { State.reset with
      phase := .early, inputs := [], gangs := [{ id := 1, gangid := 0, cyc := 0, span := none, toTake := [], served := [], stop := none }] }
    s.base.alive = true ∧ s.dueInput = none ∧ s.spanDue = some 1 := by decide +kernel

/-! ## Further witnesses: what performs in a cycle -/

/-- A whole vector and a whole mask, due at cycle 5, and a special register. -/
def fileWrites : List Latch :=
  [due .v (.vec 383 VReg.zero MReg.ones true), due .v (.msk 15 MReg.zero MReg.ones true), due .c (.special 7 3),
   due .c (.special 11 9)]

theorem test_whole_slices : wholeSlices MReg.ones = List.range 8 := by decide +kernel
theorem test_file_writes : cycleWrites ((latched fileWrites).core 0).pipe.latches 5 =
    (List.range 8).map (fun j => (Stream.v, 1, RegWrite.vec 383 j VReg.zero MReg.ones)) ++
      (List.range 8).map (fun j => (Stream.v, 1, RegWrite.msk 15 j MReg.zero MReg.ones)) := by
  have h : byIssue fileWrites = fileWrites := rfl
  rw [latched, State.core_modCore_same, ← test_whole_slices, cycleWrites]
  change (byIssue fileWrites).flatMap _ = _
  rw [h]
  simp [fileWrites, due, Latch.writesAt, Function.comp_def]
theorem test_hyp_file_writes :
    let ws := cycleWrites ((latched fileWrites).core 0).pipe.latches 5
    ((.v, 1, .vec 383 7 VReg.zero MReg.ones) ∈ ws ∧ Alone ws (.v, 1, .vec 383 7 VReg.zero MReg.ones)) ∧
    ((.v, 1, .msk 15 7 MReg.zero MReg.ones) ∈ ws ∧ Alone ws (.v, 1, .msk 15 7 MReg.zero MReg.ones)) := by
  rw [test_file_writes]
  simp [Alone, RegWrite.key, List.range_succ]
theorem test_hyp_special_writes :
    fileWrites = fileWrites.take 2 ++ due .c (.special 7 3) :: [due .c (.special 11 9)] ∧
    fileWrites = fileWrites.take 3 ++ due .c (.special 11 9) :: [] := ⟨rfl, rfl⟩
theorem test_special_writes_reach_their_register :
    (((latched fileWrites).core 0).regWrites 5).sp.fpf = 3 ∧ (((latched fileWrites).core 0).regWrites 5).sp.tmcmp = 9 := by
  decide +kernel
/-- Slice 7 of a V word, with every part of it to write. -/
theorem test_hyp_vector_slices : let l := due .v (.vword [] [VReg.zero, VReg.zero] [MReg.ones])
    l.base ≤ 12 ∧ 12 < l.base + 8 ∧ l.parts.getLsbD 0 = true ∧ ({ l with parts := 0xFF }).parts.getLsbD (12 - l.base) = true := by
  decide
theorem test_hyp_tile_writes :
    let ls := [due .x (.tile 3 (Vector.replicate 4096 0)), { due .x (.tile 31 (Vector.replicate 4096 1)) with issue := 2 },
      due .x (.tile 31 (Vector.replicate 4096 0))]
    LastWriter ls 5 3 (due .x (.tile 3 (Vector.replicate 4096 0))) true ∧
    LastWriter ls 5 31 { due .x (.tile 31 (Vector.replicate 4096 1)) with issue := 2 } false := by
  refine ⟨⟨[], _, rfl, rfl, fun m hm hw _ => ?_⟩, ⟨[_], [_], rfl, rfl, fun m hm hw _ => ?_⟩⟩ <;>
    rcases List.mem_cons.1 hm with rfl | hm <;> (try rcases List.mem_cons.1 hm with rfl | hm) <;>
    simp_all [writesSlot, due]

end Sys2Proof.Tests
end

section
/-! PROOFS. The C stream's division (R158) and its tagged pointers (R163, R164). -/

namespace Sys2Proof.Proofs

open Sys2Proof Sys2Proof.Machine Sys2Proof.Claims

/-! ## What the words answer: a value in flight -/

theorem result_div (s : State) (d a b : BitVec 6) : Result (.div d a b) s 12 d (divQ (S s a) (S s b)) := rfl

theorem result_rem (s : State) (d a b : BitVec 6) : Result (.rem d a b) s 12 d (divR (S s a) (S s b)) := rfl

theorem result_divn (s : State) (d a b : BitVec 6) : Result (.divn d a b) s 12 d (divnQ (S s a) (S s b)) := rfl

theorem result_remn (s : State) (d a b : BitVec 6) : Result (.remn d a b) s 12 d (divnR (S s a) (S s b)) := rfl

theorem addrResult_amk (s : State) (d : BitVec 5) (a b : BitVec 6) (spc : BitVec 5) :
    AddrResult (.amk d a b spc) s d (makePtr spc (S s a) (S s b)) := rfl

theorem addrResult_aadd (s : State) (d a : BitVec 5) (b : BitVec 6) :
    AddrResult (.aadd d a b) s d (ptrAdd (A s a) (S s b).toInt) := rfl

theorem addrResult_aaddi (s : State) (d a : BitVec 5) (i : BitVec 34) :
    AddrResult (.aaddi d a i) s d (ptrAdd (A s a) i.toInt) := rfl

/-! ## Division (R158) -/

/-- The dividend whose quotient by -1 is no signed 64-bit value. -/
theorem toInt_least : (w64 (2 ^ 63)).toInt = -2 ^ 63 := by decide

theorem toInt_allOnes64 : (BitVec.allOnes 64).toInt = -1 := by decide

theorem toInt_eq_zero_iff (b : W64) : b.toInt = 0 ↔ b = 0 := BitVec.toInt_inj (y := 0)

theorem toNat_eq_zero_iff (b : W64) : b.toNat = 0 ↔ b = 0 := BitVec.toNat_inj (y := 0)

theorem toInt_eq_neg_one_iff (b : W64) : b.toInt = -1 ↔ b = BitVec.allOnes 64 := by
  rw [← toInt_allOnes64, BitVec.toInt_inj]

theorem toInt_eq_least_iff (a : W64) : a.toInt = -2 ^ 63 ↔ a = w64 (2 ^ 63) := by
  rw [← toInt_least, BitVec.toInt_inj]

theorem divQ_zero (a : W64) : divQ a 0 = BitVec.allOnes 64 := if_pos rfl
theorem divR_zero (a : W64) : divR a 0 = a := if_pos rfl
theorem divnQ_zero (a : W64) : divnQ a 0 = BitVec.allOnes 64 := if_pos rfl
theorem divnR_zero (a : W64) : divnR a 0 = a := if_pos rfl
theorem divQ_overflow : divQ (w64 (2 ^ 63)) (BitVec.allOnes 64) = w64 (2 ^ 63) := by decide
theorem divR_overflow : divR (w64 (2 ^ 63)) (BitVec.allOnes 64) = 0 := by decide

/-- Away from the two corners the quotient is the library's signed one, which does not wrap there. -/
theorem toInt_divQ {a b : W64} (hb : b ≠ 0) (hc : ¬ (a = w64 (2 ^ 63) ∧ b = BitVec.allOnes 64)) :
    (divQ a b).toInt = a.toInt.tdiv b.toInt := by
  rw [divQ, if_neg hb, if_neg hc, BitVec.toInt_ofInt, ← BitVec.toInt_sdiv]
  exact BitVec.toInt_sdiv_of_ne_or_ne a b (not_and_or.1 hc)

theorem toInt_divR {a b : W64} (hb : b ≠ 0) (hc : ¬ (a = w64 (2 ^ 63) ∧ b = BitVec.allOnes 64)) :
    (divR a b).toInt = a.toInt.tmod b.toInt := by
  rw [divR, if_neg hb, if_neg hc, ← BitVec.toInt_srem, BitVec.ofInt_toInt]

theorem toNat_divnQ {a b : W64} (hb : b ≠ 0) : (divnQ a b).toNat = a.toNat / b.toNat := by
  rw [divnQ, if_neg hb, ← BitVec.toNat_udiv, w64, BitVec.ofNat_toNat, BitVec.setWidth_eq]

theorem toNat_divnR {a b : W64} (hb : b ≠ 0) : (divnR a b).toNat = a.toNat % b.toNat := by
  rw [divnR, if_neg hb, ← BitVec.toNat_umod, w64, BitVec.ofNat_toNat, BitVec.setWidth_eq]

/-- R158's div, both corners included. -/
theorem divQ_divR_spec (a b : W64) :
    if b.toInt = 0 then (divQ a b).toInt = -1 ∧ divR a b = a
    else if a.toInt = -2 ^ 63 ∧ b.toInt = -1 then (divQ a b).toInt = -2 ^ 63 ∧ (divR a b).toInt = 0
    else (divQ a b).toInt = a.toInt.tdiv b.toInt ∧ (divR a b).toInt = a.toInt - b.toInt * (divQ a b).toInt := by
  simp only [toInt_eq_zero_iff, toInt_eq_least_iff, toInt_eq_neg_one_iff]
  split
  · next hb =>
    subst hb
    exact ⟨divQ_zero a, divR_zero a⟩
  · next hb =>
    split
    · next hc =>
      obtain ⟨rfl, rfl⟩ := hc
      exact ⟨divQ_overflow, divR_overflow⟩
    · next hc =>
      exact ⟨toInt_divQ hb hc, by rw [toInt_divR hb hc, toInt_divQ hb hc, Int.tmod_def]⟩

/-- R158's divn. -/
theorem divnQ_divnR_spec (a b : W64) :
    if b.toNat = 0 then (divnQ a b).toNat = 2 ^ 64 - 1 ∧ divnR a b = a
    else (divnQ a b).toNat = a.toNat / b.toNat ∧ (divnR a b).toNat = a.toNat - b.toNat * (divnQ a b).toNat := by
  simp only [toNat_eq_zero_iff]
  split
  · next hb =>
    subst hb
    exact ⟨(congrArg BitVec.toNat (divnQ_zero a)).trans BitVec.toNat_allOnes, divnR_zero a⟩
  · next hb =>
    exact ⟨toNat_divnQ hb, by rw [toNat_divnR hb, toNat_divnQ hb, Nat.mod_def]⟩

/-- Settles O2: each word holds the model's quotient or remainder, and these meet R158 corner by corner. -/
theorem divisionTruncatesAndNeverTraps : Obligations.DivisionTruncatesAndNeverTraps := by
  intro s d a b
  exact ⟨_, _, _, _, result_div s d a b, result_rem s d a b, result_divn s d a b, result_remn s d a b,
    divQ_divR_spec (S s a) (S s b), divnQ_divnR_spec (S s a) (S s b)⟩

/-! ## Tagged pointers (R163, R164) -/

theorem mod64_natCast (n : Nat) : mod64 n = w64 n := BitVec.ofInt_natCast 64 n

theorem eq_mod64_of_toNat_eq {x : W64} {n : Nat} (h : x.toNat = n) : x = mod64 n := by
  rw [mod64_natCast, ← h, w64, BitVec.ofNat_toNat, BitVec.setWidth_eq]

theorem bits_eq_div_mod (x : W64) (lo len : Nat) : bits x lo len = x.toNat / 2 ^ lo % 2 ^ len := by
  rw [bits, BitVec.extractLsb'_toNat, Nat.shiftRight_eq_div_pow]

theorem toNat_append_eq_mul_add {m n : Nat} (x : BitVec m) (y : BitVec n) :
    (x ++ y).toNat = x.toNat * 2 ^ n + y.toNat := by
  rw [BitVec.toNat_append, ← Nat.shiftLeft_add_eq_or_of_lt y.isLt, Nat.shiftLeft_eq]

/-- Three fields side by side, each counted from its own lowest bit. -/
theorem toNat_append_low {m p q : Nat} (x : BitVec m) (a b : W64) :
    (x ++ a.extractLsb' 0 p ++ b.extractLsb' 0 q).toNat =
      x.toNat * 2 ^ (p + q) + a.toNat % 2 ^ p * 2 ^ q + b.toNat % 2 ^ q := by
  simp only [toNat_append_eq_mul_add, BitVec.extractLsb'_toNat, Nat.shiftRight_zero]
  ring

theorem makePtr_eq_mod64 (spc : BitVec 5) (a b : W64) :
    makePtr spc a b = mod64 (if spc = 7 then spc.toNat * 2 ^ 59 + a.toNat % 2 ^ 12 * 2 ^ 47 + b.toNat % 2 ^ 47
      else spc.toNat * 2 ^ 59 + a.toNat % 2 ^ 9 * 2 ^ 50 + b.toNat % 2 ^ 50 : Nat) := by
  unfold makePtr
  split
  · exact eq_mod64_of_toNat_eq (toNat_append_low spc a b)
  · exact eq_mod64_of_toNat_eq (toNat_append_low spc a b)

/-- Settles O5: the pointer is its fields side by side, so its value is the sum that R163 writes. -/
theorem amkBuildsThePointer : Obligations.AmkBuildsThePointer := by
  intro s d a b spc
  rw [← makePtr_eq_mod64]
  exact addrResult_amk s d a b spc

theorem ptrSpace_eq_div (p : W64) : ptrSpace p = p.toNat / 2 ^ 59 := by
  rw [ptrSpace, bits_eq_div_mod]
  exact Nat.mod_eq_of_lt (Nat.div_lt_of_lt_mul p.isLt)

/-- The part of a pointer above an offset of w bits, with the offset moved by d modulo 2^w. -/
theorem w64_offset_add (p : W64) (w : Nat) (d : Int) :
    w64 (p.toNat / 2 ^ w * 2 ^ w + (((bits p 0 w : Nat) + d) % 2 ^ w).toNat) =
      mod64 ((p.toNat / 2 ^ w : Nat) * 2 ^ w + ((p.toNat % 2 ^ w : Nat) + d) % 2 ^ w) := by
  have hoff : bits p 0 w = p.toNat % 2 ^ w := by rw [bits_eq_div_mod, pow_zero, Nat.div_one]
  have hnonneg : 0 ≤ ((p.toNat % 2 ^ w : Nat) + d) % 2 ^ w := Int.emod_nonneg _ (by positivity)
  rw [← mod64_natCast, hoff, Nat.cast_add, Int.toNat_of_nonneg hnonneg]
  push_cast
  rfl

theorem ptrAdd_eq_mod64 (p : W64) (d : Int) :
    let w := if p.toNat / 2 ^ 59 = 7 then 47 else 50
    ptrAdd p d = mod64 ((p.toNat / 2 ^ w : Nat) * 2 ^ w + ((p.toNat % 2 ^ w : Nat) + d) % 2 ^ w) := by
  rw [ptrAdd, ptrSpace_eq_div]
  split
  · exact w64_offset_add p 47 d
  · exact w64_offset_add p 50 d

/-- Settles O6: both words hold the pointer with its offset moved by the signed addend, the width of R164. -/
theorem pointerAdditionChangesOnlyTheOffset : Obligations.PointerAdditionChangesOnlyTheOffset := by
  intro s d a b i add w sum
  have hsum : ptrAdd (A s a) add = sum := ptrAdd_eq_mod64 (A s a) add
  rw [← hsum]
  exact ⟨fun h => h ▸ addrResult_aadd s d a b, fun h => h ▸ addrResult_aaddi s d a i⟩

end Sys2Proof.Proofs
end
